-- ==== Sys2Proof/Word.lean ====
section
/-! DEFINITION. Word: the widths the machine works in, and the sparse map that holds every register file and
memory whose unlisted entries are zero. -/

namespace Sys2Proof

/-- A byte, an instruction word or lane value, and an address or uniform value (R64, R104). -/
abbrev Byte := BitVec 8
abbrev Word := BitVec 32
abbrev DWord := BitVec 64

/-- Sparse data by key: the listed entries with strictly rising keys, no entry zero; an unlisted key reads as zero. -/
abbrev SMap (w : Nat) := List (Nat × BitVec w)

end Sys2Proof
end

