-- ==== Sys2Proof/Syntax.lean ====
section
/-! DEFINITION. Syntax: the extension words (R69), the operands of the device's steps, and the one
inductive of instructions and steps, one constructor per row of the opcode table. -/

namespace Sys2Proof

/-- An extension word, its fields cut out as R69 lays them. -/
inductive ExtWord where
  /-- Type 00: the C field, GUARD, SRC and FAM. -/
  | operand (c : BitVec 7) (guard : BitVec 4) (src : BitVec 3) (fam : BitVec 10)
  /-- Type 01: the facets of A, B and C. -/
  | facet (fa fb fc : BitVec 7)
  /-- Type 10: HI20. -/
  | imm (hi : BitVec 20)
  /-- Type 11: the scheduling hints STALL, YLD, SBSET and WMASK. -/
  | control (stall : BitVec 4) (yld : BitVec 1) (sbset : BitVec 3) (wmask : BitVec 6)
  deriving DecidableEq, Repr

/-- The extension words before a base word, in the order they stand (R64, R70). -/
abbrev Exts := List ExtWord

/-- The part of a write's way to its home that a HOME_APPLY_WRITE step makes (R224, R228, R216). -/
inductive WritePhase where
  /-- The request is injected onto its bangle (R218). -/
  | inject
  /-- The request reaches the queue of its home slice (R218). -/
  | arrive
  /-- The write takes its place in the core order (R228). -/
  | enter
  /-- A RED.M collects in a U copy of its core (R224). -/
  | collect
  /-- The home, or the owning core of a scratchpad, applies the write (R216). -/
  | apply
  deriving DecidableEq, Repr

/-- The part of an outstanding load that a LOAD_RETURN step makes, with the outcome of its read (R328). -/
inductive ReadPhase where
  /-- The load is performed: it reads its core's order and its homes, as far as it has not; the data is on its way. -/
  | sample
  /-- The load takes its place in its core's order, and reads what that order holds for it (R228). -/
  | order
  /-- The load reads at its homes, before or after its place in its core's order (R229). -/
  | home
  /-- The request for a line is injected onto its bangle, reaches the queue of its home slice, and is served there (R218). -/
  | inject (line : Nat)
  | arrive (line : Nat)
  | line (line : Nat)
  /-- A correctable error: corrected and counted, and the load is performed (R328). -/
  | corrected
  /-- The data returns and is written to the lanes' registers. -/
  | deliver
  /-- An uncorrectable read, retried once with success: logged as transient, then delivered (R328). -/
  | transient
  /-- An uncorrectable read whose retry fails: the frame retires and the lanes take MEMERR (R328). -/
  | lasting
  deriving DecidableEq, Repr

/-- What is given up in a REMOTE_GIVE_UP step (R374, R380). -/
inductive GiveUp where
  /-- A request: the id of a load, an ATOM's load or a write. -/
  | request (id : Nat)
  /-- The watch of a lane's MWAIT. -/
  | watch (core slot lane : Nat)
  /-- An access of the running checkpoint job to its buddy. -/
  | buddy
  deriving DecidableEq, Repr

/-- What stops or fails an engine job in a JOB_FAULT step (R287, R328, R374). -/
inductive JobTrouble where
  /-- The job's next transfer meets a translation fault. -/
  | translation
  /-- The job's next transfer meets a lasting memory error. -/
  | memory
  /-- The job's next transfer to a peer device is given up. -/
  | unreachable
  /-- The job writes a cameo line under the full condition, or reads a line left absent by a failed copy. -/
  | fatal
  deriving DecidableEq, Repr

/-- Names one clasp of the device (R289): by core and slot, by team, by gang or by launch. -/
inductive ClaspRef where
  | group (core slot idx : Nat)
  | team (team idx : Nat)
  | gang (launch gang idx : Nat)
  | grid (launch idx : Nat)
  deriving DecidableEq, Repr

/-- The operations of ATOM and RED.M with their types (R249, R252). -/
inductive AtomOp where
  | add | addF | min | minU | minF | max | maxU | maxF | and | or | xor | xchg | cas | inc | dec
  deriving DecidableEq, Repr

/-- An access that a peer device makes to this device's memory (R371); `cameo` says that the peer maps a cameo page (R237).
`watch` and `unwatch`: an MWAIT of the peer checks a word here and registers its watch, and takes it back (R254, R373). `own`
and `entry`: what the peer's agents write in its own memory, and a word of its own inbound table, key 2 × entry + word (R371,
R373). -/
inductive InboundReq where
  | read (pa len : Nat)
  | write (pa : Nat) (bytes : List (BitVec 8)) (cameo : Bool)
  | atom (op : AtomOp) (pa : Nat) (b d : BitVec 32) (cameo : Bool)
  | watch (pa : Nat) (b : BitVec 32) (ne : Bool)
  | unwatch (pa : Nat)
  | own (pa : Nat) (bytes : List (BitVec 8))
  | entry (key : Nat) (v : BitVec 64)
  deriving DecidableEq, Repr

/-- The RISC-V modes of a signet core (R301). -/
inductive SvcMode where
  | m | s | u
  deriving DecidableEq, Repr, Inhabited

/-- The service core that makes an access: a cluster's signet core in a mode, the same at the scratchpad of a team on a core
of its cluster, the policy core, or a packet core (R9, R22). -/
inductive BusMaster where
  | signet (cluster : Nat) (mode : SvcMode)
  | signetPad (cluster team : Nat)
  | policy
  | packet (n : Nat)
  deriving DecidableEq, Repr

/-- What a service core's access does at its address: a register or memory is written, or read; and the other acts of a
service core. -/
inductive BusOp where
  | write (v : BitVec 64)
  | read
  /-- Of 2 to the power of `log` bytes. -/
  | writeN (log : BitVec 2) (v : BitVec 64)
  | readN (log : BitVec 2)
  /-- An AMO of RISC-V, of 8 bytes or of 4 (R229). -/
  | amo (op : AtomOp) (wide : Bool) (v : BitVec 64)
  /-- The fetch of 2 bytes of an instruction. -/
  | fetch
  /-- LR and SC of RISC-V, of 8 bytes or of 4. -/
  | lr (wide : Bool)
  | sc (wide : Bool) (v : BitVec 64)
  /-- A FENCE of RISC-V: FENCE.SC at DEVICE scope (R229). -/
  | fence
  /-- The loader registers the code object at the address into the context of a descriptor, with its data region (R348). -/
  | register (desc data : BitVec 64)
  /-- Filigree sets the guest_cid of virtio-vsock (R365). -/
  | guestCid (v : BitVec 64)
  /-- The core goes on with its own instructions: it makes the next access of one, or ends it (R9, R22, log 10). -/
  | run
  deriving DecidableEq, Repr

/-- Where a service core's access goes: the master and its address. -/
structure BusAddr where
  master : BusMaster
  addr : BitVec 64
  deriving DecidableEq, Repr

/-- A cycle of a core, and the lines of text that its fetch and loop buffers have lost meanwhile (R93). -/
structure CoreCycle where
  core : Nat
  lost : List Nat := []
  deriving DecidableEq, Repr

/-- An error of on-core storage: the first affected lane, and whether the error is a correctable one (R328). -/
structure CoreError where
  lane : Nat
  corrected : Bool := false
  deriving DecidableEq, Repr

/-- A link that is up, and whether a flit has been resent on it (R372). -/
structure LinkUp where
  link : Nat
  resent : Bool := false
  deriving DecidableEq, Repr

/-- One constructor per row of the opcode table. A row with an encoding carries its extension words `x` and the raw
fields of its base word; a row without one (a step of the device) carries the operands that say which unit makes it.
The encoded rows stand first, then the steps of the hardware, then those of software and of the outside world. -/
inductive Instr where
  /-- BRA (R156). -/
  | bra (x : Exts) (n : BitVec 1) (g : BitVec 3) (o : BitVec 22)
  /-- CALL (R158). -/
  | call (x : Exts) (n : BitVec 1) (g : BitVec 3) (o : BitVec 22)
  /-- LOOP (R163). -/
  | loop (x : Exts) (d a : BitVec 7) (i : BitVec 12)
  /-- LOOPI (R163). -/
  | loopi (x : Exts) (d a : BitVec 7) (i : BitVec 12)
  /-- BRI (R157). -/
  | bri (x : Exts) (a : BitVec 7)
  /-- CALLI (R158). -/
  | calli (x : Exts) (a : BitVec 7)
  /-- RET (R159). -/
  | ret (x : Exts)
  /-- EXIT (R161). -/
  | exit (x : Exts)
  /-- CJOIN (R167). -/
  | cjoin (x : Exts) (a : BitVec 7)
  /-- YIELD (R168). -/
  | yield (x : Exts)
  /-- NOP (R168). -/
  | nop (x : Exts)
  /-- CMARK (R167). -/
  | cmark (x : Exts) (d : BitVec 7)
  /-- WBASE (R169). -/
  | wbase (x : Exts) (i : BitVec 12)
  /-- SADD (R139). -/
  | sadd (x : Exts) (d a b : BitVec 7)
  /-- SSUB (R139). -/
  | ssub (x : Exts) (d a b : BitVec 7)
  /-- SMUL (R139). -/
  | smul (x : Exts) (d a b : BitVec 7)
  /-- SMAD (R140). -/
  | smad (x : Exts) (d a b : BitVec 7)
  /-- SAND (R139). -/
  | sand (x : Exts) (d a b : BitVec 7)
  /-- SOR (R139). -/
  | sor (x : Exts) (d a b : BitVec 7)
  /-- SXOR (R139). -/
  | sxor (x : Exts) (d a b : BitVec 7)
  /-- SSHL (R139). -/
  | sshl (x : Exts) (d a b : BitVec 7)
  /-- SSHR (R139). -/
  | sshr (x : Exts) (d a b : BitVec 7)
  /-- SSRA (R139). -/
  | ssra (x : Exts) (d a b : BitVec 7)
  /-- SMIN (R139). -/
  | smin (x : Exts) (d a b : BitVec 7)
  /-- SMAX (R139). -/
  | smax (x : Exts) (d a b : BitVec 7)
  /-- SCMP (R140). -/
  | scmp (x : Exts) (d a b : BitVec 7)
  /-- SMOV (R140). -/
  | smov (x : Exts) (d a : BitVec 7)
  /-- SMOVI (R141). -/
  | smovi (x : Exts) (d : BitVec 7) (i : BitVec 12)
  /-- SREAD (R110). -/
  | sread (x : Exts) (d : BitVec 7) (i : BitVec 12)
  /-- SWRITE (R111). -/
  | swrite (x : Exts) (a : BitVec 7) (i : BitVec 12)
  /-- IADD (R143). -/
  | iadd (x : Exts) (d a b : BitVec 7)
  /-- IADDC (R144). -/
  | iaddc (x : Exts) (d a b : BitVec 7)
  /-- ISUB (R143). -/
  | isub (x : Exts) (d a b : BitVec 7)
  /-- IMUL (R143). -/
  | imul (x : Exts) (d a b : BitVec 7)
  /-- IMULH (R143). -/
  | imulh (x : Exts) (d a b : BitVec 7)
  /-- IMAD (R145). -/
  | imad (x : Exts) (d a b : BitVec 7)
  /-- IMADW (R145). -/
  | imadw (x : Exts) (d a b : BitVec 7)
  /-- IAND (R143). -/
  | iand (x : Exts) (d a b : BitVec 7)
  /-- IOR (R143). -/
  | ior (x : Exts) (d a b : BitVec 7)
  /-- IXOR (R143). -/
  | ixor (x : Exts) (d a b : BitVec 7)
  /-- INOT (R143). -/
  | inot (x : Exts) (d a : BitVec 7)
  /-- ISHL (R143). -/
  | ishl (x : Exts) (d a b : BitVec 7)
  /-- ISHR (R143). -/
  | ishr (x : Exts) (d a b : BitVec 7)
  /-- ISRA (R143). -/
  | isra (x : Exts) (d a b : BitVec 7)
  /-- IMIN (R143). -/
  | imin (x : Exts) (d a b : BitVec 7)
  /-- IMAX (R143). -/
  | imax (x : Exts) (d a b : BitVec 7)
  /-- IABS (R143). -/
  | iabs (x : Exts) (d a : BitVec 7)
  /-- ICMP (R146). -/
  | icmp (x : Exts) (d a b : BitVec 7)
  /-- ISEL (R146). -/
  | isel (x : Exts) (d a b : BitVec 7)
  /-- POPC (R143). -/
  | popc (x : Exts) (d a : BitVec 7)
  /-- CLZ (R143). -/
  | clz (x : Exts) (d a : BitVec 7)
  /-- BREV (R143). -/
  | brev (x : Exts) (d a : BitVec 7)
  /-- BFX (R147). -/
  | bfx (x : Exts) (d a b : BitVec 7)
  /-- BFI (R147). -/
  | bfi (x : Exts) (d a b : BitVec 7)
  /-- LEA (R148). -/
  | lea (x : Exts) (d a b : BitVec 7)
  /-- PAND (R149). -/
  | pand (x : Exts) (d a b : BitVec 7)
  /-- POR (R149). -/
  | por (x : Exts) (d a b : BitVec 7)
  /-- PXOR (R149). -/
  | pxor (x : Exts) (d a b : BitVec 7)
  /-- PNOT (R149). -/
  | pnot (x : Exts) (d a : BitVec 7)
  /-- PMOV (R149). -/
  | pmov (x : Exts) (d a : BitVec 7)
  /-- VOTE_P (R151). -/
  | voteP (x : Exts) (d a : BitVec 7)
  /-- VOTE_S (R151). -/
  | voteS (x : Exts) (d a : BitVec 7)
  /-- MATCH_V (R152). -/
  | matchV (x : Exts) (d a : BitVec 7)
  /-- MATCH_S (R152). -/
  | matchS (x : Exts) (d a : BitVec 7)
  /-- RED_I_V (R153). -/
  | redIV (x : Exts) (d a : BitVec 7)
  /-- RED_I_S (R153). -/
  | redIS (x : Exts) (d a : BitVec 7)
  /-- SCAN_I_V (R154). -/
  | scanIV (x : Exts) (d a : BitVec 7)
  /-- SCAN_I_S (R154). -/
  | scanIS (x : Exts) (d a : BitVec 7)
  /-- FADD (R175). -/
  | fadd (x : Exts) (d a b : BitVec 7)
  /-- FSUB (R175). -/
  | fsub (x : Exts) (d a b : BitVec 7)
  /-- FMUL (R175). -/
  | fmul (x : Exts) (d a b : BitVec 7)
  /-- FFMA (R176). -/
  | ffma (x : Exts) (d a b : BitVec 7)
  /-- FMIN (R177). -/
  | fmin (x : Exts) (d a b : BitVec 7)
  /-- FMAX (R177). -/
  | fmax (x : Exts) (d a b : BitVec 7)
  /-- FCMP (R178). -/
  | fcmp (x : Exts) (d a b : BitVec 7)
  /-- FCLASS (R179). -/
  | fclass (x : Exts) (d a : BitVec 7)
  /-- FRND (R180). -/
  | frnd (x : Exts) (d a : BitVec 7)
  /-- FADD_X (R187). -/
  | faddX (x : Exts) (d a b : BitVec 7)
  /-- FSUB_X (R187). -/
  | fsubX (x : Exts) (d a b : BitVec 7)
  /-- FMUL_X (R187). -/
  | fmulX (x : Exts) (d a b : BitVec 7)
  /-- DWADD (R189). -/
  | dwadd (x : Exts) (d a b : BitVec 7)
  /-- DWSUB (R189). -/
  | dwsub (x : Exts) (d a b : BitVec 7)
  /-- DWMUL (R190). -/
  | dwmul (x : Exts) (d a b : BitVec 7)
  /-- DWNORM (R191). -/
  | dwnorm (x : Exts) (d a : BitVec 7)
  /-- FADD_F64 (R175). -/
  | faddF64 (x : Exts) (d a b : BitVec 7)
  /-- FSUB_F64 (R175). -/
  | fsubF64 (x : Exts) (d a b : BitVec 7)
  /-- FMUL_F64 (R175). -/
  | fmulF64 (x : Exts) (d a b : BitVec 7)
  /-- FFMA_F64 (R176). -/
  | ffmaF64 (x : Exts) (d a b : BitVec 7)
  /-- FMIN_F64 (R177). -/
  | fminF64 (x : Exts) (d a b : BitVec 7)
  /-- FMAX_F64 (R177). -/
  | fmaxF64 (x : Exts) (d a b : BitVec 7)
  /-- FCMP_F64 (R178). -/
  | fcmpF64 (x : Exts) (d a b : BitVec 7)
  /-- FCLASS_F64 (R179). -/
  | fclassF64 (x : Exts) (d a : BitVec 7)
  /-- FRND_F64 (R180). -/
  | frndF64 (x : Exts) (d a : BitVec 7)
  /-- FADD_X_F64 (R187). -/
  | faddXF64 (x : Exts) (d a b : BitVec 7)
  /-- FSUB_X_F64 (R187). -/
  | fsubXF64 (x : Exts) (d a b : BitVec 7)
  /-- FMUL_X_F64 (R187). -/
  | fmulXF64 (x : Exts) (d a b : BitVec 7)
  /-- DWADD_F64 (R189). -/
  | dwaddF64 (x : Exts) (d a b : BitVec 7)
  /-- DWSUB_F64 (R189). -/
  | dwsubF64 (x : Exts) (d a b : BitVec 7)
  /-- DWMUL_F64 (R190). -/
  | dwmulF64 (x : Exts) (d a b : BitVec 7)
  /-- DWNORM_F64 (R191). -/
  | dwnormF64 (x : Exts) (d a : BitVec 7)
  /-- FDIV (R181). -/
  | fdiv (x : Exts) (d a b : BitVec 7)
  /-- FSQRT (R181). -/
  | fsqrt (x : Exts) (d a : BitVec 7)
  /-- FRCP (R181). -/
  | frcp (x : Exts) (d a : BitVec 7)
  /-- FRSQ (R181). -/
  | frsq (x : Exts) (d a : BitVec 7)
  /-- FEX2 (R181). -/
  | fex2 (x : Exts) (d a : BitVec 7)
  /-- FLG2 (R181). -/
  | flg2 (x : Exts) (d a : BitVec 7)
  /-- FSIN (R181). -/
  | fsin (x : Exts) (d a : BitVec 7)
  /-- FCOS (R181). -/
  | fcos (x : Exts) (d a : BitVec 7)
  /-- FDIV_F64 (R181). -/
  | fdivF64 (x : Exts) (d a b : BitVec 7)
  /-- FSQRT_F64 (R181). -/
  | fsqrtF64 (x : Exts) (d a : BitVec 7)
  /-- FRCP_F64 (R181). -/
  | frcpF64 (x : Exts) (d a : BitVec 7)
  /-- FRSQ_F64 (R181). -/
  | frsqF64 (x : Exts) (d a : BitVec 7)
  /-- CVT (R183). -/
  | cvt (x : Exts) (d a : BitVec 7) (s t : BitVec 5)
  /-- RED_F_V (R194). -/
  | redFV (x : Exts) (d a : BitVec 7)
  /-- RED_F_S (R194). -/
  | redFS (x : Exts) (d a : BitVec 7)
  /-- RED_FC_V (R195). -/
  | redFcV (x : Exts) (d a : BitVec 7)
  /-- RED_FC_S (R195). -/
  | redFcS (x : Exts) (d a : BitVec 7)
  /-- SCAN_F (R196). -/
  | scanF (x : Exts) (d a : BitVec 7)
  /-- RED_F_F64_V (R194). -/
  | redFF64V (x : Exts) (d a : BitVec 7)
  /-- RED_F_F64_S (R194). -/
  | redFF64S (x : Exts) (d a : BitVec 7)
  /-- RED_FC_F64 (R195). -/
  | redFcF64 (x : Exts) (d a : BitVec 7)
  /-- SCAN_F_F64 (R196). -/
  | scanFF64 (x : Exts) (d a : BitVec 7)
  /-- FLGR (R197). -/
  | flgr (x : Exts) (d : BitVec 7)
  /-- FLGC (R198). -/
  | flgc (x : Exts) (m : BitVec 5)
  /-- QSET (R199). -/
  | qset (x : Exts) (d a : BitVec 7)
  /-- NSET (R200). -/
  | nset (x : Exts) (d a : BitVec 7)
  /-- LD (R250). -/
  | ld (x : Exts) (d a : BitVec 7) (i : BitVec 12)
  /-- ST (R251). -/
  | st (x : Exts) (d a : BitVec 7) (i : BitVec 12)
  /-- ATOM_ADD (R252). -/
  | atomAdd (x : Exts) (d a b : BitVec 7)
  /-- ATOM_MIN (R252). -/
  | atomMin (x : Exts) (d a b : BitVec 7)
  /-- ATOM_MAX (R252). -/
  | atomMax (x : Exts) (d a b : BitVec 7)
  /-- ATOM_AND (R252). -/
  | atomAnd (x : Exts) (d a b : BitVec 7)
  /-- ATOM_OR (R252). -/
  | atomOr (x : Exts) (d a b : BitVec 7)
  /-- ATOM_XOR (R252). -/
  | atomXor (x : Exts) (d a b : BitVec 7)
  /-- ATOM_XCHG (R252). -/
  | atomXchg (x : Exts) (d a b : BitVec 7)
  /-- ATOM_CAS (R252). -/
  | atomCas (x : Exts) (d a b : BitVec 7)
  /-- ATOM_INC (R252). -/
  | atomInc (x : Exts) (d a b : BitVec 7)
  /-- ATOM_DEC (R252). -/
  | atomDec (x : Exts) (d a b : BitVec 7)
  /-- ATOM_XCHG_T (R252). -/
  | atomXchgT (x : Exts) (d a b : BitVec 7)
  /-- RED_M_ADD (R253). -/
  | redMAdd (x : Exts) (a b : BitVec 7)
  /-- RED_M_MIN (R253). -/
  | redMMin (x : Exts) (a b : BitVec 7)
  /-- RED_M_MAX (R253). -/
  | redMMax (x : Exts) (a b : BitVec 7)
  /-- RED_M_AND (R253). -/
  | redMAnd (x : Exts) (a b : BitVec 7)
  /-- RED_M_OR (R253). -/
  | redMOr (x : Exts) (a b : BitVec 7)
  /-- RED_M_XOR (R253). -/
  | redMXor (x : Exts) (a b : BitVec 7)
  /-- MWAIT (R254). -/
  | mwait (x : Exts) (a b : BitVec 7)
  /-- FENCE_ACQ (R232). -/
  | fenceAcq (x : Exts) (s : BitVec 3)
  /-- FENCE_REL (R232). -/
  | fenceRel (x : Exts) (s : BitVec 3)
  /-- FENCE_SC (R232). -/
  | fenceSc (x : Exts) (s : BitVec 3)
  /-- FENCE_ENGINE (R235). -/
  | fenceEngine (x : Exts)
  /-- FENCE_CODE (R258). -/
  | fenceCode (x : Exts)
  /-- ICINV (R256). -/
  | icinv (x : Exts) (a : BitVec 7)
  /-- DCFLUSH (R256). -/
  | dcflush (x : Exts) (a : BitVec 7)
  /-- DCINV (R256). -/
  | dcinv (x : Exts) (a : BitVec 7)
  /-- PREF (R256). -/
  | pref (x : Exts) (a : BitVec 7)
  /-- HPROBE (R257). -/
  | hprobe (x : Exts) (d a b : BitVec 7)
  /-- SNAP (R239). -/
  | snap (x : Exts) (d : BitVec 7)
  /-- SNREL (R259). -/
  | snrel (x : Exts) (a : BitVec 7)
  /-- TXB (R244). -/
  | txb (x : Exts) (d : BitVec 7)
  /-- TXC (R246). -/
  | txc (x : Exts) (d : BitVec 7)
  /-- TXA (R259). -/
  | txa (x : Exts)
  /-- MMA (R269). -/
  | mma (x : Exts) (d a b : BitVec 7)
  /-- MZERO (R270). -/
  | mzero (x : Exts) (d : BitVec 7)
  /-- MLD (R271). -/
  | mld (x : Exts) (d a : BitVec 7)
  /-- MST (R271). -/
  | mst (x : Exts) (d a : BitVec 7)
  /-- MDRAIN (R274). -/
  | mdrain (x : Exts) (d a b : BitVec 7)
  /-- MMAP (R273). -/
  | mmap (x : Exts) (d a : BitVec 7)
  /-- MBURST (R277). -/
  | mburst (x : Exts) (a : BitVec 7)
  /-- TLD (R272). -/
  | tld (x : Exts) (d a : BitVec 7)
  /-- TMOV_TV (R272). -/
  | tmovTv (x : Exts) (d a : BitVec 7)
  /-- TMOV_VT (R272). -/
  | tmovVt (x : Exts) (d a : BitVec 7)
  /-- COPY (R282). -/
  | copy (x : Exts) (a b : BitVec 7)
  /-- COPY_MC (R283). -/
  | copyMc (x : Exts) (a b : BitVec 7)
  /-- GATHER (R284). -/
  | gather (x : Exts) (a b : BitVec 7)
  /-- COLL (R285). -/
  | coll (x : Exts) (a b : BitVec 7)
  /-- MEDIA (R286). -/
  | media (x : Exts) (a b : BitVec 7)
  /-- ARRIVE (R292). -/
  | arrive (x : Exts) (a : BitVec 7)
  /-- WAIT (R292). -/
  | wait (x : Exts) (d a : BitVec 7)
  /-- ARWAIT (R292). -/
  | arwait (x : Exts) (d a : BitVec 7)
  /-- EXPECT (R292). -/
  | expect (x : Exts) (a b : BitVec 7)
  /-- CLTEST (R292). -/
  | cltest (x : Exts) (d a : BitVec 7)
  /-- RCLAIM (R55). -/
  | rclaim (x : Exts) (n : BitVec 7)
  /-- RREL (R55). -/
  | rrel (x : Exts) (n : BitVec 7)
  /-- REGROUP (R57). -/
  | regroup (x : Exts) (a b : BitVec 7)
  /-- SYSC (R309). -/
  | sysc (x : Exts) (a b : BitVec 7)
  /-- TRAP (R330). -/
  | trap (x : Exts) (n : BitVec 7)
  /-- BKPT (R330). -/
  | bkpt (x : Exts) (n : BitVec 7)
  /-- MBXRD (R310). -/
  | mbxrd (x : Exts) (d a : BitVec 7)
  /-- LANERES (R312). -/
  | laneres (x : Exts) (a b : BitVec 7)
  /-- TLBINV (R323). -/
  | tlbinv (x : Exts) (a b : BitVec 7)
  /-- ERET (R312). -/
  | eret (x : Exts)
  /-- CAPR (R329). -/
  | capr (x : Exts) (d : BitVec 7) (i : BitVec 12)
  /-- JOIN_RELEASE (R52). -/
  | joinRelease (core slot : Nat)
  /-- MWAIT_WAKE (R254). -/
  | mwaitWake (core slot lane : Nat)
  /-- ENGINE_GRANT (R265). -/
  | engineGrant (engine : Nat)
  /-- MATRIX_OP_COMPLETE (R265). -/
  | matrixOpComplete (engine : Nat)
  /-- JOB_START (R235). -/
  | jobStart (job : Nat)
  /-- COPY_DELIVERY (R209). -/
  | copyDelivery (job unit : Nat)
  /-- JOB_COMPLETE (R281). -/
  | jobComplete (job : Nat)
  /-- JOB_FAULT (R287). -/
  | jobFault (job : Nat) (why : JobTrouble)
  /-- CLASP_TIMEOUT (R295). -/
  | claspTimeout (ref : ClaspRef)
  /-- CLAIM_GRANT (R55). -/
  | claimGrant (team : Nat)
  /-- CLAIMDL (R56). -/
  | claimdl (team : Nat)
  /-- REGROUP_EXECUTE (R57). -/
  | regroupExecute (team role : Nat)
  /-- ISSUE_OPPORTUNITY (R48); `lost`: lines of text that the core's buffers have lost before it (R93). -/
  | issueOpportunity (c : CoreCycle)
  /-- LOAD_RETURN (R250). -/
  | loadReturn (id : Nat) (phase : ReadPhase)
  /-- HOME_APPLY_WRITE (R216). -/
  | homeApplyWrite (id : Nat) (phase : WritePhase)
  /-- WRITE_ACK (R234). -/
  | writeAck (id : Nat)
  /-- PAGE_WALK_COMPLETE (R321). -/
  | pageWalkComplete (core : Nat) (ctx : BitVec 32) (va : BitVec 64)
  /-- VERSION_RECLAIM (R242). -/
  | versionReclaim (ctx : BitVec 32) (line : Nat) (stamp : BitVec 64)
  /-- HELD_WRITE_RELEASE (R243). -/
  | heldWriteRelease (id : Nat)
  /-- PREEMPT_STOP (R325). -/
  | preemptStop (core : Nat) (ctx : BitVec 32)
  /-- PREEMPT_DRAIN_DONE (R325). -/
  | preemptDrainDone (core : Nat) (ctx : BitVec 32)
  /-- SAVE_COMPLETE (R326). -/
  | saveComplete (core : Nat)
  /-- QUEUE_WAKE (R334). -/
  | queueWake (row : Nat)
  /-- UNMAPPED_WAKE (R334). -/
  | unmappedWake (desc : Nat)
  /-- PACKET_LAUNCH (R336). -/
  | packetLaunch (row : Nat)
  /-- PACKET_POOL (R337). -/
  | packetPool (row : Nat)
  /-- PACKET_BARRIER (R338). -/
  | packetBarrier (row : Nat)
  /-- PACKET_NOP (R339). -/
  | packetNop (row : Nat)
  /-- BADPKT (R335). -/
  | badpkt (row : Nat)
  /-- BARRIER_COMPLETE (R338). -/
  | barrierComplete (packet : Nat)
  /-- DISPATCH_STEP (R344). -/
  | dispatchStep (die : Nat)
  /-- TEAM_RETIRE (R60). -/
  | teamRetire (team : Nat)
  /-- POOL_RECORD_TAKE (R352). -/
  | poolRecordTake (launch : Nat)
  /-- BIN_TIMED_FLUSH (R59). -/
  | binTimedFlush (launch bin : Nat)
  /-- RAMP_TICK (R353). -/
  | rampTick
  /-- LAUNCH_SAVE_WRITE (R355). -/
  | launchSaveWrite (row : Nat)
  /-- WATCHDOG_EXPIRY (R357). -/
  | watchdogExpiry (row : Nat)
  /-- REMOTE_GIVE_UP (R374). -/
  | remoteGiveUp (what : GiveUp)
  /-- CHECKPOINT_BLOCK (R379). -/
  | checkpointBlock
  /-- CHECKPOINT_END (R380). -/
  | checkpointEnd
  /-- EVIDENCE_SIGNED (R369). -/
  | evidenceSigned
  /-- POWER_CAP_APPLY (R385). -/
  | powerCapApply
  /-- FULL_CONDITION_CLEAR (R243). -/
  | fullConditionClear (ctx : BitVec 32)
  /-- ON_CORE_ERROR (R328). -/
  | onCoreError (core slot : Nat) (err : CoreError)
  /-- LANECTL_COMPLETE (R311). -/
  | lanectlComplete (core : Nat) (sel : BitVec 64)
  /-- LANECTL_RETRY (R311). -/
  | lanectlRetry (core : Nat) (sel : BitVec 64)
  /-- LANECTL_KILL (R311). -/
  | lanectlKill (core : Nat) (sel : BitVec 64)
  /-- LANECTL_SETPC (R311). -/
  | lanectlSetpc (core : Nat) (sel : BitVec 64)
  /-- JOBCTL_RESUME (R317). -/
  | jobctlResume (core : Nat) (v : BitVec 64)
  /-- JOBCTL_FAIL (R317). -/
  | jobctlFail (core : Nat) (v : BitVec 64)
  /-- SAVECTL_SAVE (R326). -/
  | savectlSave (core : Nat) (v : BitVec 64)
  /-- SAVECTL_RESTORE (R327). -/
  | savectlRestore (core : Nat) (v : BitVec 64)
  /-- SAVECTL_DISCARD (R63). -/
  | savectlDiscard (core : Nat) (v : BitVec 64)
  /-- SQPOP (R314). -/
  | sqpop (cluster : Nat)
  /-- INVCMD (R323). -/
  | invcmd (cluster : Nat) (v : BitVec 64)
  /-- ART_COMMIT (R220). -/
  | artCommit (die entry : Nat) (v : BitVec 64)
  /-- ART_CLEAR (R220). -/
  | artClear (die entry : Nat) (v : BitVec 64)
  /-- INB_COMMIT (R371). -/
  | inbCommit (entry : Nat) (v : BitVec 64)
  /-- INB_CLEAR (R371). -/
  | inbClear (entry : Nat) (v : BitVec 64)
  /-- REGISTER_WRITE (R317). -/
  | registerWrite (place : BusAddr) (op : BusOp)
  /-- ROW_COMMIT (R343). -/
  | rowCommit (row : Nat) (ctl : BitVec 64)
  /-- ROW_UNMAP (R334). -/
  | rowUnmap (row : Nat) (ctl : BitVec 64)
  /-- HOLD_CLEAR (R340). -/
  | holdClear (row : Nat)
  /-- HOLD_SET (R341). -/
  | holdSet (row : Nat)
  /-- PREEMPT_SET (R355). -/
  | preemptSet (row : Nat)
  /-- PREEMPT_CLEAR (R356). -/
  | preemptClear (row : Nat)
  /-- EVPOP (R342). -/
  | evpop
  /-- DESTROY (R361). -/
  | destroy (desc : Nat)
  /-- DESTROY_FORCE (R361). -/
  | destroyForce (desc : Nat)
  /-- FAILBAR (R360). -/
  | failbar (desc : Nat)
  /-- DEVICE_RESET (R368). -/
  | deviceReset
  /-- THERMAL_STOP (R27). -/
  | thermalStop (die : Nat)
  /-- HOT_RESET (R366). -/
  | hotReset
  /-- LINK_DOWN (R366). -/
  | linkDown
  /-- LINK_UP (R367). -/
  | linkUp
  /-- FUNCTION_LEVEL_RESET (R366). -/
  | functionLevelReset (func : Nat)
  /-- DRIVER_STATUS_CHANGE (R365). -/
  | driverStatusChange (func : Nat) (status : BitVec 8)
  /-- VIRTIO_REQUEST (R365). -/
  | virtioRequest (func : Nat) (desc : Nat)
  /-- HOSTEV (R363). -/
  | hostev
  /-- INBOUND_ACCESS (R371). -/
  | inboundAccess (src : Nat) (req : InboundReq)
  /-- CKCMD (R375). -/
  | ckcmd (v : BitVec 64)
  /-- AREQ (R369). -/
  | areq (v : BitVec 64)
  /-- MR_EXTEND (R370). -/
  | mrExtend (reg : Nat) (v : List (BitVec 8))
  /-- PCAP (R385). -/
  | pcap (v : BitVec 64)
  /-- CONTEXT_END (R239). -/
  | contextEnd (ctx : BitVec 32)
  /-- WEABER_LINK_DOWN (R372). -/
  | weaberLinkDown (link : Nat)
  /-- WEABER_LINK_UP (R372); `resent`: the link, up already, has resent a flit. -/
  | weaberLinkUp (l : LinkUp)
  /-- POWER_LOSS (R386). -/
  | powerLoss
  /-- DYNAMIC_ADDRESS (R384). -/
  | dynamicAddress (addr : BitVec 7)
  deriving DecidableEq, Repr

end Sys2Proof
end

