-- ==== Sys2Proof/Config.lean ====
section
/-! DEFINITION. Config: what an implementation fixes and the spec leaves open, as constants without a body, so that no
proof can learn their values. -/

namespace Sys2Proof.Config

/-- The default hash of R217, "a function of the physical line address alone", not promised otherwise: the slice of a
die (its low 7 bits) for a line number. -/
opaque sliceHash : Nat → BitVec 7

/-- The bangle of its die on which a request of a core for a slice travels (R19). -/
opaque bangle : Nat → Nat → BitVec 4

/-- The slice of a domain device that is the home of a line of its memory (R216, R217). -/
opaque peerSlice : Nat → Nat → BitVec 8

/-- A value that the spec leaves open, drawn by the State's counter of such draws. -/
opaque freeValue (w : Nat) : Nat → BitVec w

/-- The verification of an Ed448ph signature (R368): public key, signature, message. -/
opaque ed448phVerify : List Byte → List Byte → List Byte → Bool

/-- The Ed448 signature made with the device identity key (R369), as 114 bytes. -/
opaque ed448Sign : List Byte → BitVec 912

/-- What a media engine writes (R286): the output bytes, for the control block and the source bytes. The codecs are
not in the spec. The first component is the STATUS code below 4, the second the output. -/
opaque mediaResult : List Byte → List Byte → BitVec 2 × List Byte

/-- Where a computed elementary function cannot be decided within the model's precision (R193 asks the correctly
rounded value): function number, operand. The model's precision bound is in Machine/Trans.lean. -/
opaque elementary : Nat → Nat → Nat

/-- Where Filigree reserves the return area of a team's group in context memory (R160): an offset from RETBASE, for the
team and the GROUPID. -/
opaque returnArea : Nat → Nat → Nat

/-- The STEP and the MAX to which a power cap in W limits every ramp (R385). -/
opaque capStep : Nat → BitVec 16
opaque capMax : Nat → BitVec 16

/-- The 64-byte value by which the boot ROM extends MR0 with a boot configuration (R370). -/
opaque bootConfigValue : List Byte → BitVec 512

/-- The bytes of a packet core's tightly coupled memory (R22). -/
opaque tcmBytes : Nat

end Sys2Proof.Config
end

