-- ==== Sys2Proof/Decode.lean ====
section
/-! DEFINITION. Decode: extension words and base words to instructions, the legality rules that make a decoding ILLEGAL
(R66 to R85, R92), and the encoder, all from the encoding tables of the spec. Everything here is total. -/

namespace Sys2Proof

/-- Why a sequence of words is no instruction; each raises ILLEGAL at the first word (R70, R92), but `truncated`, which
says that the words given end inside an instruction. -/
inductive Reject where
  | truncated
  /-- An extension word with a non-zero reserved field (R70). -/
  | reservedField
  /-- Three extension words in a row (R70). -/
  | threeExtensions
  /-- Two extension words of one type (R70). -/
  | sameType
  /-- No row of the opcode map has these bits (R92). -/
  | unassigned
  /-- An operand kind, modifier, facet or extension that the instruction does not take (R71 to R85). -/
  | operand
  deriving DecidableEq, Repr

/-- An extension word: MAJ 0x3E in [31:26] (R69). -/
def isExt (w : BitVec 32) : Bool := w.extractLsb' 26 6 = 0x3E#6

/-- The fields of an extension word by its type in [25:24]; none when a reserved field is not zero (R69, R70). -/
def decodeExt (w : BitVec 32) : Option ExtWord :=
  match (w.extractLsb' 24 2).toNat with
  | 0 => some (.operand (w.extractLsb' 17 7) (w.extractLsb' 13 4) (w.extractLsb' 10 3) (w.extractLsb' 0 10))
  | 1 => if w.extractLsb' 0 3 = 0#3 then
           some (.facet (w.extractLsb' 17 7) (w.extractLsb' 10 7) (w.extractLsb' 3 7)) else none
  | 2 => if w.extractLsb' 0 4 = 0#4 then some (.imm (w.extractLsb' 4 20)) else none
  | _ => if w.extractLsb' 0 10 = 0#10 then
           some (.control (w.extractLsb' 20 4) (w.extractLsb' 19 1) (w.extractLsb' 16 3) (w.extractLsb' 10 6)) else none

/-- The type field of an extension word. -/
def ExtWord.type : ExtWord → Nat
  | .operand .. => 0
  | .facet .. => 1
  | .imm .. => 2
  | .control .. => 3

/-- C of the operand extension; zero without one (R72). -/
def Exts.c : Exts → BitVec 7
  | [] => 0
  | .operand c _ _ _ :: _ => c
  | _ :: r => Exts.c r

/-- GUARD of the operand extension; 0b0111, which is P7, without one (R73). -/
def Exts.guard : Exts → BitVec 4
  | [] => 7
  | .operand _ g _ _ :: _ => g
  | _ :: r => Exts.guard r

/-- SRC of the operand extension; zero without one (R72). -/
def Exts.src : Exts → BitVec 3
  | [] => 0
  | .operand _ _ s _ :: _ => s
  | _ :: r => Exts.src r

/-- FAM of the operand extension; zero without one (R72). -/
def Exts.fam : Exts → BitVec 10
  | [] => 0
  | .operand _ _ _ f :: _ => f
  | _ :: r => Exts.fam r

/-- The facet of A; zero, a direct read, without a facet extension (R80). -/
def Exts.fa : Exts → BitVec 7
  | [] => 0
  | .facet a _ _ :: _ => a
  | _ :: r => Exts.fa r

/-- The facet of B. -/
def Exts.fb : Exts → BitVec 7
  | [] => 0
  | .facet _ b _ :: _ => b
  | _ :: r => Exts.fb r

/-- The facet of C. -/
def Exts.fc : Exts → BitVec 7
  | [] => 0
  | .facet _ _ c :: _ => c
  | _ :: r => Exts.fc r

/-- HI20 of the immediate extension, where there is one (R74). -/
def Exts.hi : Exts → Option (BitVec 20)
  | [] => none
  | .imm h :: _ => some h
  | _ :: r => Exts.hi r

/-- Whether an extension word of a type stands before the base word. -/
def Exts.has (x : Exts) (t : Nat) : Bool := x.any (fun e => e.type == t)

/-- SRC [12], [11], [10]: A, B, C name a uniform register (R72); for a memory operand they are AU, A64, CB (R85). -/
def Exts.uniA (x : Exts) : Bool := x.src.getLsbD 2
def Exts.uniB (x : Exts) : Bool := x.src.getLsbD 1
def Exts.uniC (x : Exts) : Bool := x.src.getLsbD 0

/-- The kinds a 7-bit register field can hold (R77); `none` is an unused field. -/
inductive Kind where
  | none | v | vp | vq | s | ps | pd | t | m | g | q | n | lc | k | u7
  deriving DecidableEq, Repr

/-- The constraint that a kind puts on its field (R77); an unused field is zero (R66). -/
def Kind.ok : Kind → BitVec 7 → Bool
  | .none, f => f = 0
  | .v, _ => true
  | .vp, f => f.toNat % 2 = 0
  | .vq, f => f.toNat % 4 = 0
  | .s, f => f.toNat < 64
  | .ps, f => f.toNat ≤ 0x0C
  | .pd, f | .t, f | .m, f | .g, f => f.toNat < 8
  | .q, f | .n, f => f.toNat < 4
  | .lc, f => f.toNat ≤ 2
  | .k, f =>
    match f.toNat / 16 with
    | 0 => f.toNat % 16 < 4
    | 1 => true
    | 2 => true
    | 3 => f.toNat % 16 < 8
    | _ => false
  | .u7, _ => true

/-- What the SRC bits of an instruction mean (R72, R79, R85, R262). -/
inductive SrcRule where
  /-- Uniform marks of the vector sources. -/
  | vector
  /-- AU, A64 and CB of a memory operand. -/
  | memory
  /-- AU = 1, A64 = 0 and CB = 0 are required (R271, R272). -/
  | uniformAddr
  deriving DecidableEq, Repr

/-- FAM must be zero. -/
def famZero (f : BitVec 10) : Bool := f = 0
/-- FAM values 0 to n are defined. -/
def famLe (n : Nat) (f : BitVec 10) : Bool := f.toNat ≤ n

/-- FAM of RED.I and SCAN.I (R136): operation 0 to 5, .U only with .ADD, .MIN and .MAX, .EX only on a scan. -/
def famRedI (scan : Bool) (f : BitVec 10) : Bool :=
  let op := f.toNat % 8
  op ≤ 5 && (!f.getLsbD 3 || op ≤ 2) && (!f.getLsbD 4 || scan) && f.toNat < 32

/-- FAM of RED.F and SCAN.F (R171): operation 0 to 2, .NAN not with .ADD, .EX only on a scan. -/
def famRedF (scan : Bool) (f : BitVec 10) : Bool :=
  let op := f.toNat % 4
  op ≤ 2 && (!f.getLsbD 2 || op ≠ 0) && !f.getLsbD 3 && (!f.getLsbD 4 || scan) && f.toNat < 32

/-- The memory FAM fields of R249. -/
def Exts.scope (x : Exts) : Nat := x.fam.toNat % 8
def Exts.ord (x : Exts) : Nat := x.fam.toNat / 8 % 4
def Exts.width (x : Exts) : Nat := x.fam.toNat / 32 % 8
def Exts.kind (x : Exts) : Nat := x.fam.toNat / 256 % 4
def Exts.type (x : Exts) : Nat := x.fam.toNat / 32 % 4

/-- SCOPE is a code of R230, and zero without an order (R249). -/
def famScope (f : BitVec 10) : Bool :=
  f.toNat % 8 ≤ 4 && (f.toNat / 8 % 4 ≠ 0 || f.toNat % 8 = 0)

/-- FAM of LD (R249). -/
def famLd (f : BitVec 10) : Bool :=
  famScope f && f.toNat / 8 % 4 ≤ 1 && f.toNat / 32 % 8 ≤ 6 && f.toNat / 256 ≤ 2
    && (f.toNat / 256 ≠ 1 || f.toNat / 8 % 4 = 0)

/-- FAM of ST (R249). -/
def famSt (f : BitVec 10) : Bool :=
  famScope f && (f.toNat / 8 % 4 = 0 || f.toNat / 8 % 4 = 2)
    && (let w := f.toNat / 32 % 8; w = 0 || w = 1 || w = 3 || w = 5 || w = 6)
    && f.toNat / 256 ≤ 1 && (f.toNat / 256 ≠ 1 || f.toNat / 8 % 4 = 0)

/-- FAM of ATOM, with the TYPE codes the operation takes (R249). -/
def famAtom (ty : Nat → Bool) (f : BitVec 10) : Bool :=
  famScope f && ty (f.toNat / 32 % 4) && f.toNat < 128

/-- FAM of RED.M (R249). -/
def famRedM (ty : Nat → Bool) (f : BitVec 10) : Bool :=
  famAtom ty f && (f.toNat / 8 % 4 = 0 || f.toNat / 8 % 4 = 2)

/-- FAM of MWAIT (R249). -/
def famMwait (f : BitVec 10) : Bool := famScope f && f.toNat / 8 % 4 ≤ 1 && f.toNat < 64

/-- The D kind that a WIDTH gives LD and ST (R250, R251). -/
def widthKind (x : Exts) : Kind :=
  match x.width with
  | 5 => .vp
  | 6 => .vq
  | _ => .v

/-- The kind of a memory operand's A field (R85). -/
def addrKind (x : Exts) : Kind := if x.uniA then .s else if x.uniB then .vp else .v

/-- C of a memory instruction: the base of CB, the snapshot of LD.C, or unused (R85, R250). -/
def memC (x : Exts) : Kind := if x.uniC then .s else if x.kind = 2 then .s else .none

/-- C of MMA: the row mask of .ROWS, else unused (R262). -/
def mmaC (x : Exts) : Kind := if x.fam.getLsbD 1 then .s else .none

/-- C of an engine instruction: the bound clasp, or unused under .NC (R280). -/
def engC (x : Exts) : Kind := if x.fam.getLsbD 0 then .none else .k

/-- COPY.MC takes no group-level clasp (R283). -/
def mcClaspOk (x : Exts) : Bool := x.fam.getLsbD 0 || 16 ≤ x.c.toNat

/-- IMM12 of LOOP and LOOPI is 1 to 2,047 (R87). -/
def loopImmOk (i : BitVec 12) : Bool := 1 ≤ i.toNat && i.toNat ≤ 2047

/-- CVT format codes of R89: 0x0A to 0x0F are integers, 0x09 is E8M0. -/
def cvtIsInt (c : BitVec 5) : Bool := 0x0A ≤ c.toNat && c.toNat ≤ 0x0F
/-- A format of 64 bits occupies a pair (R183). -/
def cvtKind (c : BitVec 5) : Kind := if c.toNat = 0 ∨ c.toNat = 0x0E ∨ c.toNat = 0x0F then .vp else .v
/-- Codes 0x10 to 0x1F and equal codes are ILLEGAL (R183). -/
def cvtCodesOk (s t : BitVec 5) : Bool := s.toNat < 16 && t.toNat < 16 && s ≠ t

/-- FAM of CVT (R171, R185): a rounding code 0 to 4, .SAT not into an integer or E8M0, nothing between integers. -/
def famCvt (s t : BitVec 5) (f : BitVec 10) : Bool :=
  if cvtIsInt s && cvtIsInt t then f = 0
  else f.toNat % 8 ≤ 4 && f.toNat < 16 && (!f.getLsbD 3 || !(cvtIsInt t || t.toNat = 9))

/-- A facet code that R80 defines. -/
def facetOk (f : BitVec 7) : Bool :=
  f = 0 || (0x20 ≤ f.toNat && f.toNat ≤ 0x64) || (0x68 ≤ f.toNat && f.toNat ≤ 0x6F)

/-- What an instruction takes: the kinds of its operand fields, what SRC means, which sources may be routed or uniform,
whether an immediate extension is accepted, which FAM values are defined, and any further encoding rule. -/
structure Shape where
  /-- Form J takes only a control extension (R67). -/
  jForm : Bool := false
  d : Kind × BitVec 7 := (.none, 0)
  a : Kind × BitVec 7 := (.none, 0)
  b : Kind × BitVec 7 := (.none, 0)
  c : Kind × BitVec 7 := (.none, 0)
  src : SrcRule := .vector
  routeA : Bool := false
  routeB : Bool := false
  routeC : Bool := false
  uniA : Bool := false
  uniB : Bool := false
  uniC : Bool := false
  imm : Bool := false
  fam : BitVec 10 → Bool := famZero
  extra : Bool := true

/-- The shape of a Form J instruction. -/
def Shape.formJ : Shape := { jForm := true }

/-- The SRC bits are legal: a mark stands only on a V or VP source that takes one (R79), or names a form of R85. -/
def Shape.srcOk (sh : Shape) (x : Exts) : Bool :=
  match sh.src with
  | .vector => (!x.uniA || (sh.uniA && sh.a.1 ≠ .vq)) && (!x.uniB || (sh.uniB && sh.b.1 ≠ .vq))
      && (!x.uniC || (sh.uniC && sh.c.1 ≠ .vq))
  | .memory => x.src.toNat = 0 || x.src.toNat = 1 || x.src.toNat = 2 || x.src.toNat = 4
  | .uniformAddr => x.src.toNat = 4

/-- An operand field is legal: a source marked uniform names S0 to S63 (R79), any other obeys its kind (R77); C is zero where
the instruction uses none (R72). -/
def Shape.fieldsOk (sh : Shape) (x : Exts) : Bool :=
  let u := sh.src = .vector
  sh.d.1.ok sh.d.2
    && (if u && x.uniA then Kind.ok .s sh.a.2 else sh.a.1.ok sh.a.2)
    && (if u && x.uniB then Kind.ok .s sh.b.2 else sh.b.1.ok sh.b.2)
    && (if u && x.uniC then Kind.ok .s x.c else sh.c.1.ok x.c)

/-- A facet field is zero, or a defined code on a routable source that is not uniform (R80, R81). In a memory
instruction only AU makes A uniform (R85). -/
def Shape.facetsOk (sh : Shape) (x : Exts) : Bool :=
  let u := sh.src = .vector
  facetOk x.fa && facetOk x.fb && facetOk x.fc
    && (x.fa = 0 || (sh.routeA && !x.uniA)) && (x.fb = 0 || (sh.routeB && !(u && x.uniB)))
    && (x.fc = 0 || (sh.routeC && !(u && x.uniC)))

/-- Each extension word is of a type that the instruction accepts (R67, R71). -/
def Shape.typesOk (sh : Shape) (x : Exts) : Bool :=
  if sh.jForm then x.all (fun e => e.type = 3)
  else (!x.has 1 || sh.routeA || sh.routeB || sh.routeC) && (!x.has 2 || sh.imm)

/-- Every legality rule of R71 to R85 for an instruction of this shape. -/
def Shape.legal (sh : Shape) (x : Exts) : Bool :=
  sh.typesOk x && sh.extra && (sh.jForm || (sh.fam x.fam && sh.srcOk x && sh.fieldsOk x && sh.facetsOk x))

/-- At most two extension words, of different types (R64, R70). -/
def extsOk (x : Exts) : Bool :=
  match x with
  | [] => true
  | [_] => true
  | [e, f] => e.type ≠ f.type
  | _ => false

/-- MAJ 0x00. -/
def decodeMaj00 (x : Exts) (w : BitVec 32) : Option Instr :=
  some (.bra x (w.extractLsb' 25 1) (w.extractLsb' 22 3) (w.extractLsb' 0 22))

/-- MAJ 0x01. -/
def decodeMaj01 (x : Exts) (w : BitVec 32) : Option Instr :=
  some (.call x (w.extractLsb' 25 1) (w.extractLsb' 22 3) (w.extractLsb' 0 22))

/-- MAJ 0x02. -/
def decodeMaj02 (x : Exts) (w : BitVec 32) : Option Instr :=
  some (.loop x (w.extractLsb' 19 7) (w.extractLsb' 12 7) (w.extractLsb' 0 12))

/-- MAJ 0x03. -/
def decodeMaj03 (x : Exts) (w : BitVec 32) : Option Instr :=
  some (.loopi x (w.extractLsb' 19 7) (w.extractLsb' 12 7) (w.extractLsb' 0 12))

/-- MAJ 0x04. -/
def decodeMaj04 (x : Exts) (w : BitVec 32) : Option Instr :=
  if w &&& 0xFFF80FFF = 0x10000000 then some (.bri x (w.extractLsb' 12 7)) else
  if w &&& 0xFFF80FFF = 0x10000001 then some (.calli x (w.extractLsb' 12 7)) else
  if w &&& 0xFFFFFFFF = 0x10000002 then some (.ret x) else
  if w &&& 0xFFFFFFFF = 0x10000003 then some (.exit x) else
  if w &&& 0xFFF80FFF = 0x10000004 then some (.cjoin x (w.extractLsb' 12 7)) else
  if w &&& 0xFFFFFFFF = 0x10000005 then some (.yield x) else
  if w &&& 0xFFFFFFFF = 0x10000006 then some (.nop x) else
  if w &&& 0xFC07FFFF = 0x10000007 then some (.cmark x (w.extractLsb' 19 7)) else
  none

/-- MAJ 0x05. -/
def decodeMaj05 (x : Exts) (w : BitVec 32) : Option Instr :=
  if w &&& 0xFFFFF000 = 0x14000000 then some (.wbase x (w.extractLsb' 0 12)) else
  none

/-- MAJ 0x08. -/
def decodeMaj08 (x : Exts) (w : BitVec 32) : Option Instr :=
  if w &&& 0xFC00001F = 0x20000000 then some (.sadd x (w.extractLsb' 19 7) (w.extractLsb' 12 7) (w.extractLsb' 5 7)) else
  if w &&& 0xFC00001F = 0x20000001 then some (.ssub x (w.extractLsb' 19 7) (w.extractLsb' 12 7) (w.extractLsb' 5 7)) else
  if w &&& 0xFC00001F = 0x20000002 then some (.smul x (w.extractLsb' 19 7) (w.extractLsb' 12 7) (w.extractLsb' 5 7)) else
  if w &&& 0xFC00001F = 0x20000003 then some (.smad x (w.extractLsb' 19 7) (w.extractLsb' 12 7) (w.extractLsb' 5 7)) else
  if w &&& 0xFC00001F = 0x20000004 then some (.sand x (w.extractLsb' 19 7) (w.extractLsb' 12 7) (w.extractLsb' 5 7)) else
  if w &&& 0xFC00001F = 0x20000005 then some (.sor x (w.extractLsb' 19 7) (w.extractLsb' 12 7) (w.extractLsb' 5 7)) else
  if w &&& 0xFC00001F = 0x20000006 then some (.sxor x (w.extractLsb' 19 7) (w.extractLsb' 12 7) (w.extractLsb' 5 7)) else
  if w &&& 0xFC00001F = 0x20000007 then some (.sshl x (w.extractLsb' 19 7) (w.extractLsb' 12 7) (w.extractLsb' 5 7)) else
  if w &&& 0xFC00001F = 0x20000008 then some (.sshr x (w.extractLsb' 19 7) (w.extractLsb' 12 7) (w.extractLsb' 5 7)) else
  if w &&& 0xFC00001F = 0x20000009 then some (.ssra x (w.extractLsb' 19 7) (w.extractLsb' 12 7) (w.extractLsb' 5 7)) else
  if w &&& 0xFC00001F = 0x2000000A then some (.smin x (w.extractLsb' 19 7) (w.extractLsb' 12 7) (w.extractLsb' 5 7)) else
  if w &&& 0xFC00001F = 0x2000000B then some (.smax x (w.extractLsb' 19 7) (w.extractLsb' 12 7) (w.extractLsb' 5 7)) else
  if w &&& 0xFC00001F = 0x2000000C then some (.scmp x (w.extractLsb' 19 7) (w.extractLsb' 12 7) (w.extractLsb' 5 7)) else
  if w &&& 0xFC000FFF = 0x2000000D then some (.smov x (w.extractLsb' 19 7) (w.extractLsb' 12 7)) else
  none

/-- MAJ 0x09. -/
def decodeMaj09 (x : Exts) (w : BitVec 32) : Option Instr :=
  if w &&& 0xFC07F000 = 0x24000000 then some (.smovi x (w.extractLsb' 19 7) (w.extractLsb' 0 12)) else
  none

/-- MAJ 0x0A. -/
def decodeMaj0A (x : Exts) (w : BitVec 32) : Option Instr :=
  if w &&& 0xFC07F000 = 0x28000000 then some (.sread x (w.extractLsb' 19 7) (w.extractLsb' 0 12)) else
  none

/-- MAJ 0x0B. -/
def decodeMaj0B (x : Exts) (w : BitVec 32) : Option Instr :=
  if w &&& 0xFFF80000 = 0x2C000000 then some (.swrite x (w.extractLsb' 12 7) (w.extractLsb' 0 12)) else
  none

/-- MAJ 0x10. -/
def decodeMaj10 (x : Exts) (w : BitVec 32) : Option Instr :=
  if w &&& 0xFC00001F = 0x40000000 then some (.iadd x (w.extractLsb' 19 7) (w.extractLsb' 12 7) (w.extractLsb' 5 7)) else
  if w &&& 0xFC00001F = 0x40000001 then some (.iaddc x (w.extractLsb' 19 7) (w.extractLsb' 12 7) (w.extractLsb' 5 7)) else
  if w &&& 0xFC00001F = 0x40000002 then some (.isub x (w.extractLsb' 19 7) (w.extractLsb' 12 7) (w.extractLsb' 5 7)) else
  if w &&& 0xFC00001F = 0x40000003 then some (.imul x (w.extractLsb' 19 7) (w.extractLsb' 12 7) (w.extractLsb' 5 7)) else
  if w &&& 0xFC00001F = 0x40000004 then some (.imulh x (w.extractLsb' 19 7) (w.extractLsb' 12 7) (w.extractLsb' 5 7)) else
  if w &&& 0xFC00001F = 0x40000005 then some (.imad x (w.extractLsb' 19 7) (w.extractLsb' 12 7) (w.extractLsb' 5 7)) else
  if w &&& 0xFC00001F = 0x40000006 then some (.imadw x (w.extractLsb' 19 7) (w.extractLsb' 12 7) (w.extractLsb' 5 7)) else
  if w &&& 0xFC00001F = 0x40000007 then some (.iand x (w.extractLsb' 19 7) (w.extractLsb' 12 7) (w.extractLsb' 5 7)) else
  if w &&& 0xFC00001F = 0x40000008 then some (.ior x (w.extractLsb' 19 7) (w.extractLsb' 12 7) (w.extractLsb' 5 7)) else
  if w &&& 0xFC00001F = 0x40000009 then some (.ixor x (w.extractLsb' 19 7) (w.extractLsb' 12 7) (w.extractLsb' 5 7)) else
  if w &&& 0xFC000FFF = 0x4000000A then some (.inot x (w.extractLsb' 19 7) (w.extractLsb' 12 7)) else
  if w &&& 0xFC00001F = 0x4000000B then some (.ishl x (w.extractLsb' 19 7) (w.extractLsb' 12 7) (w.extractLsb' 5 7)) else
  if w &&& 0xFC00001F = 0x4000000C then some (.ishr x (w.extractLsb' 19 7) (w.extractLsb' 12 7) (w.extractLsb' 5 7)) else
  if w &&& 0xFC00001F = 0x4000000D then some (.isra x (w.extractLsb' 19 7) (w.extractLsb' 12 7) (w.extractLsb' 5 7)) else
  if w &&& 0xFC00001F = 0x4000000E then some (.imin x (w.extractLsb' 19 7) (w.extractLsb' 12 7) (w.extractLsb' 5 7)) else
  if w &&& 0xFC00001F = 0x4000000F then some (.imax x (w.extractLsb' 19 7) (w.extractLsb' 12 7) (w.extractLsb' 5 7)) else
  if w &&& 0xFC000FFF = 0x40000010 then some (.iabs x (w.extractLsb' 19 7) (w.extractLsb' 12 7)) else
  if w &&& 0xFC00001F = 0x40000011 then some (.icmp x (w.extractLsb' 19 7) (w.extractLsb' 12 7) (w.extractLsb' 5 7)) else
  if w &&& 0xFC00001F = 0x40000012 then some (.isel x (w.extractLsb' 19 7) (w.extractLsb' 12 7) (w.extractLsb' 5 7)) else
  if w &&& 0xFC000FFF = 0x40000013 then some (.popc x (w.extractLsb' 19 7) (w.extractLsb' 12 7)) else
  if w &&& 0xFC000FFF = 0x40000014 then some (.clz x (w.extractLsb' 19 7) (w.extractLsb' 12 7)) else
  if w &&& 0xFC000FFF = 0x40000015 then some (.brev x (w.extractLsb' 19 7) (w.extractLsb' 12 7)) else
  if w &&& 0xFC00001F = 0x40000016 then some (.bfx x (w.extractLsb' 19 7) (w.extractLsb' 12 7) (w.extractLsb' 5 7)) else
  if w &&& 0xFC00001F = 0x40000017 then some (.bfi x (w.extractLsb' 19 7) (w.extractLsb' 12 7) (w.extractLsb' 5 7)) else
  if w &&& 0xFC00001F = 0x40000018 then some (.lea x (w.extractLsb' 19 7) (w.extractLsb' 12 7) (w.extractLsb' 5 7)) else
  none

/-- MAJ 0x12. -/
def decodeMaj12 (x : Exts) (w : BitVec 32) : Option Instr :=
  if w &&& 0xFC00001F = 0x48000000 then some (.pand x (w.extractLsb' 19 7) (w.extractLsb' 12 7) (w.extractLsb' 5 7)) else
  if w &&& 0xFC00001F = 0x48000001 then some (.por x (w.extractLsb' 19 7) (w.extractLsb' 12 7) (w.extractLsb' 5 7)) else
  if w &&& 0xFC00001F = 0x48000002 then some (.pxor x (w.extractLsb' 19 7) (w.extractLsb' 12 7) (w.extractLsb' 5 7)) else
  if w &&& 0xFC000FFF = 0x48000003 then some (.pnot x (w.extractLsb' 19 7) (w.extractLsb' 12 7)) else
  if w &&& 0xFC000FFF = 0x48000004 then some (.pmov x (w.extractLsb' 19 7) (w.extractLsb' 12 7)) else
  none

/-- MAJ 0x13. -/
def decodeMaj13 (x : Exts) (w : BitVec 32) : Option Instr :=
  if w &&& 0xFC000FFF = 0x4C000000 then some (.voteP x (w.extractLsb' 19 7) (w.extractLsb' 12 7)) else
  if w &&& 0xFC000FFF = 0x4C000010 then some (.voteS x (w.extractLsb' 19 7) (w.extractLsb' 12 7)) else
  if w &&& 0xFC000FFF = 0x4C000001 then some (.matchV x (w.extractLsb' 19 7) (w.extractLsb' 12 7)) else
  if w &&& 0xFC000FFF = 0x4C000011 then some (.matchS x (w.extractLsb' 19 7) (w.extractLsb' 12 7)) else
  if w &&& 0xFC000FFF = 0x4C000002 then some (.redIV x (w.extractLsb' 19 7) (w.extractLsb' 12 7)) else
  if w &&& 0xFC000FFF = 0x4C000012 then some (.redIS x (w.extractLsb' 19 7) (w.extractLsb' 12 7)) else
  if w &&& 0xFC000FFF = 0x4C000003 then some (.scanIV x (w.extractLsb' 19 7) (w.extractLsb' 12 7)) else
  if w &&& 0xFC000FFF = 0x4C000013 then some (.scanIS x (w.extractLsb' 19 7) (w.extractLsb' 12 7)) else
  none

/-- MAJ 0x1C. -/
def decodeMaj1C (x : Exts) (w : BitVec 32) : Option Instr :=
  if w &&& 0xFC00001F = 0x70000000 then some (.fadd x (w.extractLsb' 19 7) (w.extractLsb' 12 7) (w.extractLsb' 5 7)) else
  if w &&& 0xFC00001F = 0x70000001 then some (.fsub x (w.extractLsb' 19 7) (w.extractLsb' 12 7) (w.extractLsb' 5 7)) else
  if w &&& 0xFC00001F = 0x70000002 then some (.fmul x (w.extractLsb' 19 7) (w.extractLsb' 12 7) (w.extractLsb' 5 7)) else
  if w &&& 0xFC00001F = 0x70000003 then some (.ffma x (w.extractLsb' 19 7) (w.extractLsb' 12 7) (w.extractLsb' 5 7)) else
  if w &&& 0xFC00001F = 0x70000004 then some (.fmin x (w.extractLsb' 19 7) (w.extractLsb' 12 7) (w.extractLsb' 5 7)) else
  if w &&& 0xFC00001F = 0x70000005 then some (.fmax x (w.extractLsb' 19 7) (w.extractLsb' 12 7) (w.extractLsb' 5 7)) else
  if w &&& 0xFC00001F = 0x70000006 then some (.fcmp x (w.extractLsb' 19 7) (w.extractLsb' 12 7) (w.extractLsb' 5 7)) else
  if w &&& 0xFC000FFF = 0x70000007 then some (.fclass x (w.extractLsb' 19 7) (w.extractLsb' 12 7)) else
  if w &&& 0xFC000FFF = 0x70000008 then some (.frnd x (w.extractLsb' 19 7) (w.extractLsb' 12 7)) else
  if w &&& 0xFC00001F = 0x70000009 then some (.faddX x (w.extractLsb' 19 7) (w.extractLsb' 12 7) (w.extractLsb' 5 7)) else
  if w &&& 0xFC00001F = 0x7000000A then some (.fsubX x (w.extractLsb' 19 7) (w.extractLsb' 12 7) (w.extractLsb' 5 7)) else
  if w &&& 0xFC00001F = 0x7000000B then some (.fmulX x (w.extractLsb' 19 7) (w.extractLsb' 12 7) (w.extractLsb' 5 7)) else
  if w &&& 0xFC00001F = 0x7000000C then some (.dwadd x (w.extractLsb' 19 7) (w.extractLsb' 12 7) (w.extractLsb' 5 7)) else
  if w &&& 0xFC00001F = 0x7000000D then some (.dwsub x (w.extractLsb' 19 7) (w.extractLsb' 12 7) (w.extractLsb' 5 7)) else
  if w &&& 0xFC00001F = 0x7000000E then some (.dwmul x (w.extractLsb' 19 7) (w.extractLsb' 12 7) (w.extractLsb' 5 7)) else
  if w &&& 0xFC000FFF = 0x7000000F then some (.dwnorm x (w.extractLsb' 19 7) (w.extractLsb' 12 7)) else
  none

/-- MAJ 0x1D. -/
def decodeMaj1D (x : Exts) (w : BitVec 32) : Option Instr :=
  if w &&& 0xFC00001F = 0x74000000 then some (.faddF64 x (w.extractLsb' 19 7) (w.extractLsb' 12 7) (w.extractLsb' 5 7)) else
  if w &&& 0xFC00001F = 0x74000001 then some (.fsubF64 x (w.extractLsb' 19 7) (w.extractLsb' 12 7) (w.extractLsb' 5 7)) else
  if w &&& 0xFC00001F = 0x74000002 then some (.fmulF64 x (w.extractLsb' 19 7) (w.extractLsb' 12 7) (w.extractLsb' 5 7)) else
  if w &&& 0xFC00001F = 0x74000003 then some (.ffmaF64 x (w.extractLsb' 19 7) (w.extractLsb' 12 7) (w.extractLsb' 5 7)) else
  if w &&& 0xFC00001F = 0x74000004 then some (.fminF64 x (w.extractLsb' 19 7) (w.extractLsb' 12 7) (w.extractLsb' 5 7)) else
  if w &&& 0xFC00001F = 0x74000005 then some (.fmaxF64 x (w.extractLsb' 19 7) (w.extractLsb' 12 7) (w.extractLsb' 5 7)) else
  if w &&& 0xFC00001F = 0x74000006 then some (.fcmpF64 x (w.extractLsb' 19 7) (w.extractLsb' 12 7) (w.extractLsb' 5 7)) else
  if w &&& 0xFC000FFF = 0x74000007 then some (.fclassF64 x (w.extractLsb' 19 7) (w.extractLsb' 12 7)) else
  if w &&& 0xFC000FFF = 0x74000008 then some (.frndF64 x (w.extractLsb' 19 7) (w.extractLsb' 12 7)) else
  if w &&& 0xFC00001F = 0x74000009 then some (.faddXF64 x (w.extractLsb' 19 7) (w.extractLsb' 12 7) (w.extractLsb' 5 7)) else
  if w &&& 0xFC00001F = 0x7400000A then some (.fsubXF64 x (w.extractLsb' 19 7) (w.extractLsb' 12 7) (w.extractLsb' 5 7)) else
  if w &&& 0xFC00001F = 0x7400000B then some (.fmulXF64 x (w.extractLsb' 19 7) (w.extractLsb' 12 7) (w.extractLsb' 5 7)) else
  if w &&& 0xFC00001F = 0x7400000C then some (.dwaddF64 x (w.extractLsb' 19 7) (w.extractLsb' 12 7) (w.extractLsb' 5 7)) else
  if w &&& 0xFC00001F = 0x7400000D then some (.dwsubF64 x (w.extractLsb' 19 7) (w.extractLsb' 12 7) (w.extractLsb' 5 7)) else
  if w &&& 0xFC00001F = 0x7400000E then some (.dwmulF64 x (w.extractLsb' 19 7) (w.extractLsb' 12 7) (w.extractLsb' 5 7)) else
  if w &&& 0xFC000FFF = 0x7400000F then some (.dwnormF64 x (w.extractLsb' 19 7) (w.extractLsb' 12 7)) else
  none

/-- MAJ 0x1E. -/
def decodeMaj1E (x : Exts) (w : BitVec 32) : Option Instr :=
  if w &&& 0xFC00001F = 0x78000000 then some (.fdiv x (w.extractLsb' 19 7) (w.extractLsb' 12 7) (w.extractLsb' 5 7)) else
  if w &&& 0xFC000FFF = 0x78000001 then some (.fsqrt x (w.extractLsb' 19 7) (w.extractLsb' 12 7)) else
  if w &&& 0xFC000FFF = 0x78000002 then some (.frcp x (w.extractLsb' 19 7) (w.extractLsb' 12 7)) else
  if w &&& 0xFC000FFF = 0x78000003 then some (.frsq x (w.extractLsb' 19 7) (w.extractLsb' 12 7)) else
  if w &&& 0xFC000FFF = 0x78000004 then some (.fex2 x (w.extractLsb' 19 7) (w.extractLsb' 12 7)) else
  if w &&& 0xFC000FFF = 0x78000005 then some (.flg2 x (w.extractLsb' 19 7) (w.extractLsb' 12 7)) else
  if w &&& 0xFC000FFF = 0x78000006 then some (.fsin x (w.extractLsb' 19 7) (w.extractLsb' 12 7)) else
  if w &&& 0xFC000FFF = 0x78000007 then some (.fcos x (w.extractLsb' 19 7) (w.extractLsb' 12 7)) else
  none

/-- MAJ 0x1F. -/
def decodeMaj1F (x : Exts) (w : BitVec 32) : Option Instr :=
  if w &&& 0xFC00001F = 0x7C000000 then some (.fdivF64 x (w.extractLsb' 19 7) (w.extractLsb' 12 7) (w.extractLsb' 5 7)) else
  if w &&& 0xFC000FFF = 0x7C000001 then some (.fsqrtF64 x (w.extractLsb' 19 7) (w.extractLsb' 12 7)) else
  if w &&& 0xFC000FFF = 0x7C000002 then some (.frcpF64 x (w.extractLsb' 19 7) (w.extractLsb' 12 7)) else
  if w &&& 0xFC000FFF = 0x7C000003 then some (.frsqF64 x (w.extractLsb' 19 7) (w.extractLsb' 12 7)) else
  none

/-- MAJ 0x20. -/
def decodeMaj20 (x : Exts) (w : BitVec 32) : Option Instr :=
  if w &&& 0xFC000C00 = 0x80000000 then some (.cvt x (w.extractLsb' 19 7) (w.extractLsb' 12 7) (w.extractLsb' 5 5) (w.extractLsb' 0 5)) else
  none

/-- MAJ 0x21. -/
def decodeMaj21 (x : Exts) (w : BitVec 32) : Option Instr :=
  if w &&& 0xFC000FFF = 0x84000000 then some (.redFV x (w.extractLsb' 19 7) (w.extractLsb' 12 7)) else
  if w &&& 0xFC000FFF = 0x84000010 then some (.redFS x (w.extractLsb' 19 7) (w.extractLsb' 12 7)) else
  if w &&& 0xFC000FFF = 0x84000001 then some (.redFcV x (w.extractLsb' 19 7) (w.extractLsb' 12 7)) else
  if w &&& 0xFC000FFF = 0x84000011 then some (.redFcS x (w.extractLsb' 19 7) (w.extractLsb' 12 7)) else
  if w &&& 0xFC000FFF = 0x84000002 then some (.scanF x (w.extractLsb' 19 7) (w.extractLsb' 12 7)) else
  if w &&& 0xFC000FFF = 0x84000008 then some (.redFF64V x (w.extractLsb' 19 7) (w.extractLsb' 12 7)) else
  if w &&& 0xFC000FFF = 0x84000018 then some (.redFF64S x (w.extractLsb' 19 7) (w.extractLsb' 12 7)) else
  if w &&& 0xFC000FFF = 0x84000009 then some (.redFcF64 x (w.extractLsb' 19 7) (w.extractLsb' 12 7)) else
  if w &&& 0xFC000FFF = 0x8400000A then some (.scanFF64 x (w.extractLsb' 19 7) (w.extractLsb' 12 7)) else
  none

/-- MAJ 0x22. -/
def decodeMaj22 (x : Exts) (w : BitVec 32) : Option Instr :=
  if w &&& 0xFC07FFFF = 0x88000000 then some (.flgr x (w.extractLsb' 19 7)) else
  if w &&& 0xFFFFFC1F = 0x88000001 then some (.flgc x (w.extractLsb' 5 5)) else
  if w &&& 0xFC000FFF = 0x88000002 then some (.qset x (w.extractLsb' 19 7) (w.extractLsb' 12 7)) else
  if w &&& 0xFC000FFF = 0x88000003 then some (.nset x (w.extractLsb' 19 7) (w.extractLsb' 12 7)) else
  none

/-- MAJ 0x2C. -/
def decodeMaj2C (x : Exts) (w : BitVec 32) : Option Instr :=
  some (.ld x (w.extractLsb' 19 7) (w.extractLsb' 12 7) (w.extractLsb' 0 12))

/-- MAJ 0x2D. -/
def decodeMaj2D (x : Exts) (w : BitVec 32) : Option Instr :=
  some (.st x (w.extractLsb' 19 7) (w.extractLsb' 12 7) (w.extractLsb' 0 12))

/-- MAJ 0x2E. -/
def decodeMaj2E (x : Exts) (w : BitVec 32) : Option Instr :=
  if w &&& 0xFC00001F = 0xB8000000 then some (.atomAdd x (w.extractLsb' 19 7) (w.extractLsb' 12 7) (w.extractLsb' 5 7)) else
  if w &&& 0xFC00001F = 0xB8000001 then some (.atomMin x (w.extractLsb' 19 7) (w.extractLsb' 12 7) (w.extractLsb' 5 7)) else
  if w &&& 0xFC00001F = 0xB8000002 then some (.atomMax x (w.extractLsb' 19 7) (w.extractLsb' 12 7) (w.extractLsb' 5 7)) else
  if w &&& 0xFC00001F = 0xB8000003 then some (.atomAnd x (w.extractLsb' 19 7) (w.extractLsb' 12 7) (w.extractLsb' 5 7)) else
  if w &&& 0xFC00001F = 0xB8000004 then some (.atomOr x (w.extractLsb' 19 7) (w.extractLsb' 12 7) (w.extractLsb' 5 7)) else
  if w &&& 0xFC00001F = 0xB8000005 then some (.atomXor x (w.extractLsb' 19 7) (w.extractLsb' 12 7) (w.extractLsb' 5 7)) else
  if w &&& 0xFC00001F = 0xB8000006 then some (.atomXchg x (w.extractLsb' 19 7) (w.extractLsb' 12 7) (w.extractLsb' 5 7)) else
  if w &&& 0xFC00001F = 0xB8000007 then some (.atomCas x (w.extractLsb' 19 7) (w.extractLsb' 12 7) (w.extractLsb' 5 7)) else
  if w &&& 0xFC00001F = 0xB8000008 then some (.atomInc x (w.extractLsb' 19 7) (w.extractLsb' 12 7) (w.extractLsb' 5 7)) else
  if w &&& 0xFC00001F = 0xB8000009 then some (.atomDec x (w.extractLsb' 19 7) (w.extractLsb' 12 7) (w.extractLsb' 5 7)) else
  if w &&& 0xFC00001F = 0xB800000A then some (.atomXchgT x (w.extractLsb' 19 7) (w.extractLsb' 12 7) (w.extractLsb' 5 7)) else
  none

/-- MAJ 0x2F. -/
def decodeMaj2F (x : Exts) (w : BitVec 32) : Option Instr :=
  if w &&& 0xFFF8001F = 0xBC000000 then some (.redMAdd x (w.extractLsb' 12 7) (w.extractLsb' 5 7)) else
  if w &&& 0xFFF8001F = 0xBC000001 then some (.redMMin x (w.extractLsb' 12 7) (w.extractLsb' 5 7)) else
  if w &&& 0xFFF8001F = 0xBC000002 then some (.redMMax x (w.extractLsb' 12 7) (w.extractLsb' 5 7)) else
  if w &&& 0xFFF8001F = 0xBC000003 then some (.redMAnd x (w.extractLsb' 12 7) (w.extractLsb' 5 7)) else
  if w &&& 0xFFF8001F = 0xBC000004 then some (.redMOr x (w.extractLsb' 12 7) (w.extractLsb' 5 7)) else
  if w &&& 0xFFF8001F = 0xBC000005 then some (.redMXor x (w.extractLsb' 12 7) (w.extractLsb' 5 7)) else
  none

/-- MAJ 0x30. -/
def decodeMaj30 (x : Exts) (w : BitVec 32) : Option Instr :=
  if w &&& 0xFFF8001F = 0xC0000000 then some (.mwait x (w.extractLsb' 12 7) (w.extractLsb' 5 7)) else
  if w &&& 0xFFFFFF1F = 0xC0000001 then some (.fenceAcq x (w.extractLsb' 5 3)) else
  if w &&& 0xFFFFFF1F = 0xC0000101 then some (.fenceRel x (w.extractLsb' 5 3)) else
  if w &&& 0xFFFFFF1F = 0xC0000201 then some (.fenceSc x (w.extractLsb' 5 3)) else
  if w &&& 0xFFFFFFFF = 0xC0000401 then some (.fenceEngine x) else
  if w &&& 0xFFFFFFFF = 0xC0000801 then some (.fenceCode x) else
  if w &&& 0xFFF80FFF = 0xC0000002 then some (.icinv x (w.extractLsb' 12 7)) else
  if w &&& 0xFFF80FFF = 0xC0000003 then some (.dcflush x (w.extractLsb' 12 7)) else
  if w &&& 0xFFF80FFF = 0xC0000004 then some (.dcinv x (w.extractLsb' 12 7)) else
  if w &&& 0xFFF80FFF = 0xC0000005 then some (.pref x (w.extractLsb' 12 7)) else
  if w &&& 0xFC00001F = 0xC0000006 then some (.hprobe x (w.extractLsb' 19 7) (w.extractLsb' 12 7) (w.extractLsb' 5 7)) else
  none

/-- MAJ 0x31. -/
def decodeMaj31 (x : Exts) (w : BitVec 32) : Option Instr :=
  if w &&& 0xFC07FFFF = 0xC4000000 then some (.snap x (w.extractLsb' 19 7)) else
  if w &&& 0xFFF80FFF = 0xC4000001 then some (.snrel x (w.extractLsb' 12 7)) else
  if w &&& 0xFC07FFFF = 0xC4000002 then some (.txb x (w.extractLsb' 19 7)) else
  if w &&& 0xFC07FFFF = 0xC4000003 then some (.txc x (w.extractLsb' 19 7)) else
  if w &&& 0xFFFFFFFF = 0xC4000004 then some (.txa x) else
  none

/-- MAJ 0x36. -/
def decodeMaj36 (x : Exts) (w : BitVec 32) : Option Instr :=
  if w &&& 0xFC00001F = 0xD8000000 then some (.mma x (w.extractLsb' 19 7) (w.extractLsb' 12 7) (w.extractLsb' 5 7)) else
  if w &&& 0xFC07FFFF = 0xD8000001 then some (.mzero x (w.extractLsb' 19 7)) else
  if w &&& 0xFC000FFF = 0xD8000002 then some (.mld x (w.extractLsb' 19 7) (w.extractLsb' 12 7)) else
  if w &&& 0xFC000FFF = 0xD8000003 then some (.mst x (w.extractLsb' 19 7) (w.extractLsb' 12 7)) else
  if w &&& 0xFC00001F = 0xD8000004 then some (.mdrain x (w.extractLsb' 19 7) (w.extractLsb' 12 7) (w.extractLsb' 5 7)) else
  if w &&& 0xFC000FFF = 0xD8000005 then some (.mmap x (w.extractLsb' 19 7) (w.extractLsb' 12 7)) else
  if w &&& 0xFFF80FFF = 0xD8000006 then some (.mburst x (w.extractLsb' 12 7)) else
  if w &&& 0xFC000FFF = 0xD8000007 then some (.tld x (w.extractLsb' 19 7) (w.extractLsb' 12 7)) else
  if w &&& 0xFC000FFF = 0xD8000008 then some (.tmovTv x (w.extractLsb' 19 7) (w.extractLsb' 12 7)) else
  if w &&& 0xFC000FFF = 0xD8000009 then some (.tmovVt x (w.extractLsb' 19 7) (w.extractLsb' 12 7)) else
  none

/-- MAJ 0x37. -/
def decodeMaj37 (x : Exts) (w : BitVec 32) : Option Instr :=
  if w &&& 0xFFF8001F = 0xDC000000 then some (.copy x (w.extractLsb' 12 7) (w.extractLsb' 5 7)) else
  if w &&& 0xFFF8001F = 0xDC000001 then some (.copyMc x (w.extractLsb' 12 7) (w.extractLsb' 5 7)) else
  if w &&& 0xFFF8001F = 0xDC000002 then some (.gather x (w.extractLsb' 12 7) (w.extractLsb' 5 7)) else
  if w &&& 0xFFF8001F = 0xDC000003 then some (.coll x (w.extractLsb' 12 7) (w.extractLsb' 5 7)) else
  if w &&& 0xFFF8001F = 0xDC000004 then some (.media x (w.extractLsb' 12 7) (w.extractLsb' 5 7)) else
  none

/-- MAJ 0x38. -/
def decodeMaj38 (x : Exts) (w : BitVec 32) : Option Instr :=
  if w &&& 0xFFF80FFF = 0xE0000000 then some (.arrive x (w.extractLsb' 12 7)) else
  if w &&& 0xFC000FFF = 0xE0000001 then some (.wait x (w.extractLsb' 19 7) (w.extractLsb' 12 7)) else
  if w &&& 0xFC000FFF = 0xE0000002 then some (.arwait x (w.extractLsb' 19 7) (w.extractLsb' 12 7)) else
  if w &&& 0xFFF8001F = 0xE0000003 then some (.expect x (w.extractLsb' 12 7) (w.extractLsb' 5 7)) else
  if w &&& 0xFC000FFF = 0xE0000004 then some (.cltest x (w.extractLsb' 19 7) (w.extractLsb' 12 7)) else
  none

/-- MAJ 0x39. -/
def decodeMaj39 (x : Exts) (w : BitVec 32) : Option Instr :=
  if w &&& 0xFFFFF01F = 0xE4000000 then some (.rclaim x (w.extractLsb' 5 7)) else
  if w &&& 0xFFFFF01F = 0xE4000001 then some (.rrel x (w.extractLsb' 5 7)) else
  if w &&& 0xFFF8001F = 0xE4000002 then some (.regroup x (w.extractLsb' 12 7) (w.extractLsb' 5 7)) else
  none

/-- MAJ 0x3C. -/
def decodeMaj3C (x : Exts) (w : BitVec 32) : Option Instr :=
  if w &&& 0xFFF8001F = 0xF0000000 then some (.sysc x (w.extractLsb' 12 7) (w.extractLsb' 5 7)) else
  if w &&& 0xFFFFF01F = 0xF0000001 then some (.trap x (w.extractLsb' 5 7)) else
  if w &&& 0xFFFFF01F = 0xF0000002 then some (.bkpt x (w.extractLsb' 5 7)) else
  if w &&& 0xFC000FFF = 0xF0000003 then some (.mbxrd x (w.extractLsb' 19 7) (w.extractLsb' 12 7)) else
  if w &&& 0xFFF8001F = 0xF0000004 then some (.laneres x (w.extractLsb' 12 7) (w.extractLsb' 5 7)) else
  if w &&& 0xFFF8001F = 0xF0000005 then some (.tlbinv x (w.extractLsb' 12 7) (w.extractLsb' 5 7)) else
  if w &&& 0xFFFFFFFF = 0xF0000006 then some (.eret x) else
  none

/-- MAJ 0x3D. -/
def decodeMaj3D (x : Exts) (w : BitVec 32) : Option Instr :=
  if w &&& 0xFC07F000 = 0xF4000000 then some (.capr x (w.extractLsb' 19 7) (w.extractLsb' 0 12)) else
  none

/-- The instruction that a base word encodes after the extension words `x`, by the opcode map of R86 to R91: each row's
fixed bits must stand (an unused field is zero, R66). A word that no row names is none. -/
def decodeBase (x : Exts) (w : BitVec 32) : Option Instr :=
  match (w.extractLsb' 26 6).toNat with
  | 0 => decodeMaj00 x w
  | 1 => decodeMaj01 x w
  | 2 => decodeMaj02 x w
  | 3 => decodeMaj03 x w
  | 4 => decodeMaj04 x w
  | 5 => decodeMaj05 x w
  | 8 => decodeMaj08 x w
  | 9 => decodeMaj09 x w
  | 10 => decodeMaj0A x w
  | 11 => decodeMaj0B x w
  | 16 => decodeMaj10 x w
  | 18 => decodeMaj12 x w
  | 19 => decodeMaj13 x w
  | 28 => decodeMaj1C x w
  | 29 => decodeMaj1D x w
  | 30 => decodeMaj1E x w
  | 31 => decodeMaj1F x w
  | 32 => decodeMaj20 x w
  | 33 => decodeMaj21 x w
  | 34 => decodeMaj22 x w
  | 44 => decodeMaj2C x w
  | 45 => decodeMaj2D x w
  | 46 => decodeMaj2E x w
  | 47 => decodeMaj2F x w
  | 48 => decodeMaj30 x w
  | 49 => decodeMaj31 x w
  | 54 => decodeMaj36 x w
  | 55 => decodeMaj37 x w
  | 56 => decodeMaj38 x w
  | 57 => decodeMaj39 x w
  | 60 => decodeMaj3C x w
  | 61 => decodeMaj3D x w
  | _ => none

/-- The operand kinds and modifier rules of each encoded instruction, from R87 to R91 and the FAM tables of R136, R171,
R249, R262 and R280. A step of the device has no encoding and no shape. -/
def shape : Instr → Option Shape
  | .bra _ _ _ _ => some .formJ
  | .call _ _ _ _ => some .formJ
  | .loop _ d a i => some { d := (.lc, d), a := (.s, a), extra := loopImmOk i }
  | .loopi _ d a i => some { d := (.lc, d), a := (.u7, a), extra := loopImmOk i }
  | .bri _ a => some { a := (.v, a), routeA := true, uniA := true }
  | .calli _ a => some { a := (.v, a), routeA := true, uniA := true }
  | .ret _ => some {}
  | .exit _ => some {}
  | .cjoin _ a => some { a := (.s, a) }
  | .yield _ => some {}
  | .nop _ => some {}
  | .cmark _ d => some { d := (.s, d) }
  | .wbase _ i => some { extra := i.extractLsb' 0 2 = 0 }
  | .sadd _ d a b => some { d := (.s, d), a := (.s, a), b := (.s, b) }
  | .ssub _ d a b => some { d := (.s, d), a := (.s, a), b := (.s, b) }
  | .smul _ d a b => some { d := (.s, d), a := (.s, a), b := (.s, b) }
  | .smad x d a b => some { d := (.s, d), a := (.s, a), b := (.s, b), c := (.s, x.c) }
  | .sand _ d a b => some { d := (.s, d), a := (.s, a), b := (.s, b) }
  | .sor _ d a b => some { d := (.s, d), a := (.s, a), b := (.s, b) }
  | .sxor _ d a b => some { d := (.s, d), a := (.s, a), b := (.s, b) }
  | .sshl _ d a b => some { d := (.s, d), a := (.s, a), b := (.s, b) }
  | .sshr _ d a b => some { d := (.s, d), a := (.s, a), b := (.s, b) }
  | .ssra _ d a b => some { d := (.s, d), a := (.s, a), b := (.s, b) }
  | .smin _ d a b => some { d := (.s, d), a := (.s, a), b := (.s, b), fam := famLe 1 }
  | .smax _ d a b => some { d := (.s, d), a := (.s, a), b := (.s, b), fam := famLe 1 }
  | .scmp _ d a b => some { d := (.s, d), a := (.s, a), b := (.s, b), fam := famLe 9 }
  | .smov _ d a => some { d := (.s, d), a := (.s, a) }
  | .smovi _ d _ => some { d := (.s, d), imm := true, fam := famLe 2 }
  | .sread _ d _ => some { d := (.s, d) }
  | .swrite _ a _ => some { a := (.s, a) }
  | .iadd _ d a b => some { d := (.v, d), a := (.v, a), b := (.v, b), routeA := true, uniA := true, routeB := true, uniB := true, fam := famLe 2 }
  | .iaddc x d a b => some { d := (.v, d), a := (.v, a), b := (.v, b), c := (.pd, x.c), routeA := true, uniA := true, routeB := true, uniB := true }
  | .isub _ d a b => some { d := (.v, d), a := (.v, a), b := (.v, b), routeA := true, uniA := true, routeB := true, uniB := true, fam := famLe 2 }
  | .imul _ d a b => some { d := (.v, d), a := (.v, a), b := (.v, b), routeA := true, uniA := true, routeB := true, uniB := true }
  | .imulh _ d a b => some { d := (.v, d), a := (.v, a), b := (.v, b), routeA := true, uniA := true, routeB := true, uniB := true, fam := famLe 1 }
  | .imad x d a b => some { d := (.v, d), a := (.v, a), b := (.v, b), c := (.v, x.c), routeA := true, uniA := true, routeB := true, uniB := true, routeC := true, uniC := true }
  | .imadw x d a b => some { d := (.vp, d), a := (.v, a), b := (.v, b), c := (.vp, x.c), routeA := true, uniA := true, routeB := true, uniB := true, routeC := true, uniC := true, fam := famLe 1 }
  | .iand _ d a b => some { d := (.v, d), a := (.v, a), b := (.v, b), routeA := true, uniA := true, routeB := true, uniB := true }
  | .ior _ d a b => some { d := (.v, d), a := (.v, a), b := (.v, b), routeA := true, uniA := true, routeB := true, uniB := true }
  | .ixor _ d a b => some { d := (.v, d), a := (.v, a), b := (.v, b), routeA := true, uniA := true, routeB := true, uniB := true }
  | .inot _ d a => some { d := (.v, d), a := (.v, a), routeA := true, uniA := true }
  | .ishl _ d a b => some { d := (.v, d), a := (.v, a), b := (.v, b), routeA := true, uniA := true, routeB := true, uniB := true }
  | .ishr _ d a b => some { d := (.v, d), a := (.v, a), b := (.v, b), routeA := true, uniA := true, routeB := true, uniB := true }
  | .isra _ d a b => some { d := (.v, d), a := (.v, a), b := (.v, b), routeA := true, uniA := true, routeB := true, uniB := true }
  | .imin _ d a b => some { d := (.v, d), a := (.v, a), b := (.v, b), routeA := true, uniA := true, routeB := true, uniB := true, fam := famLe 1 }
  | .imax _ d a b => some { d := (.v, d), a := (.v, a), b := (.v, b), routeA := true, uniA := true, routeB := true, uniB := true, fam := famLe 1 }
  | .iabs _ d a => some { d := (.v, d), a := (.v, a), routeA := true, uniA := true }
  | .icmp _ d a b => some { d := (.pd, d), a := (.v, a), b := (.v, b), routeA := true, uniA := true, routeB := true, uniB := true, fam := famLe 9 }
  | .isel x d a b => some { d := (.v, d), a := (.v, a), b := (.v, b), c := (.ps, x.c), routeA := true, uniA := true, routeB := true, uniB := true }
  | .popc _ d a => some { d := (.v, d), a := (.v, a), routeA := true, uniA := true }
  | .clz _ d a => some { d := (.v, d), a := (.v, a), routeA := true, uniA := true }
  | .brev _ d a => some { d := (.v, d), a := (.v, a), routeA := true, uniA := true }
  | .bfx _ d a b => some { d := (.v, d), a := (.v, a), b := (.v, b), routeA := true, uniA := true, routeB := true, uniB := true, fam := famLe 1 }
  | .bfi x d a b => some { d := (.v, d), a := (.v, a), b := (.v, b), c := (.v, x.c), routeA := true, uniA := true, routeB := true, uniB := true, routeC := true, uniC := true }
  | .lea _ d a b => some { d := (.vp, d), a := (.vp, a), b := (.v, b), routeA := true, uniA := true, routeB := true, uniB := true, fam := famLe 15 }
  | .pand _ d a b => some { d := (.pd, d), a := (.ps, a), b := (.ps, b), fam := famLe 3 }
  | .por _ d a b => some { d := (.pd, d), a := (.ps, a), b := (.ps, b), fam := famLe 3 }
  | .pxor _ d a b => some { d := (.pd, d), a := (.ps, a), b := (.ps, b), fam := famLe 3 }
  | .pnot _ d a => some { d := (.pd, d), a := (.ps, a) }
  | .pmov _ d a => some { d := (.pd, d), a := (.ps, a) }
  | .voteP _ d a => some { d := (.pd, d), a := (.ps, a), fam := famLe 2 }
  | .voteS _ d a => some { d := (.s, d), a := (.ps, a) }
  | .matchV _ d a => some { d := (.v, d), a := (.v, a), routeA := true, uniA := true }
  | .matchS _ d a => some { d := (.s, d), a := (.v, a), routeA := true, uniA := true }
  | .redIV _ d a => some { d := (.v, d), a := (.v, a), routeA := true, uniA := true, fam := famRedI false }
  | .redIS _ d a => some { d := (.s, d), a := (.v, a), routeA := true, uniA := true, fam := famRedI false }
  | .scanIV _ d a => some { d := (.v, d), a := (.v, a), routeA := true, uniA := true, fam := famRedI true }
  | .scanIS _ d a => some { d := (.s, d), a := (.v, a), routeA := true, fam := famRedI true }
  | .fadd _ d a b => some { d := (.v, d), a := (.v, a), b := (.v, b), routeA := true, uniA := true, routeB := true, uniB := true, fam := famLe 4 }
  | .fsub _ d a b => some { d := (.v, d), a := (.v, a), b := (.v, b), routeA := true, uniA := true, routeB := true, uniB := true, fam := famLe 4 }
  | .fmul _ d a b => some { d := (.v, d), a := (.v, a), b := (.v, b), routeA := true, uniA := true, routeB := true, uniB := true, fam := famLe 4 }
  | .ffma x d a b => some { d := (.v, d), a := (.v, a), b := (.v, b), c := (.v, x.c), routeA := true, uniA := true, routeB := true, uniB := true, routeC := true, uniC := true, fam := famLe 4 }
  | .fmin _ d a b => some { d := (.v, d), a := (.v, a), b := (.v, b), routeA := true, uniA := true, routeB := true, uniB := true, fam := famLe 1 }
  | .fmax _ d a b => some { d := (.v, d), a := (.v, a), b := (.v, b), routeA := true, uniA := true, routeB := true, uniB := true, fam := famLe 1 }
  | .fcmp _ d a b => some { d := (.pd, d), a := (.v, a), b := (.v, b), routeA := true, uniA := true, routeB := true, uniB := true, fam := famLe 7 }
  | .fclass _ d a => some { d := (.v, d), a := (.v, a), routeA := true, uniA := true }
  | .frnd _ d a => some { d := (.v, d), a := (.v, a), routeA := true, uniA := true, fam := famLe 4 }
  | .faddX _ d a b => some { d := (.vp, d), a := (.v, a), b := (.v, b), routeA := true, uniA := true, routeB := true, uniB := true }
  | .fsubX _ d a b => some { d := (.vp, d), a := (.v, a), b := (.v, b), routeA := true, uniA := true, routeB := true, uniB := true }
  | .fmulX _ d a b => some { d := (.vp, d), a := (.v, a), b := (.v, b), routeA := true, uniA := true, routeB := true, uniB := true }
  | .dwadd _ d a b => some { d := (.vp, d), a := (.vp, a), b := (.vp, b), routeA := true, uniA := true, routeB := true, uniB := true }
  | .dwsub _ d a b => some { d := (.vp, d), a := (.vp, a), b := (.vp, b), routeA := true, uniA := true, routeB := true, uniB := true }
  | .dwmul _ d a b => some { d := (.vp, d), a := (.vp, a), b := (.vp, b), routeA := true, uniA := true, routeB := true, uniB := true }
  | .dwnorm _ d a => some { d := (.vp, d), a := (.vp, a), routeA := true, uniA := true }
  | .faddF64 _ d a b => some { d := (.vp, d), a := (.vp, a), b := (.vp, b), routeA := true, uniA := true, routeB := true, uniB := true, fam := famLe 4 }
  | .fsubF64 _ d a b => some { d := (.vp, d), a := (.vp, a), b := (.vp, b), routeA := true, uniA := true, routeB := true, uniB := true, fam := famLe 4 }
  | .fmulF64 _ d a b => some { d := (.vp, d), a := (.vp, a), b := (.vp, b), routeA := true, uniA := true, routeB := true, uniB := true, fam := famLe 4 }
  | .ffmaF64 x d a b => some { d := (.vp, d), a := (.vp, a), b := (.vp, b), c := (.vp, x.c), routeA := true, uniA := true, routeB := true, uniB := true, routeC := true, uniC := true, fam := famLe 4 }
  | .fminF64 _ d a b => some { d := (.vp, d), a := (.vp, a), b := (.vp, b), routeA := true, uniA := true, routeB := true, uniB := true, fam := famLe 1 }
  | .fmaxF64 _ d a b => some { d := (.vp, d), a := (.vp, a), b := (.vp, b), routeA := true, uniA := true, routeB := true, uniB := true, fam := famLe 1 }
  | .fcmpF64 _ d a b => some { d := (.pd, d), a := (.vp, a), b := (.vp, b), routeA := true, uniA := true, routeB := true, uniB := true, fam := famLe 7 }
  | .fclassF64 _ d a => some { d := (.v, d), a := (.vp, a), routeA := true, uniA := true }
  | .frndF64 _ d a => some { d := (.vp, d), a := (.vp, a), routeA := true, uniA := true, fam := famLe 4 }
  | .faddXF64 _ d a b => some { d := (.vq, d), a := (.vp, a), b := (.vp, b), routeA := true, uniA := true, routeB := true, uniB := true }
  | .fsubXF64 _ d a b => some { d := (.vq, d), a := (.vp, a), b := (.vp, b), routeA := true, uniA := true, routeB := true, uniB := true }
  | .fmulXF64 _ d a b => some { d := (.vq, d), a := (.vp, a), b := (.vp, b), routeA := true, uniA := true, routeB := true, uniB := true }
  | .dwaddF64 _ d a b => some { d := (.vq, d), a := (.vq, a), b := (.vq, b), routeA := true, uniA := true, routeB := true, uniB := true }
  | .dwsubF64 _ d a b => some { d := (.vq, d), a := (.vq, a), b := (.vq, b), routeA := true, uniA := true, routeB := true, uniB := true }
  | .dwmulF64 _ d a b => some { d := (.vq, d), a := (.vq, a), b := (.vq, b), routeA := true, uniA := true, routeB := true, uniB := true }
  | .dwnormF64 _ d a => some { d := (.vq, d), a := (.vq, a), routeA := true, uniA := true }
  | .fdiv _ d a b => some { d := (.v, d), a := (.v, a), b := (.v, b), routeA := true, uniA := true, routeB := true, uniB := true, fam := famLe 4 }
  | .fsqrt _ d a => some { d := (.v, d), a := (.v, a), routeA := true, uniA := true, fam := famLe 4 }
  | .frcp _ d a => some { d := (.v, d), a := (.v, a), routeA := true, uniA := true, fam := famLe 4 }
  | .frsq _ d a => some { d := (.v, d), a := (.v, a), routeA := true, uniA := true, fam := famLe 4 }
  | .fex2 _ d a => some { d := (.v, d), a := (.v, a), routeA := true, uniA := true, fam := famLe 4 }
  | .flg2 _ d a => some { d := (.v, d), a := (.v, a), routeA := true, uniA := true, fam := famLe 4 }
  | .fsin _ d a => some { d := (.v, d), a := (.v, a), routeA := true, uniA := true, fam := famLe 4 }
  | .fcos _ d a => some { d := (.v, d), a := (.v, a), routeA := true, uniA := true, fam := famLe 4 }
  | .fdivF64 _ d a b => some { d := (.vp, d), a := (.vp, a), b := (.vp, b), routeA := true, uniA := true, routeB := true, uniB := true, fam := famLe 4 }
  | .fsqrtF64 _ d a => some { d := (.vp, d), a := (.vp, a), routeA := true, uniA := true, fam := famLe 4 }
  | .frcpF64 _ d a => some { d := (.vp, d), a := (.vp, a), routeA := true, uniA := true, fam := famLe 4 }
  | .frsqF64 _ d a => some { d := (.vp, d), a := (.vp, a), routeA := true, uniA := true, fam := famLe 4 }
  | .cvt _ d a s t => some { d := (cvtKind t, d), a := (cvtKind s, a), routeA := true, uniA := true, fam := famCvt s t, extra := cvtCodesOk s t }
  | .redFV _ d a => some { d := (.v, d), a := (.v, a), routeA := true, uniA := true, fam := famRedF false }
  | .redFS _ d a => some { d := (.s, d), a := (.v, a), routeA := true, uniA := true, fam := famRedF false }
  | .redFcV _ d a => some { d := (.vp, d), a := (.v, a), routeA := true, uniA := true }
  | .redFcS _ d a => some { d := (.s, d), a := (.v, a), routeA := true, uniA := true }
  | .scanF _ d a => some { d := (.v, d), a := (.v, a), routeA := true, uniA := true, fam := famRedF true }
  | .redFF64V _ d a => some { d := (.vp, d), a := (.vp, a), routeA := true, uniA := true, fam := famRedF false }
  | .redFF64S _ d a => some { d := (.s, d), a := (.vp, a), routeA := true, uniA := true, fam := famRedF false }
  | .redFcF64 _ d a => some { d := (.vq, d), a := (.vp, a), routeA := true, uniA := true }
  | .scanFF64 _ d a => some { d := (.vp, d), a := (.vp, a), routeA := true, uniA := true, fam := famRedF true }
  | .flgr _ d => some { d := (.v, d) }
  | .flgc _ _ => some {}
  | .qset _ d a => some { d := (.q, d), a := (.v, a), routeA := true, uniA := true }
  | .nset _ d a => some { d := (.n, d), a := (.v, a), routeA := true, uniA := true }
  | .ld x d a _ => some { d := (widthKind x, d), a := (addrKind x, a), c := (memC x, x.c), src := .memory, routeA := true, imm := true, fam := famLd }
  | .st x d a _ => some { d := (widthKind x, d), a := (addrKind x, a), c := (memC x, x.c), src := .memory, routeA := true, imm := true, fam := famSt }
  | .atomAdd x d a b => some { d := (.v, d), a := (addrKind x, a), b := (.v, b), c := (memC x, x.c), src := .memory, routeA := true, routeB := true, fam := famAtom (fun t => t = 0 ∨ t = 2) }
  | .atomMin x d a b => some { d := (.v, d), a := (addrKind x, a), b := (.v, b), c := (memC x, x.c), src := .memory, routeA := true, routeB := true, fam := famAtom (fun t => t ≤ 2) }
  | .atomMax x d a b => some { d := (.v, d), a := (addrKind x, a), b := (.v, b), c := (memC x, x.c), src := .memory, routeA := true, routeB := true, fam := famAtom (fun t => t ≤ 2) }
  | .atomAnd x d a b => some { d := (.v, d), a := (addrKind x, a), b := (.v, b), c := (memC x, x.c), src := .memory, routeA := true, routeB := true, fam := famAtom (fun t => t = 0) }
  | .atomOr x d a b => some { d := (.v, d), a := (addrKind x, a), b := (.v, b), c := (memC x, x.c), src := .memory, routeA := true, routeB := true, fam := famAtom (fun t => t = 0) }
  | .atomXor x d a b => some { d := (.v, d), a := (addrKind x, a), b := (.v, b), c := (memC x, x.c), src := .memory, routeA := true, routeB := true, fam := famAtom (fun t => t = 0) }
  | .atomXchg x d a b => some { d := (.v, d), a := (addrKind x, a), b := (.v, b), c := (memC x, x.c), src := .memory, routeA := true, routeB := true, fam := famAtom (fun t => t = 0) }
  | .atomCas x d a b => some { d := (.v, d), a := (addrKind x, a), b := (.v, b), c := (memC x, x.c), src := .memory, routeA := true, routeB := true, fam := famAtom (fun t => t = 0) }
  | .atomInc x d a b => some { d := (.v, d), a := (addrKind x, a), b := (.v, b), c := (memC x, x.c), src := .memory, routeA := true, routeB := true, fam := famAtom (fun t => t = 0) }
  | .atomDec x d a b => some { d := (.v, d), a := (addrKind x, a), b := (.v, b), c := (memC x, x.c), src := .memory, routeA := true, routeB := true, fam := famAtom (fun t => t = 0) }
  | .atomXchgT x d a b => some { d := (.vp, d), a := (addrKind x, a), b := (.v, b), c := (memC x, x.c), src := .memory, routeA := true, routeB := true, fam := famAtom (fun t => t = 0) }
  | .redMAdd x a b => some { a := (addrKind x, a), b := (.v, b), c := (memC x, x.c), src := .memory, routeA := true, routeB := true, fam := famRedM (fun t => t = 0 ∨ t = 2) }
  | .redMMin x a b => some { a := (addrKind x, a), b := (.v, b), c := (memC x, x.c), src := .memory, routeA := true, routeB := true, fam := famRedM (fun t => t ≤ 2) }
  | .redMMax x a b => some { a := (addrKind x, a), b := (.v, b), c := (memC x, x.c), src := .memory, routeA := true, routeB := true, fam := famRedM (fun t => t ≤ 2) }
  | .redMAnd x a b => some { a := (addrKind x, a), b := (.v, b), c := (memC x, x.c), src := .memory, routeA := true, routeB := true, fam := famRedM (fun t => t = 0) }
  | .redMOr x a b => some { a := (addrKind x, a), b := (.v, b), c := (memC x, x.c), src := .memory, routeA := true, routeB := true, fam := famRedM (fun t => t = 0) }
  | .redMXor x a b => some { a := (addrKind x, a), b := (.v, b), c := (memC x, x.c), src := .memory, routeA := true, routeB := true, fam := famRedM (fun t => t = 0) }
  | .mwait x a b => some { a := (addrKind x, a), b := (.v, b), c := (memC x, x.c), src := .memory, routeA := true, routeB := true, fam := famMwait }
  | .fenceAcq _ s => some { extra := s.toNat ≤ 4 }
  | .fenceRel _ s => some { extra := s.toNat ≤ 4 }
  | .fenceSc _ s => some { extra := s.toNat ≤ 4 }
  | .fenceEngine _ => some {}
  | .fenceCode _ => some {}
  | .icinv x a => some { a := (addrKind x, a), c := (memC x, x.c), src := .memory, routeA := true }
  | .dcflush x a => some { a := (addrKind x, a), c := (memC x, x.c), src := .memory, routeA := true }
  | .dcinv x a => some { a := (addrKind x, a), c := (memC x, x.c), src := .memory, routeA := true }
  | .pref x a => some { a := (addrKind x, a), c := (memC x, x.c), src := .memory, routeA := true }
  | .hprobe _ d a b => some { d := (.v, d), a := (.vp, a), b := (.v, b), routeA := true, uniA := true, routeB := true, uniB := true }
  | .snap _ d => some { d := (.s, d) }
  | .snrel _ a => some { a := (.s, a) }
  | .txb _ d => some { d := (.s, d) }
  | .txc _ d => some { d := (.pd, d) }
  | .txa _ => some {}
  | .mma x d a b => some { d := (.m, d), a := (.t, a), b := (.g, b), c := (mmaC x, x.c), fam := famLe 3 }
  | .mzero _ d => some { d := (.m, d) }
  | .mld _ d a => some { d := (.m, d), a := (.s, a), src := .uniformAddr }
  | .mst _ d a => some { d := (.m, d), a := (.s, a), src := .uniformAddr }
  | .mdrain _ d a b => some { d := (.m, d), a := (.g, a), b := (.g, b) }
  | .mmap _ d a => some { d := (.g, d), a := (.s, a) }
  | .mburst _ a => some { a := (.s, a) }
  | .tld _ d a => some { d := (.t, d), a := (.s, a), src := .uniformAddr }
  | .tmovTv _ d a => some { d := (.t, d), a := (.v, a), routeA := true, uniA := true, fam := famLe 15 }
  | .tmovVt _ d a => some { d := (.v, d), a := (.t, a), fam := famLe 15 }
  | .copy x a b => some { a := (.s, a), b := (.s, b), c := (engC x, x.c), fam := famLe 3 }
  | .copyMc x a b => some { a := (.s, a), b := (.s, b), c := (engC x, x.c), fam := famLe 1, extra := mcClaspOk x }
  | .gather x a b => some { a := (.s, a), b := (.v, b), c := (engC x, x.c), routeB := true, uniB := true, fam := famLe 1 }
  | .coll x a b => some { a := (.s, a), b := (.s, b), c := (engC x, x.c), fam := famLe 1 }
  | .media x a b => some { a := (.s, a), b := (.s, b), c := (engC x, x.c), fam := famLe 1 }
  | .arrive _ a => some { a := (.k, a) }
  | .wait _ d a => some { d := (.pd, d), a := (.k, a) }
  | .arwait _ d a => some { d := (.pd, d), a := (.k, a) }
  | .expect _ a b => some { a := (.k, a), b := (.s, b) }
  | .cltest _ d a => some { d := (.pd, d), a := (.k, a) }
  | .rclaim _ n => some { extra := n ≠ 0 }
  | .rrel _ n => some { extra := n ≠ 0 }
  | .regroup _ a b => some { a := (.v, a), b := (.s, b), routeA := true, uniA := true }
  | .sysc _ a b => some { a := (.v, a), b := (.vp, b) }
  | .trap _ _ => some {}
  | .bkpt _ _ => some {}
  | .mbxrd _ d a => some { d := (.v, d), a := (.s, a) }
  | .laneres _ a b => some { a := (.s, a), b := (.v, b), routeB := true, uniB := true }
  | .tlbinv _ a b => some { a := (.s, a), b := (.s, b) }
  | .eret _ => some {}
  | .capr _ d _ => some { d := (.s, d) }
  | .joinRelease _ _ => none
  | .mwaitWake _ _ _ => none
  | .engineGrant _ => none
  | .matrixOpComplete _ => none
  | .jobStart _ => none
  | .copyDelivery _ _ => none
  | .jobComplete _ => none
  | .jobFault _ _ => none
  | .claspTimeout _ => none
  | .claimGrant _ => none
  | .claimdl _ => none
  | .regroupExecute _ _ => none
  | .issueOpportunity _ => none
  | .loadReturn _ _ => none
  | .homeApplyWrite _ _ => none
  | .writeAck _ => none
  | .pageWalkComplete _ _ _ => none
  | .versionReclaim _ _ _ => none
  | .heldWriteRelease _ => none
  | .preemptStop _ _ => none
  | .preemptDrainDone _ _ => none
  | .saveComplete _ => none
  | .queueWake _ => none
  | .unmappedWake _ => none
  | .packetLaunch _ => none
  | .packetPool _ => none
  | .packetBarrier _ => none
  | .packetNop _ => none
  | .badpkt _ => none
  | .barrierComplete _ => none
  | .dispatchStep _ => none
  | .teamRetire _ => none
  | .poolRecordTake _ => none
  | .binTimedFlush _ _ => none
  | .rampTick => none
  | .launchSaveWrite _ => none
  | .watchdogExpiry _ => none
  | .remoteGiveUp _ => none
  | .checkpointBlock => none
  | .checkpointEnd => none
  | .evidenceSigned => none
  | .powerCapApply => none
  | .fullConditionClear _ => none
  | .onCoreError _ _ _ => none
  | .lanectlComplete _ _ => none
  | .lanectlRetry _ _ => none
  | .lanectlKill _ _ => none
  | .lanectlSetpc _ _ => none
  | .jobctlResume _ _ => none
  | .jobctlFail _ _ => none
  | .savectlSave _ _ => none
  | .savectlRestore _ _ => none
  | .savectlDiscard _ _ => none
  | .sqpop _ => none
  | .invcmd _ _ => none
  | .artCommit _ _ _ => none
  | .artClear _ _ _ => none
  | .inbCommit _ _ => none
  | .inbClear _ _ => none
  | .registerWrite _ _ => none
  | .rowCommit _ _ => none
  | .rowUnmap _ _ => none
  | .holdClear _ => none
  | .holdSet _ => none
  | .preemptSet _ => none
  | .preemptClear _ => none
  | .evpop => none
  | .destroy _ => none
  | .destroyForce _ => none
  | .failbar _ => none
  | .deviceReset => none
  | .thermalStop _ => none
  | .hotReset => none
  | .linkDown => none
  | .linkUp => none
  | .functionLevelReset _ => none
  | .driverStatusChange _ _ => none
  | .virtioRequest _ _ => none
  | .hostev => none
  | .inboundAccess _ _ => none
  | .ckcmd _ => none
  | .areq _ => none
  | .mrExtend _ _ => none
  | .pcap _ => none
  | .contextEnd _ => none
  | .weaberLinkDown _ => none
  | .weaberLinkUp _ => none
  | .powerLoss => none
  | .dynamicAddress _ => none

/-- The extension words of an encoded instruction. -/
def extsOf : Instr → Exts
  | .bra x _ _ _ => x
  | .call x _ _ _ => x
  | .loop x _ _ _ => x
  | .loopi x _ _ _ => x
  | .bri x _ => x
  | .calli x _ => x
  | .ret x => x
  | .exit x => x
  | .cjoin x _ => x
  | .yield x => x
  | .nop x => x
  | .cmark x _ => x
  | .wbase x _ => x
  | .sadd x _ _ _ => x
  | .ssub x _ _ _ => x
  | .smul x _ _ _ => x
  | .smad x _ _ _ => x
  | .sand x _ _ _ => x
  | .sor x _ _ _ => x
  | .sxor x _ _ _ => x
  | .sshl x _ _ _ => x
  | .sshr x _ _ _ => x
  | .ssra x _ _ _ => x
  | .smin x _ _ _ => x
  | .smax x _ _ _ => x
  | .scmp x _ _ _ => x
  | .smov x _ _ => x
  | .smovi x _ _ => x
  | .sread x _ _ => x
  | .swrite x _ _ => x
  | .iadd x _ _ _ => x
  | .iaddc x _ _ _ => x
  | .isub x _ _ _ => x
  | .imul x _ _ _ => x
  | .imulh x _ _ _ => x
  | .imad x _ _ _ => x
  | .imadw x _ _ _ => x
  | .iand x _ _ _ => x
  | .ior x _ _ _ => x
  | .ixor x _ _ _ => x
  | .inot x _ _ => x
  | .ishl x _ _ _ => x
  | .ishr x _ _ _ => x
  | .isra x _ _ _ => x
  | .imin x _ _ _ => x
  | .imax x _ _ _ => x
  | .iabs x _ _ => x
  | .icmp x _ _ _ => x
  | .isel x _ _ _ => x
  | .popc x _ _ => x
  | .clz x _ _ => x
  | .brev x _ _ => x
  | .bfx x _ _ _ => x
  | .bfi x _ _ _ => x
  | .lea x _ _ _ => x
  | .pand x _ _ _ => x
  | .por x _ _ _ => x
  | .pxor x _ _ _ => x
  | .pnot x _ _ => x
  | .pmov x _ _ => x
  | .voteP x _ _ => x
  | .voteS x _ _ => x
  | .matchV x _ _ => x
  | .matchS x _ _ => x
  | .redIV x _ _ => x
  | .redIS x _ _ => x
  | .scanIV x _ _ => x
  | .scanIS x _ _ => x
  | .fadd x _ _ _ => x
  | .fsub x _ _ _ => x
  | .fmul x _ _ _ => x
  | .ffma x _ _ _ => x
  | .fmin x _ _ _ => x
  | .fmax x _ _ _ => x
  | .fcmp x _ _ _ => x
  | .fclass x _ _ => x
  | .frnd x _ _ => x
  | .faddX x _ _ _ => x
  | .fsubX x _ _ _ => x
  | .fmulX x _ _ _ => x
  | .dwadd x _ _ _ => x
  | .dwsub x _ _ _ => x
  | .dwmul x _ _ _ => x
  | .dwnorm x _ _ => x
  | .faddF64 x _ _ _ => x
  | .fsubF64 x _ _ _ => x
  | .fmulF64 x _ _ _ => x
  | .ffmaF64 x _ _ _ => x
  | .fminF64 x _ _ _ => x
  | .fmaxF64 x _ _ _ => x
  | .fcmpF64 x _ _ _ => x
  | .fclassF64 x _ _ => x
  | .frndF64 x _ _ => x
  | .faddXF64 x _ _ _ => x
  | .fsubXF64 x _ _ _ => x
  | .fmulXF64 x _ _ _ => x
  | .dwaddF64 x _ _ _ => x
  | .dwsubF64 x _ _ _ => x
  | .dwmulF64 x _ _ _ => x
  | .dwnormF64 x _ _ => x
  | .fdiv x _ _ _ => x
  | .fsqrt x _ _ => x
  | .frcp x _ _ => x
  | .frsq x _ _ => x
  | .fex2 x _ _ => x
  | .flg2 x _ _ => x
  | .fsin x _ _ => x
  | .fcos x _ _ => x
  | .fdivF64 x _ _ _ => x
  | .fsqrtF64 x _ _ => x
  | .frcpF64 x _ _ => x
  | .frsqF64 x _ _ => x
  | .cvt x _ _ _ _ => x
  | .redFV x _ _ => x
  | .redFS x _ _ => x
  | .redFcV x _ _ => x
  | .redFcS x _ _ => x
  | .scanF x _ _ => x
  | .redFF64V x _ _ => x
  | .redFF64S x _ _ => x
  | .redFcF64 x _ _ => x
  | .scanFF64 x _ _ => x
  | .flgr x _ => x
  | .flgc x _ => x
  | .qset x _ _ => x
  | .nset x _ _ => x
  | .ld x _ _ _ => x
  | .st x _ _ _ => x
  | .atomAdd x _ _ _ => x
  | .atomMin x _ _ _ => x
  | .atomMax x _ _ _ => x
  | .atomAnd x _ _ _ => x
  | .atomOr x _ _ _ => x
  | .atomXor x _ _ _ => x
  | .atomXchg x _ _ _ => x
  | .atomCas x _ _ _ => x
  | .atomInc x _ _ _ => x
  | .atomDec x _ _ _ => x
  | .atomXchgT x _ _ _ => x
  | .redMAdd x _ _ => x
  | .redMMin x _ _ => x
  | .redMMax x _ _ => x
  | .redMAnd x _ _ => x
  | .redMOr x _ _ => x
  | .redMXor x _ _ => x
  | .mwait x _ _ => x
  | .fenceAcq x _ => x
  | .fenceRel x _ => x
  | .fenceSc x _ => x
  | .fenceEngine x => x
  | .fenceCode x => x
  | .icinv x _ => x
  | .dcflush x _ => x
  | .dcinv x _ => x
  | .pref x _ => x
  | .hprobe x _ _ _ => x
  | .snap x _ => x
  | .snrel x _ => x
  | .txb x _ => x
  | .txc x _ => x
  | .txa x => x
  | .mma x _ _ _ => x
  | .mzero x _ => x
  | .mld x _ _ => x
  | .mst x _ _ => x
  | .mdrain x _ _ _ => x
  | .mmap x _ _ => x
  | .mburst x _ => x
  | .tld x _ _ => x
  | .tmovTv x _ _ => x
  | .tmovVt x _ _ => x
  | .copy x _ _ => x
  | .copyMc x _ _ => x
  | .gather x _ _ => x
  | .coll x _ _ => x
  | .media x _ _ => x
  | .arrive x _ => x
  | .wait x _ _ => x
  | .arwait x _ _ => x
  | .expect x _ _ => x
  | .cltest x _ _ => x
  | .rclaim x _ => x
  | .rrel x _ => x
  | .regroup x _ _ => x
  | .sysc x _ _ => x
  | .trap x _ => x
  | .bkpt x _ => x
  | .mbxrd x _ _ => x
  | .laneres x _ _ => x
  | .tlbinv x _ _ => x
  | .eret x => x
  | .capr x _ _ => x
  | .joinRelease _ _ => []
  | .mwaitWake _ _ _ => []
  | .engineGrant _ => []
  | .matrixOpComplete _ => []
  | .jobStart _ => []
  | .copyDelivery _ _ => []
  | .jobComplete _ => []
  | .jobFault _ _ => []
  | .claspTimeout _ => []
  | .claimGrant _ => []
  | .claimdl _ => []
  | .regroupExecute _ _ => []
  | .issueOpportunity _ => []
  | .loadReturn _ _ => []
  | .homeApplyWrite _ _ => []
  | .writeAck _ => []
  | .pageWalkComplete _ _ _ => []
  | .versionReclaim _ _ _ => []
  | .heldWriteRelease _ => []
  | .preemptStop _ _ => []
  | .preemptDrainDone _ _ => []
  | .saveComplete _ => []
  | .queueWake _ => []
  | .unmappedWake _ => []
  | .packetLaunch _ => []
  | .packetPool _ => []
  | .packetBarrier _ => []
  | .packetNop _ => []
  | .badpkt _ => []
  | .barrierComplete _ => []
  | .dispatchStep _ => []
  | .teamRetire _ => []
  | .poolRecordTake _ => []
  | .binTimedFlush _ _ => []
  | .rampTick => []
  | .launchSaveWrite _ => []
  | .watchdogExpiry _ => []
  | .remoteGiveUp _ => []
  | .checkpointBlock => []
  | .checkpointEnd => []
  | .evidenceSigned => []
  | .powerCapApply => []
  | .fullConditionClear _ => []
  | .onCoreError _ _ _ => []
  | .lanectlComplete _ _ => []
  | .lanectlRetry _ _ => []
  | .lanectlKill _ _ => []
  | .lanectlSetpc _ _ => []
  | .jobctlResume _ _ => []
  | .jobctlFail _ _ => []
  | .savectlSave _ _ => []
  | .savectlRestore _ _ => []
  | .savectlDiscard _ _ => []
  | .sqpop _ => []
  | .invcmd _ _ => []
  | .artCommit _ _ _ => []
  | .artClear _ _ _ => []
  | .inbCommit _ _ => []
  | .inbClear _ _ => []
  | .registerWrite _ _ => []
  | .rowCommit _ _ => []
  | .rowUnmap _ _ => []
  | .holdClear _ => []
  | .holdSet _ => []
  | .preemptSet _ => []
  | .preemptClear _ => []
  | .evpop => []
  | .destroy _ => []
  | .destroyForce _ => []
  | .failbar _ => []
  | .deviceReset => []
  | .thermalStop _ => []
  | .hotReset => []
  | .linkDown => []
  | .linkUp => []
  | .functionLevelReset _ => []
  | .driverStatusChange _ _ => []
  | .virtioRequest _ _ => []
  | .hostev => []
  | .inboundAccess _ _ => []
  | .ckcmd _ => []
  | .areq _ => []
  | .mrExtend _ _ => []
  | .pcap _ => []
  | .contextEnd _ => []
  | .weaberLinkDown _ => []
  | .weaberLinkUp _ => []
  | .powerLoss => []
  | .dynamicAddress _ => []

/-- LD.C takes its snapshot in C, so CB must be 0 (R250). -/
def snapOk : Instr → Bool
  | .ld x _ _ _ => !(x.kind = 2 && x.uniC)
  | _ => true

/-- The word 0x0000_0000 has no meaning, so `?P0 BRA` to itself has no encoding (R68). -/
def notZeroWord : Instr → Bool
  | .bra _ n g o => !(n = 0 && g = 0 && o = 0)
  | _ => true

/-- An instruction that an encoding stands for: its shape's rules hold and its extension words are at most two of
different types. A step of the device is not encodable. -/
def encodable (i : Instr) : Bool :=
  match shape i with
  | none => false
  | some sh => extsOk (extsOf i) && sh.legal (extsOf i) && snapOk i && notZeroWord i

/-- A field put in its place in a word. -/
def place {n : Nat} (f : BitVec n) (lo : Nat) : BitVec 32 := f.setWidth 32 <<< lo

/-- The base word of an encoded instruction: its row's fixed bits and its fields in their places (R65, R86 to R91).
A step of the device has no word. -/
def baseWord : Instr → Option (BitVec 32)
  | .bra _ n g o => some (0x00000000 ||| place n 25 ||| place g 22 ||| place o 0)
  | .call _ n g o => some (0x04000000 ||| place n 25 ||| place g 22 ||| place o 0)
  | .loop _ d a i => some (0x08000000 ||| place d 19 ||| place a 12 ||| place i 0)
  | .loopi _ d a i => some (0x0C000000 ||| place d 19 ||| place a 12 ||| place i 0)
  | .bri _ a => some (0x10000000 ||| place a 12)
  | .calli _ a => some (0x10000001 ||| place a 12)
  | .ret _ => some 0x10000002
  | .exit _ => some 0x10000003
  | .cjoin _ a => some (0x10000004 ||| place a 12)
  | .yield _ => some 0x10000005
  | .nop _ => some 0x10000006
  | .cmark _ d => some (0x10000007 ||| place d 19)
  | .wbase _ i => some (0x14000000 ||| place i 0)
  | .sadd _ d a b => some (0x20000000 ||| place d 19 ||| place a 12 ||| place b 5)
  | .ssub _ d a b => some (0x20000001 ||| place d 19 ||| place a 12 ||| place b 5)
  | .smul _ d a b => some (0x20000002 ||| place d 19 ||| place a 12 ||| place b 5)
  | .smad _ d a b => some (0x20000003 ||| place d 19 ||| place a 12 ||| place b 5)
  | .sand _ d a b => some (0x20000004 ||| place d 19 ||| place a 12 ||| place b 5)
  | .sor _ d a b => some (0x20000005 ||| place d 19 ||| place a 12 ||| place b 5)
  | .sxor _ d a b => some (0x20000006 ||| place d 19 ||| place a 12 ||| place b 5)
  | .sshl _ d a b => some (0x20000007 ||| place d 19 ||| place a 12 ||| place b 5)
  | .sshr _ d a b => some (0x20000008 ||| place d 19 ||| place a 12 ||| place b 5)
  | .ssra _ d a b => some (0x20000009 ||| place d 19 ||| place a 12 ||| place b 5)
  | .smin _ d a b => some (0x2000000A ||| place d 19 ||| place a 12 ||| place b 5)
  | .smax _ d a b => some (0x2000000B ||| place d 19 ||| place a 12 ||| place b 5)
  | .scmp _ d a b => some (0x2000000C ||| place d 19 ||| place a 12 ||| place b 5)
  | .smov _ d a => some (0x2000000D ||| place d 19 ||| place a 12)
  | .smovi _ d i => some (0x24000000 ||| place d 19 ||| place i 0)
  | .sread _ d i => some (0x28000000 ||| place d 19 ||| place i 0)
  | .swrite _ a i => some (0x2C000000 ||| place a 12 ||| place i 0)
  | .iadd _ d a b => some (0x40000000 ||| place d 19 ||| place a 12 ||| place b 5)
  | .iaddc _ d a b => some (0x40000001 ||| place d 19 ||| place a 12 ||| place b 5)
  | .isub _ d a b => some (0x40000002 ||| place d 19 ||| place a 12 ||| place b 5)
  | .imul _ d a b => some (0x40000003 ||| place d 19 ||| place a 12 ||| place b 5)
  | .imulh _ d a b => some (0x40000004 ||| place d 19 ||| place a 12 ||| place b 5)
  | .imad _ d a b => some (0x40000005 ||| place d 19 ||| place a 12 ||| place b 5)
  | .imadw _ d a b => some (0x40000006 ||| place d 19 ||| place a 12 ||| place b 5)
  | .iand _ d a b => some (0x40000007 ||| place d 19 ||| place a 12 ||| place b 5)
  | .ior _ d a b => some (0x40000008 ||| place d 19 ||| place a 12 ||| place b 5)
  | .ixor _ d a b => some (0x40000009 ||| place d 19 ||| place a 12 ||| place b 5)
  | .inot _ d a => some (0x4000000A ||| place d 19 ||| place a 12)
  | .ishl _ d a b => some (0x4000000B ||| place d 19 ||| place a 12 ||| place b 5)
  | .ishr _ d a b => some (0x4000000C ||| place d 19 ||| place a 12 ||| place b 5)
  | .isra _ d a b => some (0x4000000D ||| place d 19 ||| place a 12 ||| place b 5)
  | .imin _ d a b => some (0x4000000E ||| place d 19 ||| place a 12 ||| place b 5)
  | .imax _ d a b => some (0x4000000F ||| place d 19 ||| place a 12 ||| place b 5)
  | .iabs _ d a => some (0x40000010 ||| place d 19 ||| place a 12)
  | .icmp _ d a b => some (0x40000011 ||| place d 19 ||| place a 12 ||| place b 5)
  | .isel _ d a b => some (0x40000012 ||| place d 19 ||| place a 12 ||| place b 5)
  | .popc _ d a => some (0x40000013 ||| place d 19 ||| place a 12)
  | .clz _ d a => some (0x40000014 ||| place d 19 ||| place a 12)
  | .brev _ d a => some (0x40000015 ||| place d 19 ||| place a 12)
  | .bfx _ d a b => some (0x40000016 ||| place d 19 ||| place a 12 ||| place b 5)
  | .bfi _ d a b => some (0x40000017 ||| place d 19 ||| place a 12 ||| place b 5)
  | .lea _ d a b => some (0x40000018 ||| place d 19 ||| place a 12 ||| place b 5)
  | .pand _ d a b => some (0x48000000 ||| place d 19 ||| place a 12 ||| place b 5)
  | .por _ d a b => some (0x48000001 ||| place d 19 ||| place a 12 ||| place b 5)
  | .pxor _ d a b => some (0x48000002 ||| place d 19 ||| place a 12 ||| place b 5)
  | .pnot _ d a => some (0x48000003 ||| place d 19 ||| place a 12)
  | .pmov _ d a => some (0x48000004 ||| place d 19 ||| place a 12)
  | .voteP _ d a => some (0x4C000000 ||| place d 19 ||| place a 12)
  | .voteS _ d a => some (0x4C000010 ||| place d 19 ||| place a 12)
  | .matchV _ d a => some (0x4C000001 ||| place d 19 ||| place a 12)
  | .matchS _ d a => some (0x4C000011 ||| place d 19 ||| place a 12)
  | .redIV _ d a => some (0x4C000002 ||| place d 19 ||| place a 12)
  | .redIS _ d a => some (0x4C000012 ||| place d 19 ||| place a 12)
  | .scanIV _ d a => some (0x4C000003 ||| place d 19 ||| place a 12)
  | .scanIS _ d a => some (0x4C000013 ||| place d 19 ||| place a 12)
  | .fadd _ d a b => some (0x70000000 ||| place d 19 ||| place a 12 ||| place b 5)
  | .fsub _ d a b => some (0x70000001 ||| place d 19 ||| place a 12 ||| place b 5)
  | .fmul _ d a b => some (0x70000002 ||| place d 19 ||| place a 12 ||| place b 5)
  | .ffma _ d a b => some (0x70000003 ||| place d 19 ||| place a 12 ||| place b 5)
  | .fmin _ d a b => some (0x70000004 ||| place d 19 ||| place a 12 ||| place b 5)
  | .fmax _ d a b => some (0x70000005 ||| place d 19 ||| place a 12 ||| place b 5)
  | .fcmp _ d a b => some (0x70000006 ||| place d 19 ||| place a 12 ||| place b 5)
  | .fclass _ d a => some (0x70000007 ||| place d 19 ||| place a 12)
  | .frnd _ d a => some (0x70000008 ||| place d 19 ||| place a 12)
  | .faddX _ d a b => some (0x70000009 ||| place d 19 ||| place a 12 ||| place b 5)
  | .fsubX _ d a b => some (0x7000000A ||| place d 19 ||| place a 12 ||| place b 5)
  | .fmulX _ d a b => some (0x7000000B ||| place d 19 ||| place a 12 ||| place b 5)
  | .dwadd _ d a b => some (0x7000000C ||| place d 19 ||| place a 12 ||| place b 5)
  | .dwsub _ d a b => some (0x7000000D ||| place d 19 ||| place a 12 ||| place b 5)
  | .dwmul _ d a b => some (0x7000000E ||| place d 19 ||| place a 12 ||| place b 5)
  | .dwnorm _ d a => some (0x7000000F ||| place d 19 ||| place a 12)
  | .faddF64 _ d a b => some (0x74000000 ||| place d 19 ||| place a 12 ||| place b 5)
  | .fsubF64 _ d a b => some (0x74000001 ||| place d 19 ||| place a 12 ||| place b 5)
  | .fmulF64 _ d a b => some (0x74000002 ||| place d 19 ||| place a 12 ||| place b 5)
  | .ffmaF64 _ d a b => some (0x74000003 ||| place d 19 ||| place a 12 ||| place b 5)
  | .fminF64 _ d a b => some (0x74000004 ||| place d 19 ||| place a 12 ||| place b 5)
  | .fmaxF64 _ d a b => some (0x74000005 ||| place d 19 ||| place a 12 ||| place b 5)
  | .fcmpF64 _ d a b => some (0x74000006 ||| place d 19 ||| place a 12 ||| place b 5)
  | .fclassF64 _ d a => some (0x74000007 ||| place d 19 ||| place a 12)
  | .frndF64 _ d a => some (0x74000008 ||| place d 19 ||| place a 12)
  | .faddXF64 _ d a b => some (0x74000009 ||| place d 19 ||| place a 12 ||| place b 5)
  | .fsubXF64 _ d a b => some (0x7400000A ||| place d 19 ||| place a 12 ||| place b 5)
  | .fmulXF64 _ d a b => some (0x7400000B ||| place d 19 ||| place a 12 ||| place b 5)
  | .dwaddF64 _ d a b => some (0x7400000C ||| place d 19 ||| place a 12 ||| place b 5)
  | .dwsubF64 _ d a b => some (0x7400000D ||| place d 19 ||| place a 12 ||| place b 5)
  | .dwmulF64 _ d a b => some (0x7400000E ||| place d 19 ||| place a 12 ||| place b 5)
  | .dwnormF64 _ d a => some (0x7400000F ||| place d 19 ||| place a 12)
  | .fdiv _ d a b => some (0x78000000 ||| place d 19 ||| place a 12 ||| place b 5)
  | .fsqrt _ d a => some (0x78000001 ||| place d 19 ||| place a 12)
  | .frcp _ d a => some (0x78000002 ||| place d 19 ||| place a 12)
  | .frsq _ d a => some (0x78000003 ||| place d 19 ||| place a 12)
  | .fex2 _ d a => some (0x78000004 ||| place d 19 ||| place a 12)
  | .flg2 _ d a => some (0x78000005 ||| place d 19 ||| place a 12)
  | .fsin _ d a => some (0x78000006 ||| place d 19 ||| place a 12)
  | .fcos _ d a => some (0x78000007 ||| place d 19 ||| place a 12)
  | .fdivF64 _ d a b => some (0x7C000000 ||| place d 19 ||| place a 12 ||| place b 5)
  | .fsqrtF64 _ d a => some (0x7C000001 ||| place d 19 ||| place a 12)
  | .frcpF64 _ d a => some (0x7C000002 ||| place d 19 ||| place a 12)
  | .frsqF64 _ d a => some (0x7C000003 ||| place d 19 ||| place a 12)
  | .cvt _ d a s t => some (0x80000000 ||| place d 19 ||| place a 12 ||| place s 5 ||| place t 0)
  | .redFV _ d a => some (0x84000000 ||| place d 19 ||| place a 12)
  | .redFS _ d a => some (0x84000010 ||| place d 19 ||| place a 12)
  | .redFcV _ d a => some (0x84000001 ||| place d 19 ||| place a 12)
  | .redFcS _ d a => some (0x84000011 ||| place d 19 ||| place a 12)
  | .scanF _ d a => some (0x84000002 ||| place d 19 ||| place a 12)
  | .redFF64V _ d a => some (0x84000008 ||| place d 19 ||| place a 12)
  | .redFF64S _ d a => some (0x84000018 ||| place d 19 ||| place a 12)
  | .redFcF64 _ d a => some (0x84000009 ||| place d 19 ||| place a 12)
  | .scanFF64 _ d a => some (0x8400000A ||| place d 19 ||| place a 12)
  | .flgr _ d => some (0x88000000 ||| place d 19)
  | .flgc _ m => some (0x88000001 ||| place m 5)
  | .qset _ d a => some (0x88000002 ||| place d 19 ||| place a 12)
  | .nset _ d a => some (0x88000003 ||| place d 19 ||| place a 12)
  | .ld _ d a i => some (0xB0000000 ||| place d 19 ||| place a 12 ||| place i 0)
  | .st _ d a i => some (0xB4000000 ||| place d 19 ||| place a 12 ||| place i 0)
  | .atomAdd _ d a b => some (0xB8000000 ||| place d 19 ||| place a 12 ||| place b 5)
  | .atomMin _ d a b => some (0xB8000001 ||| place d 19 ||| place a 12 ||| place b 5)
  | .atomMax _ d a b => some (0xB8000002 ||| place d 19 ||| place a 12 ||| place b 5)
  | .atomAnd _ d a b => some (0xB8000003 ||| place d 19 ||| place a 12 ||| place b 5)
  | .atomOr _ d a b => some (0xB8000004 ||| place d 19 ||| place a 12 ||| place b 5)
  | .atomXor _ d a b => some (0xB8000005 ||| place d 19 ||| place a 12 ||| place b 5)
  | .atomXchg _ d a b => some (0xB8000006 ||| place d 19 ||| place a 12 ||| place b 5)
  | .atomCas _ d a b => some (0xB8000007 ||| place d 19 ||| place a 12 ||| place b 5)
  | .atomInc _ d a b => some (0xB8000008 ||| place d 19 ||| place a 12 ||| place b 5)
  | .atomDec _ d a b => some (0xB8000009 ||| place d 19 ||| place a 12 ||| place b 5)
  | .atomXchgT _ d a b => some (0xB800000A ||| place d 19 ||| place a 12 ||| place b 5)
  | .redMAdd _ a b => some (0xBC000000 ||| place a 12 ||| place b 5)
  | .redMMin _ a b => some (0xBC000001 ||| place a 12 ||| place b 5)
  | .redMMax _ a b => some (0xBC000002 ||| place a 12 ||| place b 5)
  | .redMAnd _ a b => some (0xBC000003 ||| place a 12 ||| place b 5)
  | .redMOr _ a b => some (0xBC000004 ||| place a 12 ||| place b 5)
  | .redMXor _ a b => some (0xBC000005 ||| place a 12 ||| place b 5)
  | .mwait _ a b => some (0xC0000000 ||| place a 12 ||| place b 5)
  | .fenceAcq _ s => some (0xC0000001 ||| place s 5)
  | .fenceRel _ s => some (0xC0000101 ||| place s 5)
  | .fenceSc _ s => some (0xC0000201 ||| place s 5)
  | .fenceEngine _ => some 0xC0000401
  | .fenceCode _ => some 0xC0000801
  | .icinv _ a => some (0xC0000002 ||| place a 12)
  | .dcflush _ a => some (0xC0000003 ||| place a 12)
  | .dcinv _ a => some (0xC0000004 ||| place a 12)
  | .pref _ a => some (0xC0000005 ||| place a 12)
  | .hprobe _ d a b => some (0xC0000006 ||| place d 19 ||| place a 12 ||| place b 5)
  | .snap _ d => some (0xC4000000 ||| place d 19)
  | .snrel _ a => some (0xC4000001 ||| place a 12)
  | .txb _ d => some (0xC4000002 ||| place d 19)
  | .txc _ d => some (0xC4000003 ||| place d 19)
  | .txa _ => some 0xC4000004
  | .mma _ d a b => some (0xD8000000 ||| place d 19 ||| place a 12 ||| place b 5)
  | .mzero _ d => some (0xD8000001 ||| place d 19)
  | .mld _ d a => some (0xD8000002 ||| place d 19 ||| place a 12)
  | .mst _ d a => some (0xD8000003 ||| place d 19 ||| place a 12)
  | .mdrain _ d a b => some (0xD8000004 ||| place d 19 ||| place a 12 ||| place b 5)
  | .mmap _ d a => some (0xD8000005 ||| place d 19 ||| place a 12)
  | .mburst _ a => some (0xD8000006 ||| place a 12)
  | .tld _ d a => some (0xD8000007 ||| place d 19 ||| place a 12)
  | .tmovTv _ d a => some (0xD8000008 ||| place d 19 ||| place a 12)
  | .tmovVt _ d a => some (0xD8000009 ||| place d 19 ||| place a 12)
  | .copy _ a b => some (0xDC000000 ||| place a 12 ||| place b 5)
  | .copyMc _ a b => some (0xDC000001 ||| place a 12 ||| place b 5)
  | .gather _ a b => some (0xDC000002 ||| place a 12 ||| place b 5)
  | .coll _ a b => some (0xDC000003 ||| place a 12 ||| place b 5)
  | .media _ a b => some (0xDC000004 ||| place a 12 ||| place b 5)
  | .arrive _ a => some (0xE0000000 ||| place a 12)
  | .wait _ d a => some (0xE0000001 ||| place d 19 ||| place a 12)
  | .arwait _ d a => some (0xE0000002 ||| place d 19 ||| place a 12)
  | .expect _ a b => some (0xE0000003 ||| place a 12 ||| place b 5)
  | .cltest _ d a => some (0xE0000004 ||| place d 19 ||| place a 12)
  | .rclaim _ n => some (0xE4000000 ||| place n 5)
  | .rrel _ n => some (0xE4000001 ||| place n 5)
  | .regroup _ a b => some (0xE4000002 ||| place a 12 ||| place b 5)
  | .sysc _ a b => some (0xF0000000 ||| place a 12 ||| place b 5)
  | .trap _ n => some (0xF0000001 ||| place n 5)
  | .bkpt _ n => some (0xF0000002 ||| place n 5)
  | .mbxrd _ d a => some (0xF0000003 ||| place d 19 ||| place a 12)
  | .laneres _ a b => some (0xF0000004 ||| place a 12 ||| place b 5)
  | .tlbinv _ a b => some (0xF0000005 ||| place a 12 ||| place b 5)
  | .eret _ => some 0xF0000006
  | .capr _ d i => some (0xF4000000 ||| place d 19 ||| place i 0)
  | .joinRelease _ _ => none
  | .mwaitWake _ _ _ => none
  | .engineGrant _ => none
  | .matrixOpComplete _ => none
  | .jobStart _ => none
  | .copyDelivery _ _ => none
  | .jobComplete _ => none
  | .jobFault _ _ => none
  | .claspTimeout _ => none
  | .claimGrant _ => none
  | .claimdl _ => none
  | .regroupExecute _ _ => none
  | .issueOpportunity _ => none
  | .loadReturn _ _ => none
  | .homeApplyWrite _ _ => none
  | .writeAck _ => none
  | .pageWalkComplete _ _ _ => none
  | .versionReclaim _ _ _ => none
  | .heldWriteRelease _ => none
  | .preemptStop _ _ => none
  | .preemptDrainDone _ _ => none
  | .saveComplete _ => none
  | .queueWake _ => none
  | .unmappedWake _ => none
  | .packetLaunch _ => none
  | .packetPool _ => none
  | .packetBarrier _ => none
  | .packetNop _ => none
  | .badpkt _ => none
  | .barrierComplete _ => none
  | .dispatchStep _ => none
  | .teamRetire _ => none
  | .poolRecordTake _ => none
  | .binTimedFlush _ _ => none
  | .rampTick => none
  | .launchSaveWrite _ => none
  | .watchdogExpiry _ => none
  | .remoteGiveUp _ => none
  | .checkpointBlock => none
  | .checkpointEnd => none
  | .evidenceSigned => none
  | .powerCapApply => none
  | .fullConditionClear _ => none
  | .onCoreError _ _ _ => none
  | .lanectlComplete _ _ => none
  | .lanectlRetry _ _ => none
  | .lanectlKill _ _ => none
  | .lanectlSetpc _ _ => none
  | .jobctlResume _ _ => none
  | .jobctlFail _ _ => none
  | .savectlSave _ _ => none
  | .savectlRestore _ _ => none
  | .savectlDiscard _ _ => none
  | .sqpop _ => none
  | .invcmd _ _ => none
  | .artCommit _ _ _ => none
  | .artClear _ _ _ => none
  | .inbCommit _ _ => none
  | .inbClear _ _ => none
  | .registerWrite _ _ => none
  | .rowCommit _ _ => none
  | .rowUnmap _ _ => none
  | .holdClear _ => none
  | .holdSet _ => none
  | .preemptSet _ => none
  | .preemptClear _ => none
  | .evpop => none
  | .destroy _ => none
  | .destroyForce _ => none
  | .failbar _ => none
  | .deviceReset => none
  | .thermalStop _ => none
  | .hotReset => none
  | .linkDown => none
  | .linkUp => none
  | .functionLevelReset _ => none
  | .driverStatusChange _ _ => none
  | .virtioRequest _ _ => none
  | .hostev => none
  | .inboundAccess _ _ => none
  | .ckcmd _ => none
  | .areq _ => none
  | .mrExtend _ _ => none
  | .pcap _ => none
  | .contextEnd _ => none
  | .weaberLinkDown _ => none
  | .weaberLinkUp _ => none
  | .powerLoss => none
  | .dynamicAddress _ => none

/-- An extension word's 32 bits (R69). -/
def encodeExt : ExtWord → BitVec 32
  | .operand c g s f => 0xF8000000 ||| place c 17 ||| place g 13 ||| place s 10 ||| place f 0
  | .facet a b c => 0xF9000000 ||| place a 17 ||| place b 10 ||| place c 3
  | .imm h => 0xFA000000 ||| place h 4
  | .control st y sb wm => 0xFB000000 ||| place st 20 ||| place y 19 ||| place sb 16 ||| place wm 10

/-- The words of an instruction, extension words first (R64); none for a step of the device. -/
def encode (i : Instr) : List (BitVec 32) :=
  match baseWord i with
  | none => []
  | some w => (extsOf i).map encodeExt ++ [w]

/-- Decode a base word after its extension words, and refuse what the legality rules refuse. -/
def decodeWith (x : Exts) (w : BitVec 32) : Except Reject Instr :=
  match decodeBase x w with
  | none => .error .unassigned
  | some i => if encodable i then .ok i else .error .operand

/-- Decode one instruction from the words at its address, and the words after it (R64, R70). -/
def decode : List (BitVec 32) → Except Reject (Instr × List (BitVec 32))
  | [] => .error .truncated
  | w0 :: r0 =>
    if isExt w0 then
      match r0 with
      | [] => .error .truncated
      | w1 :: r1 =>
        if isExt w1 then
          match r1 with
          | [] => .error .truncated
          | w2 :: r2 =>
            if isExt w2 then .error .threeExtensions
            else
              match decodeExt w0, decodeExt w1 with
              | some e0, some e1 =>
                if e0.type = e1.type then .error .sameType
                else (decodeWith [e0, e1] w2).map (fun i => (i, r2))
              | _, _ => .error .reservedField
        else
          match decodeExt w0 with
          | some e0 => (decodeWith [e0] w1).map (fun i => (i, r1))
          | none => .error .reservedField
    else (decodeWith [] w0).map (fun i => (i, r0))

/-- The three words that the bits `w` give, the first in bits 31 to 0. -/
def tableWords (w : Nat) : List (BitVec 32) :=
  [BitVec.ofNat 32 w, BitVec.ofNat 32 (w / 2 ^ 32), BitVec.ofNat 32 (w / 2 ^ 64)]

/-- The instruction that the decoder reads from bits numbered as the opcode table numbers them. -/
def decodeTableWord (_nbits w : Nat) : Option Instr :=
  match decode (tableWords w) with
  | .ok (i, _) => some i
  | .error _ => none

end Sys2Proof
end

