-- ==== Sys2Proof/Machine/State.lean ====
section
/-! DEFINITION. State: everything the spec gives the machine, as plain data, the reasons a step can stop, and the state
right after a device reset. A field's docstring names the rule that gives it; fields marked MODEL are the model's own. -/

namespace Sys2Proof.Machine

/-! ## Lanes and groups -/

/-- Where bytes live: local physical memory, the scratchpad of a team, or the memory of a domain device (R204, R205). -/
inductive Space where
  | mem
  | scratch (team : Nat)
  | peer (dev : Nat)
  deriving DecidableEq, Repr

/-- The kinds of memory wait of R43: a watch (R254), a ninth transaction (R244), a TLB invalidation (R323), with its
address and selector and, once the entries are dropped, the id below which every access must be performed. -/
inductive WaitFor where
  | watch
  | txn
  | tlbinv (va sel : DWord) (upto : Option Nat)
  deriving DecidableEq, Repr

/-- The park causes of R43, with what resolves them. -/
inductive ParkCause where
  /-- The scratchpad lines that must become present: team and line (R210). -/
  | presence (lines : List (Nat × Nat))
  | fault
  | syscall
  /-- The register that CJOIN names and the mask read from it (R52). -/
  | join (sreg : Nat) (mask : Word)
  | memWait (w : WaitFor)
  /-- The clasp field and the predicate destination (R292). -/
  | clasp (k : BitVec 7) (d : BitVec 7)
  /-- `own`: the lane issued the RCLAIM (R55). -/
  | claim (own : Bool)
  /-- The key and the register of the live mask (R57). -/
  | regroup (key : BitVec 16) (sreg : Nat)
  deriving DecidableEq, Repr

/-- The lane states of R43. -/
inductive LaneState where
  | none
  | run
  | park (c : ParkCause)
  | exit
  deriving DecidableEq, Repr

/-- A service record (R305); the fields the lane's place gives (core, slot, lane) are filled in when it is written. -/
structure SvcRecord where
  code : Byte
  kind : Byte := 0
  sub : Byte := 0
  areg : BitVec 16 := 0
  teamLin : Word := 0
  mates : Word := 0
  ctxid : Word := 0
  seq : Word := 0
  pcoff : Word := 0
  arg : Word := 0
  addr : DWord := 0
  auxa : DWord := 0
  auxb : DWord := 0
  /-- FWD of R327: the record stands in the signet queue although its code goes to the mailbox. -/
  fwd : Bool := false
  deriving DecidableEq, Repr

/-- One lane position of a group (R43, R104). -/
structure Lane where
  st : LaneState := .none
  pc : DWord := 0
  /-- P0 to P6 (R108). -/
  preds : BitVec 7 := 0
  /-- FI, FZ, FO, FF, FX in bits 0 to 4 (R109). -/
  flags : BitVec 5 := 0
  /-- Yield and wait counts (R49, R50). -/
  yield : Nat := 0
  wait : Nat := 0
  /-- The return stack, top first; the call depth is its length (R158). -/
  rets : List Word := []
  /-- Service sequence number (R315). -/
  seq : Word := 0
  /-- Wait bits by clasp: 0-3 group, 4-19 team, 20-35 gang, 36-43 grid (R290, R327). -/
  wbits : BitVec 44 := 0
  /-- MODEL: the address after the instruction at which a parked lane stands, its completion point (R311). -/
  after : DWord := 0
  /-- MODEL: the lanes that the same issue parked, from which MATES of a later record is made (R305). -/
  issue : Word := 0
  /-- The lane's service record, while it holds one (R303). -/
  svc : Option SvcRecord := Option.none
  deriving DecidableEq, Repr

/-- A loop counter: remaining count and the body's bounds (R116). -/
structure LoopCounter where
  count : Word := 0
  start : DWord := 0
  stop : DWord := 0
  deriving DecidableEq, Repr

/-- A clasp (R289) and its timer in µs (R295). -/
structure Clasp where
  exp : Word := 1
  arr : Word := 0
  pend : Int := 0
  phase : Bool := false
  failed : Bool := false
  fcode : Nat := 0
  timer : Nat := 0
  /-- Declared by the launch's clasp table (R100, R280). -/
  declared : Bool := false
  deriving DecidableEq, Repr

/-- An open transaction (R244): its snapshot (0 without one), whether it is doomed, and its buffered bytes by physical
address, the M lines. -/
structure Txn where
  snap : DWord
  doomed : Bool := false
  bytes : List (Nat × Byte) := []
  deriving DecidableEq, Repr

/-- The identity setting of a route register: entry j is j (R114). -/
def identityRoute : BitVec 160 :=
  (List.range 32).foldl (fun r j => r ||| ((BitVec.ofNat 160 j) <<< (5 * j))) 0

/-- A group in a slot (R35, R104, R112 to R118). -/
structure Group where
  core : Nat
  slot : Nat
  /-- The resident team; none for the keeper group (R302). -/
  team : Option Nat := none
  groupId : Nat := 0
  roleId : Nat := 0
  roleGrp : Nat := 0
  lanes : List Lane := List.replicate 32 {}
  /-- Allocation in granules of 4 registers (R54). -/
  alloc : Nat := 0
  /-- Window base (R105). -/
  wbase : Nat := 0
  /-- Vector registers: key 32 × absolute register + lane. -/
  v : SMap 32 := []
  /-- S0 to S62; S63 reads zero (R107). -/
  s : SMap 64 := []
  /-- Declared tiles and accumulators (R112). -/
  ntiles : Nat := 0
  naccs : Nat := 0
  /-- Tiles: key 2048 × tile + byte. -/
  t : SMap 8 := []
  /-- Accumulators: key 4096 × accumulator + 128 × row + column. -/
  m : SMap 32 := []
  /-- Operand maps G0 to G7 (R113). -/
  g : SMap 64 := []
  /-- Q0 to Q3 (R114). -/
  q : List (BitVec 160) := List.replicate 4 identityRoute
  /-- N0 to N3 (R115). -/
  n : List (BitVec 144) := List.replicate 4 0
  lc : List LoopCounter := [{}, {}, {}]
  fpctl : DWord := 0
  /-- Burst register: FILL and RAMP (R277). -/
  burst : DWord := 0
  clasps : List Clasp := [{}, {}, {}, {}]
  txn : Option Txn := none
  /-- The greatest scope of the FENCE.REL and FENCE.SC that the group has made: its later writes are releases at it (R231). -/
  relScope : Nat := 0
  /-- MODEL: the device time since which an access that is performed as its instruction issues asks its slice (R218). -/
  asked : Option Nat := none
  /-- MODEL: writes of other groups that this group has read before their homes applied them (R231). -/
  saw : List Nat := []
  /-- MODEL: lanes that have ended in the opportunity under way, whose registers its other path still reads (R161). -/
  ended : Word := 0
  deriving DecidableEq, Repr

/-! ## Teams, launches and contexts -/

/-- The fields of a context descriptor (R318). -/
structure CtxDesc where
  addr : Nat := 0
  ptroot : Nat := 0
  stepAll : Bool := false
  ctxid : Word := 0
  shapeBase : Nat := 0
  claspTmo : Nat := 0
  shapeCnt : Nat := 0
  pc0 : DWord := 0
  pc1 : DWord := 0
  /-- FT10 to FT15 (R128). -/
  ft : List Word := []
  vsBase : Nat := 0
  vsSize : Nat := 0
  retBase : Nat := 0
  deriving DecidableEq, Repr

/-- A scratchpad line whose presence bit is clear, the job that holds its clearing copy-queue entry (R209), and whether a
failed copy left it absent (R211). -/
structure AbsentLine where
  line : Nat
  entry : Nat
  left : Bool := false
  deriving DecidableEq, Repr

/-- A resident team (R35, R40). -/
structure Team where
  id : Nat
  launch : Nat
  core : Nat
  /-- Linear team index (R37), or the formation index of a pool group (R58). -/
  lin : Nat
  /-- TEAMX, TEAMY, TEAMZ. -/
  x : Nat := 0
  y : Nat := 0
  z : Nat := 0
  gang : Nat := 0
  rank : Nat := 0
  gs : Nat := 1
  ctx : CtxDesc := {}
  /-- Free pool in granules, and the pending claims, oldest first: slot, count (R55). -/
  pool : Nat := 0
  claims : List (Nat × Nat) := []
  /-- Scratchpad granules, bytes that are not zero, absent lines (R207, R209). -/
  granules : Nat := 0
  scratch : SMap 8 := []
  absent : List AbsentLine := []
  copyq : Nat := 0
  clasps : List Clasp := List.replicate 16 {}
  /-- Register granules reserved at start (R40), and the group count with tiles and accumulators per group. -/
  reserved : Nat := 0
  tiles : Nat := 0
  accs : Nat := 0
  ngroups : Nat := 0
  callmax : Nat := 0
  /-- The producer role (R36). -/
  producer : Nat := 0
  textBase : DWord := 0
  textSize : Nat := 0
  kargs : DWord := 0
  kdata : DWord := 0
  fuse : Bool := false
  deriving DecidableEq, Repr

/-- The gang clasps of one gang, kept until its last team retires (R60). -/
structure Gang where
  launch : Nat
  idx : Nat
  clasps : List Clasp := List.replicate 16 {}
  deriving DecidableEq, Repr

/-- A role of a kernel (R36, R100). -/
structure Role where
  lanes : Nat
  budget : Nat
  producer : Bool
  deriving DecidableEq, Repr

/-- A continuation record: CODEOFF, ARG0, ARG1, ARG2 (R58). -/
structure PoolRecord where
  codeoff : Word
  arg0 : Word
  arg1 : Word
  arg2 : Word
  deriving DecidableEq, Repr

/-- A bin of a POOL launch: its records in arrival order and the time of the first (R59). -/
structure Bin where
  codeoff : Word
  recs : List PoolRecord
  since : Nat
  deriving DecidableEq, Repr

/-- What a POOL launch adds (R58, R59, R351). -/
structure Pool where
  pctl : DWord
  recbase : DWord
  reclog : Nat
  bins : List Bin := []
  /-- Groups formed and waiting for dispatch, in formation order. -/
  formed : List (List PoolRecord) := []
  taken : Nat := 0
  dropped : Nat := 0
  ended : Bool := false
  deriving DecidableEq, Repr

/-- A launch in flight (R336, R337, R350, R355). -/
structure Launch where
  id : Nat
  desc : Nat
  packet : Nat
  ctx : CtxDesc
  roles : List Role
  x : Nat
  y : Nat
  z : Nat
  gs : Nat
  coop : Bool := false
  fuse : Bool := false
  medmask : Byte := 0
  poolres : Nat := 0
  tiles : Nat := 0
  accs : Nat := 0
  scratch : Nat := 0
  copyq : Nat := 0
  callmax : Nat := 0
  /-- The clasp table: level, index, expected arrivals (R100). -/
  claspTable : List (Nat × Nat × Word) := []
  textBase : DWord := 0
  textSize : Nat := 0
  entry : DWord := 0
  kargs : DWord := 0
  kdata : DWord := 0
  /-- Native mode, or interlocked (R76, R102). -/
  native : Bool := true
  /-- Liveness entries of the kernel: PCOFF, VMASK (R101). -/
  live : List (Nat × BitVec 128) := []
  textEnd : Nat := 0
  deadline : Nat := 0
  next : Nat := 0
  started : Nat := 0
  retired : Nat := 0
  /-- Teams discarded without save (R63). -/
  discarded : Nat := 0
  grid : List Clasp := List.replicate 8 {}
  pool : Option Pool := none
  /-- The STATUS its completion will carry when it is not DONE (R354); its unstarted units then never start. -/
  fate : Nat := 0
  body : List Byte := []
  deriving DecidableEq, Repr

/-- A version in a context's version store (R240): line, its stamp, the stamp of its successor, 128 bytes. -/
structure Version where
  line : Nat
  stamp : DWord
  succ : DWord
  data : List Byte
  deriving DecidableEq, Repr

/-- A registered code object: its address, and where the loader mapped its data region (R103, R348). One that the loader
has rejected never stands here. -/
structure CodeObject where
  addr : DWord
  data : DWord
  deriving DecidableEq, Repr

/-- What the device keeps for a context beside its descriptor (R239 to R243, R348). -/
structure Context where
  id : Word
  vsSize : Nat := 0
  full : Bool := false
  versions : List Version := []
  objects : List CodeObject := []
  deriving DecidableEq, Repr

/-- A live snapshot of the registry (R239); `ckpt`: taken by the checkpoint engine. -/
structure Snapshot where
  num : DWord
  ctx : Word
  ckpt : Bool := false
  deriving DecidableEq, Repr

/-! ## Memory operations under way -/

/-- One lane's part in an ATOM or RED.M: address, operands b and d (R252). -/
structure AtomLane where
  lane : Nat
  addr : Nat
  b : Word
  d : Word := 0
  deriving DecidableEq, Repr

/-- What a write does at its home. -/
inductive WriteKind where
  /-- Bytes by address, in ascending lane order (R233). -/
  | store (bytes : List (Nat × Byte))
  | reduce (op : AtomOp) (lanes : List AtomLane)
  /-- The old values go to the pending load of this id. -/
  | atom (op : AtomOp) (lanes : List AtomLane) (load : Nat)
  deriving DecidableEq, Repr

/-- Where a request for local memory stands (R218): not sent, on its bangle, or in the queue of its home slice. -/
inductive Stage where
  | source
  | bangle
  | slice
  deriving DecidableEq, Repr

/-- The way of a request: where it stands, the device time since which it waits there, and its place among the requests
that have been injected (R218). -/
structure Way where
  stage : Stage := .source
  since : Nat := 0
  seq : Nat := 0
  deriving DecidableEq, Repr

/-- What a write is as a release (R231): its scope, 0 where it orders nothing; the id from which on the writes of its own
instruction stand, which are not before it; and the ids of what must be performed first. -/
structure Release where
  scope : Nat := 0
  first : Nat := 0
  deps : List Nat := []
  deriving DecidableEq, Repr

/-- A write request, the bytes of one instruction to one line (R234), on its way to its home. -/
structure Write where
  id : Nat
  core : Nat
  slot : Nat
  /-- The team; none for the keeper. -/
  team : Option Nat
  ctx : Word
  space : Space
  /-- Line number: address ÷ 128. -/
  line : Nat
  kind : WriteKind
  /-- The line is cameo memory of this context (R237). -/
  cameo : Bool := false
  /-- Its release order (R231). -/
  rel : Release := {}
  /-- In the core order (R228). -/
  entered : Bool := false
  /-- The slack tag and the way of the request (R218), and the device time at which it was posted (R374). -/
  tag : Nat := 8
  way : Way := {}
  born : Nat := 0
  /-- Held for want of version space (R243). -/
  held : Bool := false
  /-- The reservation entry of the MST or MDRAIN that writes; no write of it is made before the grant (R265, R266). -/
  mat : Option Nat := none
  deriving DecidableEq, Repr

/-- A write that its home has applied before writes to scratchpads that stand before it in its core's order: to the other
groups of the core it shows only once those are applied (R223, R228). -/
structure EarlyWrite where
  core : Nat
  slot : Nat
  space : Space
  line : Nat
  before : List Nat
  deriving DecidableEq, Repr

/-- An acknowledgement on its way back, with the number of its write (R234). -/
structure Ack where
  id : Nat
  core : Nat
  slot : Nat
  team : Option Nat
  space : Space := .mem
  line : Nat := 0
  number : Word
  /-- The device time at which its write was posted (R374). -/
  born : Nat := 0
  /-- The load that an ATOM's answer goes to. -/
  load : Option Nat := none
  deriving DecidableEq, Repr

/-- One lane of a pending load: its address, where it reads, and the bytes once they have been read (R250). A lane has two
readings, in either order (R228, R229): of the writes in its core's order, and of the home. -/
structure LoadLane where
  lane : Nat
  va : DWord := 0
  space : Space
  addr : Nat
  /-- The bytes that the core order has given, and the home's bytes; empty while that reading has not been made. -/
  own : List (Option Byte) := []
  home : List Byte := []
  data : List Byte := []
  /-- The way of the request for its line, which the lanes of one line share (R218). -/
  way : Way := {}
  deriving DecidableEq, Repr

/-- A load whose data has not yet returned (R82, R226). -/
structure PendingLoad where
  id : Nat
  core : Nat
  slot : Nat
  /-- The instruction's address and the one after it, for a MEMERR (R303). -/
  pc : DWord := 0
  after : DWord := 0
  /-- An ATOM, whose data its home gives when it applies it (R252). -/
  atom : Bool := false
  /-- Bytes per lane, and the WIDTH code that widens them. -/
  bytes : Nat
  width : Nat
  /-- First destination, an absolute register. -/
  dest : Nat
  lanes : List LoadLane
  acq : Bool := false
  /-- Performed towards the groups of its own core (R228), and its home has been read. -/
  ordered : Bool := false
  homed : Bool := false
  /-- Both: performed for every agent. -/
  sampled : Bool := false
  /-- The slack tag (R218), and the device time at which the load issued (R374). -/
  tag : Nat := 8
  born : Nat := 0
  deriving DecidableEq, Repr

/-- A watch of MWAIT (R254): the word, the comparison and the lane; oldest first in the table. -/
structure Watch where
  core : Nat
  slot : Nat
  lane : Nat
  va : DWord := 0
  space : Space
  addr : Nat
  b : Word
  ne : Bool
  /-- MWAIT.ACQ (R254). -/
  acq : Bool := false
  /-- A write has made the condition false, or the full table ends the watch (R254). -/
  fired : Bool := false
  /-- MODEL: when it was registered, by the counter of ids; the queues' watches count with it (R334). -/
  age : Nat := 0
  /-- The device time at which the MWAIT issued, until a peer's home has answered it (R374). -/
  born : Nat := 0
  deriving DecidableEq, Repr

/-- A watch that an agent of a domain device has registered here, at the home of the word (R254, R373). -/
structure PeerWatch where
  src : Nat
  addr : Nat
  b : Word
  ne : Bool
  fired : Bool := false
  age : Nat := 0
  deriving DecidableEq, Repr

/-- An update-only partial (R224): the L1 that holds it, the word, the operation and the value collected so far. -/
structure UPartial where
  l1 : Nat
  addr : Nat
  op : AtomOp
  val : Word
  deriving DecidableEq, Repr

/-- An S or E copy of a line in an L1 (R222). -/
structure L1Copy where
  l1 : Nat
  line : Nat
  excl : Bool
  deriving DecidableEq, Repr

/-- A cached translation (R10, R321): the cluster of a shared TLB or the core of a micro-TLB, context, page number and
size, and the entry it was built from; `signet`: it is of the tables of the cluster's signet core, with context 0 (R9). -/
structure TlbEntry where
  signet : Bool := false
  unit : Nat
  ctx : Word
  page : Nat
  log : Nat
  pte : DWord
  deriving DecidableEq, Repr

/-- A line of text as a core's fetch and loop buffers hold it (R93, R166); `ahead`: only the instructions that the group
of a slot has fetched ahead are left of it (R258). -/
structure TextCopy where
  ahead : Option Nat := none
  space : Space
  line : Nat
  bytes : List Byte
  deriving DecidableEq, Repr

/-! ## Engines -/

/-- A reservation entry of a matrix engine (R265). -/
structure MatEntry where
  id : Nat
  core : Nat
  slot : Nat
  granted : Bool := false
  deriving DecidableEq, Repr

/-- A matrix engine: the core last granted and its entries, oldest first. -/
structure Engine where
  last : Nat := 3
  entries : List MatEntry := []
  deriving DecidableEq, Repr

/-- An address that a job names: a virtual address, or a window resolved to a team and an offset (R281). -/
inductive JobAddr where
  | va (a : DWord)
  | win (team off : Nat)
  deriving DecidableEq, Repr

/-- One aligned 4-byte word that a job moves (R209, R281). -/
structure JobUnit where
  src : JobAddr
  dst : JobAddr
  credit : Option ClaspRef
  deriving DecidableEq, Repr

/-- The engine instructions that make jobs (R280); COLL with its operation, none for PUT. -/
inductive JobKind where
  | copy
  | mc
  | gather
  | coll (op : Option AtomOp)
  | media (dec : Bool) (unit : Nat) (block : DWord)
  deriving DecidableEq, Repr

/-- A footprint of a job: the bytes from lo up to hi of a team's window, or of the context's virtual addresses (R281). -/
structure Footprint where
  win : Option Nat
  lo : Nat
  hi : Nat
  deriving DecidableEq, Repr

/-- An accepted engine job (R280 to R287), in acceptance order. -/
structure Job where
  id : Nat
  core : Nat
  slot : Nat
  /-- The group's generation when it issued the job: credits after its retirement are discarded (R288). -/
  gen : BitVec 16
  team : Nat
  ctx : CtxDesc
  entry : Nat
  kind : JobKind
  clasp : Option ClaspRef
  /-- The K field of the clasp (R306). -/
  kfield : BitVec 7 := 0
  snap : Option DWord := none
  units : List JobUnit
  reads : List Footprint := []
  writes : List Footprint := []
  /-- The signal word of a COLL (R285). -/
  signal : Option JobAddr := none
  /-- A MEDIA job that waits for its clasp to complete a phase (R286). -/
  gate : Bool := false
  /-- Of a MEDIA job: the runs of its records, start and bytes, and the ESIZE of its frame record (R279, R286). -/
  srcRuns : List (JobAddr × Nat) := []
  dstRuns : List (JobAddr × Nat) := []
  esize : Nat := 0
  started : Bool := false
  stopped : Bool := false
  /-- The device time since which its next transfer is under way (R374). -/
  born : Nat := 0
  /-- The local lines that its next transfer asks for while other requests come first (R218). -/
  asked : List Nat := []
  deriving DecidableEq, Repr

/-- What a saved group leaves outside the save area: its doomed transaction's snapshot (R245), its return area (R160),
and of each lane what its park holds beyond the cause's number, with its completion point as a text offset, and the lanes
that the same issue parked. -/
structure SavedGroup where
  groupId : Nat
  txn : Option DWord
  rets : List (List Word)
  parked : List (LaneState × Word)
  issues : List Word := []
  /-- The group's release scope (R236). -/
  relScope : Nat := 0
  deriving DecidableEq, Repr

/-- A team that stands saved (R326, R355), with the jobs that its gates hold unstarted (R288); a job's slot is the
GROUPID of its group. -/
structure SavedTeam where
  launch : Nat
  team : Team
  groups : List SavedGroup
  jobs : List Job
  /-- The address of the save area that it was written to (R326). -/
  area : Nat := 0
  deriving DecidableEq, Repr

/-! ## Cores and clusters -/

/-- The scheduling record of a core (R14, R15, R47, R83). -/
structure Sched where
  last0 : Nat := 7
  last1 : Nat := 14
  keeperPrev : Bool := false
  /-- The scheduler that lost the last conflict (R14). -/
  loser : Option Nat := none
  /-- The scheduler that holds the crossbar for a second cycle, with its group's slot (R83). -/
  xbar : Option (Nat × Nat) := none
  /-- Cycles for which a narrow pipe stays occupied: FP64, special function, FMA pipes 0 and 1 (R15). -/
  f64 : Nat := 0
  sfu : Nat := 0
  fma0 : Nat := 0
  fma1 : Nat := 0
  deriving DecidableEq, Repr

/-- The core service block (R317) with the slot generations (R313) and the unread mailbox records (R310). -/
structure CoreBlock where
  mbxBase : DWord := 0
  esel : DWord := 0
  resVal : DWord := 0
  resPc : DWord := 0
  stepMask : BitVec 15 := 0
  savePtr : DWord := 0
  saveBusy : Bool := false
  saveNoFit : Bool := false
  saveUnreadable : Bool := false
  kpcd0 : DWord := 0
  kpcd1 : DWord := 0
  gens : SMap 16 := []
  unread : List Nat := []
  sched : Sched := {}
  /-- What the fetch and loop buffers hold, oldest first (R93, R166). -/
  text : List TextCopy := []
  deriving DecidableEq, Repr

/-- The translation-unit block of a cluster (R317) and its unread signet records (R314). -/
structure TuBlock where
  sqBase : DWord := 0
  sqCount : Word := 0
  invAddr : DWord := 0
  /-- An invalidation is busy while an access of an id below this is not performed (R323). -/
  invUpto : Nat := 0
  sigRoot : DWord := 0
  unread : List Nat := []
  deriving DecidableEq, Repr

/-! ## Front complex -/

/-- A prefetched packet: running count and 64 bytes (R340). -/
structure Prefetched where
  idx : Word
  bytes : List Byte
  deriving DecidableEq, Repr

/-- A slot-table row with its queue slot's registers (R334, R343, R359). -/
structure Row where
  valid : Bool := false
  hold : Bool := false
  preempt : Bool := false
  reserve : Bool := false
  band : BitVec 2 := 0
  cores : BitVec 256 := 0
  qdesc : DWord := 0
  notify : Word := 0
  watch : Bool := false
  /-- MODEL: when the watch was registered, as a Watch's age; and whether a full table has ended it (R254). -/
  watchAge : Nat := 0
  watchEnded : Bool := false
  /-- A write has made the wake word differ from NOTIFY: the watch has completed (R254, R334). -/
  woken : Bool := false
  prefetched : List Prefetched := []
  waits : BitVec 128 := 0
  waitKind : BitVec 3 := 0
  /-- The launches of the row stand in LSAVE (R355). -/
  lsaved : Bool := false
  deriving DecidableEq, Repr

/-- An unmapped watch: descriptor address and the value waited on (R334). -/
structure Unmapped where
  desc : Nat
  notify : Word
  /-- A write has made the word differ from NOTIFY; the watch has completed and raised its WAKE event. -/
  woken : Bool := false
  fired : Bool := false
  deriving DecidableEq, Repr

/-- A signal word that a BARRIER watches: its place, and whether its STATUS has been seen non-zero (R338). -/
structure SignalWatch where
  va : DWord
  space : Space
  addr : Nat
  seen : Bool := false
  deriving DecidableEq, Repr

/-- A drain that has begun and whose last accesses or jobs are held for want of version room (R243, R358, R361): the queue
that it names, the queues it ends and their STATUS, what it waits for, and its stop report with the report's place. -/
structure Drain where
  desc : Nat
  queues : List Nat
  status : Nat
  writes : List Nat := []
  jobs : List Nat := []
  /-- The teams, their groups gone, whose scratchpads its jobs may yet reach: they are discarded at its end. -/
  teams : List Nat := []
  report : Option (Nat × List Byte) := none
  deriving DecidableEq, Repr

/-- An issued packet that has not completed (R341, R354). -/
structure Packet where
  id : Nat
  desc : Nat
  row : Nat
  idx : Word
  typ : Byte
  launch : Option Nat := none
  sigs : List DWord := []
  sigWatch : List SignalWatch := []
  signal : DWord := 0
  ctx : CtxDesc := {}
  deriving DecidableEq, Repr

/-- A die's ramp: its register, this µs's allowance, the events used in it and in the last (R353). -/
structure Ramp where
  init : BitVec 16 := 0
  step : BitVec 16 := 0
  max : BitVec 16 := 0
  allowance : Nat := 0
  used : Nat := 0
  deriving DecidableEq, Repr

/-! ## Platform -/

/-- The GKZ9-X, GKZ9-S and GKZ9-H (R29). -/
inductive Variant where
  | x
  | s
  | h
  deriving DecidableEq, Repr

/-- The keeper code object that Filigree's image brings: its text in the keeper map, its CALLMAX and its entry (R302). -/
structure KeeperObject where
  text : DWord
  size : Nat
  callmax : Nat
  entry : DWord
  deriving DecidableEq, Repr

/-- What the manufacturing record, the fuses, the boot flash and the boot configuration fix (R32, R34, R363, R368). -/
structure Boot where
  variant : Variant := .x
  media : Bool := true
  attach : Bool := false
  serial : DWord := 0
  mfgDate : Word := 0
  mfgKey : Word := 0
  domIdx : BitVec 9 := 0
  domSize : BitVec 9 := 1
  nvmeBoot : Bool := false
  /-- Fuse key slots 0 to 3 (256 bits each), their revoke fuses, and the least security version. -/
  keys : List (BitVec 256) := []
  revoked : BitVec 4 := 0
  minSvn : Word := 0
  config : List Byte := []
  flash : SMap 8 := []
  nvme : SMap 8 := []
  nvmeSize : Nat := 0
  /-- What the boot shard of the image names: the other signet cores' entry, and the keeper code object (log 66). -/
  signetEntry : DWord := 0
  keeper : Option KeeperObject := none
  deriving DecidableEq, Repr

/-- The registers of a service core (R9, R22): pc and mode, x1 to x31, f0 to f31, the control and status registers by number,
those that are zero left out; and what the accesses of the instruction under way have given, none for an access fault. -/
structure Hart where
  pc : DWord := 0
  mode : SvcMode := .m
  x : List DWord := List.replicate 31 0
  f : List DWord := List.replicate 32 0
  csr : List (Nat × DWord) := []
  got : List (Option DWord) := []
  deriving DecidableEq, Repr

/-- The registers of a packet core, of RV32E (R22): pc, x1 to x15, the control and status registers by number. Its counters
have 64 bits. -/
structure PacketHart where
  pc : Word := 0
  x : List Word := List.replicate 15 0
  csr : List (Nat × DWord) := []
  got : List (Option DWord) := []
  deriving DecidableEq, Repr

/-- A reservation of a service core's LR: whose, where, and how many writes its slice had applied (R234). -/
structure Reservation where
  unit : Nat
  pa : Nat
  number : Word
  deriving DecidableEq, Repr

/-- A signet core: whether it is held in reset, where it starts, and its registers (R9, R301, R368). -/
structure SignetCore where
  held : Bool := true
  entry : DWord := 0
  hart : Hart := {}
  deriving DecidableEq, Repr

/-- A virtio function (R365, R366): device status, DEVICE_NEEDS_RESET, the available and not yet used descriptors, and
whether its MSI-X vectors are masked. -/
structure VirtioFn where
  status : Byte := 0
  needsReset : Bool := false
  pending : List Nat := []
  used : List Nat := []
  masked : Bool := false
  deriving DecidableEq, Repr

/-- A running checkpoint job (R375): its descriptor's fields, progress and outcome. -/
structure Checkpoint where
  desc : Nat
  ctx : CtxDesc
  snap : DWord
  snapNow : Bool
  verify : Bool
  buddy : Nat
  list : Nat
  nent : Nat
  store : Nat
  manifest : Nat
  /-- What is left of the page list: a virtual address and the blocks from there on, never 0. -/
  blocks : List (DWord × Nat)
  done : DWord := 0
  /-- The bytes read so far of a block that is not cameo memory, a word at a time (R377). -/
  part : List Byte := []
  /-- The device time since which its next access is under way (R374). -/
  born : Nat := 0
  /-- The CKSTAT status that ends the job, once known (R380). -/
  outcome : Option Nat := none
  deriving DecidableEq, Repr

/-- What one path issues: the core and slot, the address of the first word, the issuing lanes and, once fetched, the
words of the instruction (R48, R64). -/
structure Issue where
  core : Nat := 0
  slot : Nat := 0
  pc : DWord := 0
  lanes : Word := 0
  words : List Word := []
  /-- The slack tag of its requests (R218). -/
  tag : Nat := 8
  deriving DecidableEq, Repr

/-- The machine. -/
structure State where
  /-- MODEL: the issue being executed, and the issues selected but not yet executed (log 1, 2). -/
  cur : Issue := {}
  issueQ : List Issue := []
  /-- MODEL: the device's next steps, which choose one interleaving of its units (log 1). -/
  agenda : List Instr := []
  /-- MODEL: counts the steps that the device's own choice of Auto.lean has made (log 1). -/
  turn : Nat := 0
  /-- MODEL: counters of ids given out, and of free values drawn (log 1, 22). -/
  nextId : Nat := 1
  free : Nat := 0
  /-- Local physical memory: the bytes that are not zero (R205). -/
  mem : SMap 8 := []
  /-- Memory of domain devices: key device × 2^39 + physical address (R371). -/
  peer : SMap 8 := []
  /-- Inbound entries of domain devices, which decide what they refuse: key 512 × device + 2 × entry + word (R371). -/
  peerInb : SMap 64 := []
  /-- Cameo stamps by line (R238), the version clock and the registry (R239). -/
  stamps : SMap 64 := []
  clock : DWord := 1
  snaps : List Snapshot := []
  contexts : List Context := []
  /-- Contexts whose store has passed 90 % full: Filigree's interrupt (R243). -/
  storeIrqs : List Word := []
  /-- Write counters of the home slices (R234). -/
  slices : SMap 32 := []
  writes : List Write := []
  acks : List Ack := []
  /-- MODEL: applied writes that the groups of their cores do not see yet (R228). -/
  early : List EarlyWrite := []
  loads : List PendingLoad := []
  watches : List Watch := []
  /-- The watches of domain devices on this device's memory (R254, R373). -/
  peerWatches : List PeerWatch := []
  upartials : List UPartial := []
  l1 : List L1Copy := []
  /-- Clusters whose 32 L1s are fused (R215). -/
  fused : List Nat := []
  /-- The clusters' shared TLBs and the cores' micro-TLBs (R10). -/
  tlb : List TlbEntry := []
  utlb : List TlbEntry := []
  /-- MODEL: sectors (address ÷ 32) whose next reading meets an error of a class of R386: corrected, transient or
lasting (R328, log 61). -/
  faulty : List (Nat × Nat) := []
  groups : List Group := []
  teams : List Team := []
  gangs : List Gang := []
  launches : List Launch := []
  engines : List Engine := []
  jobs : List Job := []
  cores : List CoreBlock := []
  tus : List TuBlock := []
  /-- Cores that have stopped issue for a context, and those that have told their signet core that the drains are done
(R325). -/
  stopped : List (Nat × Word) := []
  drained : List (Nat × Word) := []
  savedTeams : List SavedTeam := []
  /-- The keeper code object: text base and size in the keeper map (R302). -/
  keeperText : DWord := 0
  keeperSize : Nat := 0
  keeperCallmax : Nat := 0
  rows : List Row := []
  unmapped : List Unmapped := []
  /-- Descriptors of queues that a destroy is ending (R361), and the drains that have not ended. -/
  destroying : List Nat := []
  drains : List Drain := []
  /-- The watchdogs' counts in µs, by descriptor (R357). -/
  wdogs : List (Nat × Nat) := []
  packets : List Packet := []
  events : List DWord := []
  /-- Device time in ns (R342). -/
  time : Nat := 0
  ramps : List Ramp := [{}, {}]
  /-- ART words by 128 × die + 2 × entry + word (R219). -/
  art : SMap 64 := []
  /-- Inbound entries by 2 × entry + word (R371); routes by 512 × die + device (R363). -/
  inb : SMap 64 := []
  route : SMap 64 := []
  /-- Links that are down (R372). -/
  linksDown : BitVec 18 := 0
  hostCtl : BitVec 4 := 0
  hostEvents : List DWord := []
  /-- The host link is up and the port masters (R366). -/
  hostUp : Bool := true
  fns : List VirtioFn := [{}, {}, {}, {}]
  ckpt : Option Checkpoint := none
  ckStatus : Byte := 0
  areq : Option Nat := none
  astatErr : Bool := false
  /-- Measurement registers (R370). -/
  mrs : List (BitVec 512) := List.replicate 8 0
  elogBase : DWord := 0
  elogHead : Word := 0
  /-- The head has wrapped, so every entry of the ring stands. -/
  elogWrapped : Bool := false
  /-- Frames on the retirement lists (R328). -/
  retired : List Nat := []
  /-- Board controller (R384, R385). -/
  i3cAddr : BitVec 7 := 0x4A
  boardState : Byte := 0
  temp : DWord := 0
  power : DWord := 0
  pcap : BitVec 16 := 0
  /-- The power cap in force, in W (R385). -/
  capInForce : Nat := 2400
  /-- Thermal stop (R27). -/
  thermal : Bool := false
  /-- The boot signet core's entry after a boot, none while it waits in the ROM (R368). -/
  bootEntry : Option DWord := none
  signets : List SignetCore := []
  /-- The tightly coupled memories of the packet cores, and the registers of the packet cores and of the policy core (R22). -/
  tcm : List (SMap 8) := List.replicate 6 []
  packetHarts : List PacketHart := List.replicate 6 {}
  policyHart : Hart := {}
  /-- The reservations of the service cores' LR instructions (log 10). -/
  reservations : List Reservation := []
  /-- The guest_cid of virtio-vsock (R365). -/
  guestCid : DWord := 3
  boot : Boot := {}
  /-- MODEL: the value that the last read of a register or of memory by a service core, or the last inbound read, gave its
reader; and whether the last such access took an access fault (R316). -/
  busRead : DWord := 0
  busFault : Bool := false
  deriving DecidableEq, Repr

/-- Why a run can stop with a fault. -/
inductive Fault where
  /-- An encoded instruction was executed although no group stands at the issue: no machine does that (safe). -/
  | noIssue
  deriving DecidableEq, Repr

/-- Why a step has no meaning. -/
inductive Refusal where
  /-- The instruction of this mnemonic is not modelled; raised by its arm of `exec` alone (safe). -/
  | notModelled (mnemonic : String)
  deriving DecidableEq, Repr

/-- The keeper group of a core (R13): 4 granules, its 4 group clasps, no lane started before the boot starts it (log 66). -/
def keeperGroup (core : Nat) : Group := { core := core, slot := 15, alloc := 4 }

/-- The machine right after a device reset: nothing resident, every register as the spec resets it, or zero (log 5). -/
def State.reset : State :=
  { groups := (List.range 256).map keeperGroup
    engines := List.replicate 64 {}
    cores := List.replicate 256 {}
    tus := List.replicate 8 {}
    signets := { held := false } :: List.replicate 7 {}
    rows := List.replicate 128 {} }

end Sys2Proof.Machine
end

