-- ==== Sys2Proof/Machine/Base.lean ====
section
/-! DEFINITION. Base: reading and writing the sparse maps, bytes and words, and the accessors of groups, lanes and
registers through which every meaning goes. -/

namespace Sys2Proof.Machine

/-! ## Sparse maps -/

/-- The value at a key; zero where nothing is listed. -/
def sget {w : Nat} : SMap w → Nat → BitVec w
  | [], _ => 0
  | (k, v) :: r, q => if k = q then v else sget r q

/-- Inserts a key that is not listed before the first greater one; a zero is not listed. -/
def sins {w : Nat} (q : Nat) (x : BitVec w) : SMap w → SMap w
  | [] => if x = 0 then [] else [(q, x)]
  | (k, v) :: r => if q < k then (if x = 0 then (k, v) :: r else (q, x) :: (k, v) :: r) else (k, v) :: sins q x r

/-- Writes a key and keeps the canonical form: keys strictly rising, no zero listed. -/
def sset {w : Nat} (m : SMap w) (q : Nat) (x : BitVec w) : SMap w := sins q x (m.filter (fun e => e.1 ≠ q))

/-- Writes many keys, later entries over earlier ones. -/
def ssets {w : Nat} (m : SMap w) (l : List (Nat × BitVec w)) : SMap w := l.foldl (fun m e => sset m e.1 e.2) m

/-- Zeroes every key that fails a test. -/
def skeep {w : Nat} (m : SMap w) (p : Nat → Bool) : SMap w := m.filter (fun e => p e.1)

/-- The canonical form of a map: keys strictly rising, no zero listed. -/
def SMapWf {w : Nat} : SMap w → Bool
  | [] => true
  | [e] => e.2 ≠ 0
  | e :: f :: r => e.2 ≠ 0 && e.1 < f.1 && SMapWf (f :: r)

/-- The canonical form of memory (R205): an unlisted address reads as zero (log 4). -/
def Memory.wf (m : List (Nat × Byte)) : Bool := SMapWf m

/-! ## Lists -/

/-- Changes one element of a list. -/
def upd {α : Type} : List α → Nat → (α → α) → List α
  | [], _, _ => []
  | a :: r, 0, f => f a :: r
  | a :: r, n + 1, f => a :: upd r n f

/-- Changes every element with its index. -/
def updAll {α : Type} (f : Nat → α → α) : Nat → List α → List α
  | _, [] => []
  | n, a :: r => f n a :: updAll f (n + 1) r

/-- Insertion into a list by a key, after the elements that are not greater: a stable sort. -/
def insertBy {α : Type} (le : α → α → Bool) (a : α) : List α → List α
  | [] => [a]
  | b :: r => if le b a then b :: insertBy le a r else a :: b :: r

/-- A stable sort. -/
def sortBy {α : Type} (le : α → α → Bool) (l : List α) : List α := l.foldl (fun acc a => insertBy le a acc) []

/-- A list without an element's later occurrences. -/
def dedup {α : Type} [BEq α] (l : List α) : List α :=
  l.foldl (fun acc a => if acc.contains a then acc else acc ++ [a]) []

/-- The least element of a list by a relation, the first of equals. -/
def leastBy {α : Type} (lt : α → α → Bool) : List α → Option α
  | [] => none
  | a :: r =>
    match leastBy lt r with
    | none => some a
    | some b => if lt b a then some b else some a

/-! ## Bytes -/

/-- The n low bytes of a number, lowest first: the byte order of every multi-byte field (R106, R305). -/
def leBytes : Nat → Nat → List Byte
  | 0, _ => []
  | n + 1, v => BitVec.ofNat 8 v :: leBytes n (v / 256)

/-- The number that bytes stand for, lowest first. -/
def leNat : List Byte → Nat
  | [] => 0
  | b :: r => b.toNat + 256 * leNat r

/-- Bytes lo up to lo + n of a list. -/
def slice (l : List Byte) (lo n : Nat) : List Byte := (l.drop lo).take n

/-- The number in bytes lo to lo + n − 1 of a block. -/
def field (l : List Byte) (lo n : Nat) : Nat := leNat (slice l lo n)

/-- Bytes of a sparse byte map. -/
def sbytes (m : SMap 8) (a : Nat) : Nat → List Byte
  | 0 => []
  | n + 1 => sget m a :: sbytes m (a + 1) n

/-- Numbers a list from a start. -/
def number {α : Type} : Nat → List α → List (Nat × α)
  | _, [] => []
  | n, a :: r => (n, a) :: number (n + 1) r

/-- Writes a run of keys of a map at once, from a list. -/
def sblock {w : Nat} (m : SMap w) (lo : Nat) (l : List (BitVec w)) : SMap w :=
  m.filter (fun e => e.1 < lo) ++ (number lo l).filter (fun e => e.2 ≠ 0) ++ m.filter (fun e => lo + l.length ≤ e.1)

/-- Bit n of a number. -/
def bitN (v n : Nat) : Bool := v / 2 ^ n % 2 = 1

/-- Bits hi to lo of a number. -/
def bits (v hi lo : Nat) : Nat := v / 2 ^ lo % 2 ^ (hi + 1 - lo)

/-- The number of bits of a number: 0 for 0. -/
def bitLen (v : Nat) : Nat := if v = 0 then 0 else v.log2 + 1

/-! ## Lane masks -/

/-- The lanes of a mask, ascending. -/
def lanesOf (m : Word) : List Nat := (List.range 32).filter (fun j => m.getLsbD j)

/-- The mask of the lanes that pass a test. -/
def maskOf (p : Nat → Bool) : Word :=
  (List.range 32).foldl (fun m j => if p j then m ||| (1 <<< j : Word) else m) 0

/-! ## Groups and lanes -/

/-- Whether a space is a scratchpad. -/
def Space.isScratch : Space → Bool
  | .scratch _ => true
  | _ => false

/-- Whether a group stands in a slot of a core. -/
def Group.at (g : Group) (core slot : Nat) : Bool := g.core = core && g.slot = slot

/-- The group in a slot. -/
def State.group? (s : State) (core slot : Nat) : Option Group := s.groups.find? (fun g => g.at core slot)

/-- Changes the group in a slot. -/
def State.modGroup (s : State) (core slot : Nat) (f : Group → Group) : State :=
  { s with groups := s.groups.map (fun g => if g.at core slot then f g else g) }

/-- The team of an id. -/
def State.team? (s : State) (id : Nat) : Option Team := s.teams.find? (fun t => t.id = id)

/-- Changes a team. -/
def State.modTeam (s : State) (id : Nat) (f : Team → Team) : State :=
  { s with teams := s.teams.map (fun t => if t.id = id then f t else t) }

/-- The launch of an id. -/
def State.launch? (s : State) (id : Nat) : Option Launch := s.launches.find? (fun l => l.id = id)

/-- Changes a launch. -/
def State.modLaunch (s : State) (id : Nat) (f : Launch → Launch) : State :=
  { s with launches := s.launches.map (fun l => if l.id = id then f l else l) }

/-- The team of a group; none for the keeper. -/
def State.teamOf (s : State) (g : Group) : Option Team := g.team.bind s.team?

/-- Whether a group is a keeper (R301). -/
def Group.keeper (g : Group) : Bool := g.slot = 15

/-- The context identifier of a group; 0 in the keeper (R302). -/
def State.ctxOf (s : State) (g : Group) : Word :=
  match s.teamOf g with
  | some t => t.ctx.ctxid
  | none => 0

/-- Whether a group's core has stopped issue for its context (R325): its lanes then stay as they are (R61). -/
def State.isStopped (s : State) (g : Group) : Bool := !g.keeper && s.stopped.contains (g.core, s.ctxOf g)

/-- Lane j of a group. -/
def Group.lane (g : Group) (j : Nat) : Lane := g.lanes.getD j {}

/-- Changes lane j. -/
def Group.modLane (g : Group) (j : Nat) (f : Lane → Lane) : Group := { g with lanes := upd g.lanes j f }

/-- Changes the lanes of a mask. -/
def Group.modLanes (g : Group) (m : Word) (f : Nat → Lane → Lane) : Group :=
  { g with lanes := updAll (fun j l => if m.getLsbD j then f j l else l) 0 g.lanes }

/-- The mask of the lanes whose state passes a test. -/
def Group.mask (g : Group) (p : Lane → Bool) : Word := maskOf (fun j => p (g.lane j))

/-- RUN or PARK (R110 LIVEMASK, R55). -/
def Lane.live (l : Lane) : Bool :=
  match l.st with
  | .run => true
  | .park _ => true
  | _ => false

/-- Whether a lane runs. -/
def Lane.running (l : Lane) : Bool := l.st = .run

/-- Whether every launched lane has exited, so the group retires (R60). -/
def Group.finished (g : Group) : Bool := g.lanes.all (fun l => !l.live)

/-! ## Registers -/

/-- A register of the allocation exists (R54). -/
def Group.exists (g : Group) (a : Nat) : Bool := a < 4 * g.alloc

/-- Absolute register a of lane j. -/
def Group.rv (g : Group) (a j : Nat) : Word := sget g.v (32 * a + j)

/-- Writes absolute register a of lane j. -/
def Group.wv (g : Group) (a j : Nat) (x : Word) : Group := { g with v := sset g.v (32 * a + j) x }

/-- Writes a pair: bits [31:0] in the even register (R106). -/
def Group.wv2 (g : Group) (a j : Nat) (x : DWord) : Group :=
  (g.wv a j (x.setWidth 32)).wv (a + 1) j ((x >>> 32).setWidth 32)

/-- A pair as a 64-bit value. -/
def Group.rv2 (g : Group) (a j : Nat) : DWord := g.rv (a + 1) j ++ g.rv a j

/-- A uniform register; S63 reads zero (R77). -/
def Group.rs (g : Group) (n : Nat) : DWord := if n = 63 then 0 else sget g.s n

/-- Writes a uniform register; a write to S63 is discarded (R77). -/
def Group.ws (g : Group) (n : Nat) (x : DWord) : Group := if n = 63 then g else { g with s := sset g.s n x }

/-- A predicate source of a lane: P0 to P6, P7 which reads one, or a flag by its code (R77, R109). -/
def Lane.pred (l : Lane) (n : Nat) : Bool :=
  if n < 7 then l.preds.getLsbD n
  else if n = 7 then true
  else l.flags.getLsbD (n - 8)

/-- Sets bit n of a vector. -/
def setBit {w : Nat} (v : BitVec w) (n : Nat) (b : Bool) : BitVec w :=
  if b then v ||| (1#w <<< n) else v &&& ~~~(1#w <<< n)

/-- Writes a predicate; a write to P7 is discarded (R77). -/
def Lane.setPred (l : Lane) (n : Nat) (b : Bool) : Lane :=
  if n < 7 then { l with preds := setBit l.preds n b } else l

/-- Sets the flags of a vector in a lane: they are sticky (R109). -/
def Lane.setFlags (l : Lane) (f : BitVec 5) : Lane := { l with flags := l.flags ||| f }

/-- Route register n, the identity where it was never written (R114). -/
def Group.route (g : Group) (n j : Nat) : Nat :=
  match g.q[n]? with
  | some r => (r.extractLsb' (5 * j) 5).toNat
  | none => j

/-- The lane that reaches output j through one Beneš stage of a setting (R115): the switch that holds position j swaps
it with its partner. -/
def benesStage (n : BitVec 144) (st j : Nat) : Nat :=
  let d := if st ≤ 4 then 4 - st else st - 4
  let w := j / 2 ^ (d + 1) * 2 ^ d + j % 2 ^ d
  if n.getLsbD (16 * st + w) then j ^^^ 2 ^ d else j

/-- The input lane that reaches output j of the whole network: the stages undone from the last to the first. -/
def benes (n : BitVec 144) (j : Nat) : Nat :=
  (List.range 9).foldr (fun st p => benesStage n st p) j

/-- Network-set register n; straight where it was never written. -/
def Group.network (g : Group) (n j : Nat) : Nat := benes (g.n.getD n 0) j

/-- The core block, translation-unit block and row of an index. -/
def State.coreBlock (s : State) (c : Nat) : CoreBlock := s.cores.getD c {}
def State.tu (s : State) (cl : Nat) : TuBlock := s.tus.getD cl {}
def State.row (s : State) (q : Nat) : Row := s.rows.getD q {}
def State.modCore (s : State) (c : Nat) (f : CoreBlock → CoreBlock) : State := { s with cores := upd s.cores c f }
def State.modTu (s : State) (cl : Nat) (f : TuBlock → TuBlock) : State := { s with tus := upd s.tus cl f }
def State.modRow (s : State) (q : Nat) (f : Row → Row) : State := { s with rows := upd s.rows q f }

/-- The context record of an identifier. -/
def State.context (s : State) (id : Word) : Context := (s.contexts.find? (fun c => c.id = id)).getD { id := id }

/-- Changes a context record, making it where there is none. -/
def State.modContext (s : State) (id : Word) (f : Context → Context) : State :=
  if s.contexts.any (fun c => c.id = id) then
    { s with contexts := s.contexts.map (fun c => if c.id = id then f c else c) }
  else { s with contexts := s.contexts ++ [f { id := id }] }

/-- Draws a free value of a width and advances the counter of draws. -/
def State.draw (s : State) (w : Nat) : BitVec w × State := (Config.freeValue w s.free, { s with free := s.free + 1 })

/-- Whether the device stands still: in thermal stop, or after a boot that no image source passed (R27, R368). -/
def State.halted (s : State) : Bool := s.thermal || s.boardState = 3

end Sys2Proof.Machine
end

