-- ==== Sys2Proof/Machine/Flags.lean ====
section
/-! DEFINITION. Flags: the number formats, rounding, and every flag computation of the floating-point instructions
(R109, R117 to R132, R172 to R196). Values are computed exactly and rounded once. -/

namespace Sys2Proof.Machine

/-! ## Formats -/

/-- The special-encoding kinds of R120. -/
inductive FKind where
  | finite
  | nanonly
  | ieee
  deriving DecidableEq, Repr

/-- A floating-point format (R120). -/
structure Fmt where
  ew : Nat
  mw : Nat
  bias : Nat
  kind : FKind
  deriving DecidableEq, Repr

def fp64 : Fmt := ⟨11, 52, 1023, .ieee⟩
def fp32 : Fmt := ⟨8, 23, 127, .ieee⟩
def fp16 : Fmt := ⟨5, 10, 15, .ieee⟩
def bf16 : Fmt := ⟨8, 7, 127, .ieee⟩
def e4m3 : Fmt := ⟨4, 3, 7, .nanonly⟩
def e5m2 : Fmt := ⟨5, 2, 15, .ieee⟩
def e3m2 : Fmt := ⟨3, 2, 3, .finite⟩
def e2m3 : Fmt := ⟨2, 3, 1, .finite⟩
def e2m1 : Fmt := ⟨2, 1, 1, .finite⟩

/-- The rounding modes of R117. -/
inductive Rm where
  | rn
  | rz
  | rd
  | ru
  | ra
  deriving DecidableEq, Repr

/-- The mode of a rounding code. -/
def rmOf : Nat → Rm
  | 0 => .rn
  | 1 => .rz
  | 2 => .rd
  | 3 => .ru
  | _ => .ra

/-- The flags of R109 by their bit. -/
def FI : BitVec 5 := 1
def FZ : BitVec 5 := 2
def FO : BitVec 5 := 4
def FF : BitVec 5 := 8
def FX : BitVec 5 := 16

/-- What an encoding stands for: a NaN, an infinity, or ±m × 2^e (R120). -/
inductive FVal where
  | nan (signalling : Bool)
  | inf (neg : Bool)
  | fin (neg : Bool) (m : Nat) (e : Int)
  deriving DecidableEq, Repr

/-- An exact real: ±m × 2^e, and under `st` an excess above zero and below 2^e in magnitude. -/
structure Ex where
  neg : Bool
  m : Nat
  e : Int
  st : Bool := false
  deriving DecidableEq, Repr

/-- A delivered encoding and the flags it sets. -/
abbrev FRes := Nat × BitVec 5

def Fmt.width (f : Fmt) : Nat := 1 + f.ew + f.mw
def Fmt.signBit (f : Fmt) : Nat := 2 ^ (f.ew + f.mw)
def Fmt.hasInf (f : Fmt) : Bool := f.kind = .ieee
/-- A format without mantissa bits has no encoding for a NaN. -/
def Fmt.hasNan (f : Fmt) : Bool := (f.kind = .ieee || f.kind = .nanonly) && f.mw ≠ 0
/-- The default NaN of R119 and R121, of a programmable IEEE format as of the listed ones (log 72); +0 in a format without
NaN. -/
def Fmt.nan (f : Fmt) : Nat :=
  if !f.hasNan then 0
  else if f.kind = .ieee then (2 ^ f.ew - 1) * 2 ^ f.mw + 2 ^ (f.mw - 1)
  else 2 ^ (f.ew + f.mw) - 1
def Fmt.withSign (f : Fmt) (neg : Bool) (v : Nat) : Nat := if neg then v + f.signBit else v
def Fmt.inf (f : Fmt) (neg : Bool) : Nat := f.withSign neg ((2 ^ f.ew - 1) * 2 ^ f.mw)
/-- The encoding of the largest finite value (R121). -/
def Fmt.maxEnc (f : Fmt) : Nat :=
  match f.kind with
  | .ieee => (2 ^ f.ew - 1) * 2 ^ f.mw - 1
  | .nanonly => if f.mw = 0 then 2 ^ f.ew - 1 else 2 ^ (f.ew + f.mw) - 2
  | .finite => 2 ^ (f.ew + f.mw) - 1
def Fmt.maxFin (f : Fmt) (neg : Bool) : Nat := f.withSign neg f.maxEnc
def Fmt.zero (f : Fmt) (neg : Bool) : Nat := f.withSign neg 0
/-- The exponent of the least subnormal's unit, 1 − B − M. -/
def Fmt.minE (f : Fmt) : Int := 1 - (f.bias : Int) - (f.mw : Int)

/-- The magnitude m × 2^e that the low bits of an encoding give (R120). -/
def Fmt.mag (f : Fmt) (v : Nat) : Nat × Int :=
  let e := v / 2 ^ f.mw % 2 ^ f.ew
  let m := v % 2 ^ f.mw
  if e = 0 then (m, f.minE) else (2 ^ f.mw + m, (e : Int) - f.bias - f.mw)

/-- The value of an encoding (R119, R120). -/
def Fmt.val (f : Fmt) (v : Nat) : FVal :=
  let neg := bitN v (f.ew + f.mw)
  let e := v / 2 ^ f.mw % 2 ^ f.ew
  let m := v % 2 ^ f.mw
  let top := e = 2 ^ f.ew - 1
  if top ∧ f.kind = .ieee then
    if m = 0 then .inf neg else .nan (16 ≤ f.width && !bitN m (f.mw - 1))
  else if top ∧ f.kind = .nanonly ∧ f.mw ≠ 0 ∧ m = 2 ^ f.mw - 1 then .nan false
  else let (m', e') := f.mag v; .fin neg m' e'

/-- Whether an encoding is subnormal. -/
def Fmt.isSub (f : Fmt) (v : Nat) : Bool := v / 2 ^ f.mw % 2 ^ f.ew = 0 && v % 2 ^ f.mw ≠ 0

/-- The operand flushing of R118. -/
def Fmt.flush (f : Fmt) (ftz : Bool) (v : Nat) : Nat :=
  if ftz && f.isSub v then f.zero (bitN v (f.ew + f.mw)) else v

/-! ## Rounding -/

/-- Whether m ÷ 2^d, with an excess under `st`, rounds away from zero, and whether it is inexact (R117). -/
def roundUp (rm : Rm) (neg : Bool) (m : Nat) (st : Bool) (d : Nat) : Bool × Bool :=
  let n := m / 2 ^ d
  let r := m % 2 ^ d
  if r = 0 ∧ st = false then (false, false)
  else
    let up := match rm with
      | .rz => false
      | .rd => neg
      | .ru => !neg
      | .rn => 2 ^ d < 2 * r || (2 ^ d = 2 * r && (st || n % 2 = 1))
      | .ra => 2 ^ d ≤ 2 * r
    (up, true)

/-- A magnitude rounded to a multiple of 2^q: the multiple, and whether it is inexact. -/
def roundAt (rm : Rm) (x : Ex) (q : Int) : Nat × Bool :=
  if q ≤ x.e then (x.m * 2 ^ (x.e - q).toNat, x.st)
  else
    let d := (q - x.e).toNat
    let (up, inx) := roundUp rm x.neg x.m x.st d
    (x.m / 2 ^ d + (if up then 1 else 0), inx)

/-- Compares two magnitudes. -/
def magLt (m₁ : Nat) (e₁ : Int) (m₂ : Nat) (e₂ : Int) : Bool :=
  let e := min e₁ e₂
  m₁ * 2 ^ (e₁ - e).toNat < m₂ * 2 ^ (e₂ - e).toNat

/-- The encoding of a magnitude n × 2^q that the format holds. -/
def Fmt.enc (f : Fmt) (neg : Bool) (n : Nat) (q : Int) : Nat :=
  let (n, q) := if n = 2 ^ (f.mw + 1) then (2 ^ f.mw, q + 1) else (n, q)
  if n < 2 ^ f.mw then f.withSign neg n
  else f.withSign neg ((q + f.mw + f.bias).toNat * 2 ^ f.mw + (n - 2 ^ f.mw))

/-- The overflow table of R117. -/
def Fmt.overflow (f : Fmt) (rm : Rm) (neg : Bool) : Nat :=
  let toInf := match rm with
    | .rn => true
    | .ra => true
    | .rz => false
    | .rd => neg
    | .ru => !neg
  if f.hasInf && toInf then f.inf neg else f.maxFin neg

/-- Rounding a real into a format under a mode (R117), with the result flushing of R118. The sign of an exact zero is
that of `x`. -/
def Fmt.round (f : Fmt) (rm : Rm) (ftz : Bool) (x : Ex) : FRes :=
  if x.m = 0 ∧ x.st = false then (f.zero x.neg, 0)
  else
    let qu := x.e + bitLen x.m - 1 - f.mw
    let (n₁, inx₁) := roundAt rm x qu
    let (mm, me) := f.mag f.maxEnc
    if magLt mm me n₁ qu then (f.overflow rm x.neg, FO ||| FX)
    else
      let tiny := n₁ ≠ 0 && magLt n₁ qu (2 ^ f.mw) f.minE
      if tiny && ftz then (f.zero x.neg, FF ||| FX)
      else
        let q := max qu f.minE
        let (n, inx) := if q = qu then (n₁, inx₁) else roundAt rm x q
        (f.enc x.neg n q, (if inx then FX else 0) ||| (if tiny && inx then FF else 0))

/-! ## Exact arithmetic -/

/-- A finite value as an exact real. -/
def exFin (neg : Bool) (m : Nat) (e : Int) : Ex := { neg := neg, m := m, e := e }

/-- The exact sum of two finite reals; an exact zero takes the sign of R117. -/
def exAdd (rm : Rm) (a b : Ex) : Ex :=
  let e := min a.e b.e
  let ia : Int := (if a.neg then -1 else 1) * (a.m * 2 ^ (a.e - e).toNat : Nat)
  let ib : Int := (if b.neg then -1 else 1) * (b.m * 2 ^ (b.e - e).toNat : Nat)
  let t := ia + ib
  if t = 0 then { neg := if a.neg = b.neg then a.neg else rm = .rd, m := 0, e := e }
  else { neg := t < 0, m := t.natAbs, e := e }

/-- The exact product. -/
def exMul (a b : Ex) : Ex := { neg := a.neg != b.neg, m := a.m * b.m, e := a.e + b.e }

/-- FI where a signalling NaN stands among the operands. -/
def sigFlag (l : List FVal) : BitVec 5 := if l.any (fun v => v = .nan true) then FI else 0

def FVal.isNan : FVal → Bool
  | .nan _ => true
  | _ => false

def FVal.isInf : FVal → Bool
  | .inf _ => true
  | _ => false

def FVal.neg : FVal → Bool
  | .nan _ => false
  | .inf n => n
  | .fin n _ _ => n

def FVal.isZero : FVal → Bool
  | .fin _ m _ => m = 0
  | _ => false

/-- The exact real of a finite value. -/
def FVal.ex : FVal → Ex
  | .fin n m e => exFin n m e
  | _ => exFin false 0 0

/-- Flips the sign bit of an encoding. -/
def Fmt.negate (f : Fmt) (v : Nat) : Nat := if bitN v (f.ew + f.mw) then v - f.signBit else v + f.signBit

/-- The sum of two values, rounded (R175). -/
def addVal (f : Fmt) (rm : Rm) (ftz : Bool) (a b : FVal) : FRes :=
  if a.isNan || b.isNan then (f.nan, sigFlag [a, b])
  else match a, b with
    | .inf x, .inf y => if x = y then (f.inf x, 0) else (f.nan, FI)
    | .inf x, _ => (f.inf x, 0)
    | _, .inf y => (f.inf y, 0)
    | _, _ => f.round rm ftz (exAdd rm a.ex b.ex)

/-- The product of two values, rounded (R175). -/
def mulVal (f : Fmt) (rm : Rm) (ftz : Bool) (a b : FVal) : FRes :=
  if a.isNan || b.isNan then (f.nan, sigFlag [a, b])
  else if a.isInf || b.isInf then
    if a.isZero || b.isZero then (f.nan, FI) else (f.inf (a.neg != b.neg), 0)
  else f.round rm ftz (exMul a.ex b.ex)

/-- FADD, FSUB and FMUL (R175), operands flushed by R118. -/
def fadd (f : Fmt) (rm : Rm) (ftz : Bool) (a b : Nat) : FRes :=
  addVal f rm ftz (f.val (f.flush ftz a)) (f.val (f.flush ftz b))
def fsub (f : Fmt) (rm : Rm) (ftz : Bool) (a b : Nat) : FRes := fadd f rm ftz a (f.negate b)
def fmul (f : Fmt) (rm : Rm) (ftz : Bool) (a b : Nat) : FRes :=
  mulVal f rm ftz (f.val (f.flush ftz a)) (f.val (f.flush ftz b))

/-- FFMA (R176). -/
def ffma (f : Fmt) (rm : Rm) (ftz : Bool) (a b c : Nat) : FRes :=
  let a := f.val (f.flush ftz a)
  let b := f.val (f.flush ftz b)
  let c := f.val (f.flush ftz c)
  let bad := (a.isInf && b.isZero) || (a.isZero && b.isInf)
  if bad then (f.nan, FI)
  else if a.isNan || b.isNan || c.isNan then (f.nan, sigFlag [a, b, c])
  else if a.isInf || b.isInf then
    let n := a.neg != b.neg
    if c.isInf && c.neg != n then (f.nan, FI) else (f.inf n, 0)
  else match c with
    | .inf n => (f.inf n, 0)
    | _ => f.round rm ftz (exAdd rm (exMul a.ex b.ex) c.ex)

/-- Whether a value is below another, −0 below +0 where `zeros` is set; neither is NaN (R177, R178). -/
def valLt (zeros : Bool) (a b : FVal) : Bool :=
  match a, b with
  | .inf x, .inf y => x && !y
  | .inf x, _ => x
  | _, .inf y => !y
  | .fin na ma ea, .fin nb mb eb =>
    if ma = 0 ∧ mb = 0 then zeros && na && !nb
    else if na != nb then
      if ma = 0 then !nb else if mb = 0 then na else na
    else if na then magLt mb eb ma ea else magLt ma ea mb eb
  | _, _ => false

/-- FMIN (`mx` false) and FMAX (R177). -/
def fminmax (f : Fmt) (mx nanMode ftz : Bool) (a b : Nat) : FRes :=
  let a := f.flush ftz a
  let b := f.flush ftz b
  let va := f.val a
  let vb := f.val b
  let fl := sigFlag [va, vb]
  if va.isNan && vb.isNan then (f.nan, fl)
  else if va.isNan then (if nanMode then f.nan else b, fl)
  else if vb.isNan then (if nanMode then f.nan else a, fl)
  else if mx then (if valLt true va vb then b else a, fl)
  else (if valLt true vb va then b else a, fl)

/-- FCMP (R178): the comparison of a code, and the flags. -/
def fcmp (f : Fmt) (cc : Nat) (ftz : Bool) (a b : Nat) : Bool × BitVec 5 :=
  let va := f.val (f.flush ftz a)
  let vb := f.val (f.flush ftz b)
  let un := va.isNan || vb.isNan
  let lt := valLt false va vb
  let gt := valLt false vb va
  let r := match cc with
    | 0 => !un && !lt && !gt
    | 1 => un || lt || gt
    | 2 => !un && lt
    | 3 => !un && !gt
    | 4 => !un && gt
    | 5 => !un && !lt
    | 6 => un
    | _ => !un
  let loud := 2 ≤ cc && cc ≤ 5
  (r, if loud && un then FI else sigFlag [va, vb])

/-- FCLASS (R179): the bit of the class. -/
def fclass (f : Fmt) (a : Nat) : Nat :=
  match f.val a with
  | .nan true => 8
  | .nan false => 9
  | .inf n => if n then 0 else 7
  | .fin n m _ =>
    if m = 0 then (if n then 3 else 4)
    else if f.isSub a then (if n then 2 else 5)
    else if n then 1 else 6

/-- FRND (R180). Its result is exact and sets no flag but FI for a signalling NaN. -/
def frnd (f : Fmt) (rm : Rm) (ftz : Bool) (a : Nat) : FRes :=
  let a := f.flush ftz a
  match f.val a with
  | .nan s => (f.nan, if s then FI else 0)
  | .inf n => (f.inf n, 0)
  | .fin n m e =>
    let (k, _) := roundAt rm (exFin n m e) 0
    if 0 ≤ e then (a, 0) else ((f.round .rn false (exFin n k 0)).1, 0)

/-! ## Division and roots (R181, R182) -/

/-- The integer square root, bit by bit. -/
def isqrtAux (n : Nat) : Nat → Nat → Nat
  | 0, r => r
  | b + 1, r => isqrtAux n b (if (r + 2 ^ b) * (r + 2 ^ b) ≤ n then r + 2 ^ b else r)

def isqrt (n : Nat) : Nat := isqrtAux n (bitLen n / 2 + 1) 0

/-- The quotient of two finite non-zero reals, with an excess where it is not exact. -/
def exDiv (p : Nat) (a b : Ex) : Ex :=
  let k := bitLen b.m + p + 5 - bitLen a.m
  let n := a.m * 2 ^ k
  { neg := a.neg != b.neg, m := n / b.m, e := a.e - b.e - k, st := n % b.m ≠ 0 }

/-- The square root of a positive real. -/
def exSqrt (p : Nat) (a : Ex) : Ex :=
  let k := 2 * (p + 6)
  let k := if (a.e - k) % 2 = 0 then k else k + 1
  let n := a.m * 2 ^ k
  let r := isqrt n
  { neg := false, m := r, e := (a.e - k) / 2, st := r * r ≠ n }

/-- One over the square root of a positive real. -/
def exRsqrt (p : Nat) (a : Ex) : Ex :=
  let (m, e) := if a.e % 2 = 0 then (a.m, a.e) else (2 * a.m, a.e - 1)
  let k := bitLen m + p + 6
  let r := isqrt (2 ^ (2 * k) / m)
  { neg := false, m := r, e := -(k : Int) - e / 2, st := r * r * m ≠ 2 ^ (2 * k) }

def fdiv (f : Fmt) (rm : Rm) (ftz : Bool) (a b : Nat) : FRes :=
  let va := f.val (f.flush ftz a)
  let vb := f.val (f.flush ftz b)
  let n := va.neg != vb.neg
  if va.isNan || vb.isNan then (f.nan, sigFlag [va, vb])
  else if va.isInf then (if vb.isInf then (f.nan, FI) else (f.inf n, 0))
  else if vb.isInf then (f.zero n, 0)
  else if vb.isZero then (if va.isZero then (f.nan, FI) else (f.inf n, FZ))
  else if va.isZero then (f.zero n, 0)
  else f.round rm ftz (exDiv f.mw va.ex vb.ex)

def fsqrt (f : Fmt) (rm : Rm) (ftz : Bool) (a : Nat) : FRes :=
  match f.val (f.flush ftz a) with
  | .nan s => (f.nan, if s then FI else 0)
  | .inf n => if n then (f.nan, FI) else (f.inf false, 0)
  | .fin n m e =>
    if m = 0 then (f.zero n, 0) else if n then (f.nan, FI) else f.round rm ftz (exSqrt f.mw (exFin n m e))

def frcp (f : Fmt) (rm : Rm) (ftz : Bool) (a : Nat) : FRes :=
  match f.val (f.flush ftz a) with
  | .nan s => (f.nan, if s then FI else 0)
  | .inf n => (f.zero n, 0)
  | .fin n m e => if m = 0 then (f.inf n, FZ) else f.round rm ftz (exDiv f.mw (exFin false 1 0) (exFin n m e))

def frsq (f : Fmt) (rm : Rm) (ftz : Bool) (a : Nat) : FRes :=
  match f.val (f.flush ftz a) with
  | .nan s => (f.nan, if s then FI else 0)
  | .inf n => if n then (f.nan, FI) else (f.zero false, 0)
  | .fin n m e =>
    if m = 0 then (f.inf n, FZ) else if n then (f.nan, FI) else f.round rm ftz (exRsqrt f.mw (exFin n m e))

/-! ## Exact pairs and double words (R130, R131, R187 to R192) -/

/-- The pair of an exact finite result: its rounded value and the rounded rest. -/
def exPair (f : Fmt) (x : Ex) : Nat × Nat × BitVec 5 :=
  let (hi, fl) := f.round .rn false x
  match f.val hi with
  | .fin n m e =>
    let d := exAdd .rn x (exFin (!n) m e)
    let (lo, lfl) := f.round .rn false d
    let lo := if (f.val lo).isZero then 0 else lo
    (hi, lo, fl ||| (if lfl &&& FX = 0 then 0 else FF ||| FX))
  | _ => (hi, 0, fl)

/-- FADD.X. -/
def faddX (f : Fmt) (a b : Nat) : Nat × Nat × BitVec 5 :=
  let va := f.val a
  let vb := f.val b
  if va.isNan || vb.isNan || va.isInf || vb.isInf then
    let (r, fl) := addVal f .rn false va vb
    (r, if (f.val r).isNan then f.nan else 0, fl)
  else exPair f (exAdd .rn va.ex vb.ex)

/-- FMUL.X. -/
def fmulX (f : Fmt) (a b : Nat) : Nat × Nat × BitVec 5 :=
  let va := f.val a
  let vb := f.val b
  if va.isNan || vb.isNan || va.isInf || vb.isInf then
    let (r, fl) := mulVal f .rn false va vb
    (r, if (f.val r).isNan then f.nan else 0, fl)
  else exPair f (exMul va.ex vb.ex)

/-- FSUB.X is FADD.X with the sign of b inverted; a NaN stays a NaN. -/
def fsubX (f : Fmt) (a b : Nat) : Nat × Nat × BitVec 5 := faddX f a (f.negate b)

/-- The test of R188 on the parts, with the operation on the high parts; none where the sequence runs. -/
def dwTest (f : Fmt) (lows highs : List Nat) (op : FRes) (bad : Bool) : Option (Nat × Nat × BitVec 5) :=
  let vs := (highs ++ lows).map f.val
  if vs.any FVal.isNan || bad then
    some (f.nan, f.nan, sigFlag vs ||| (if (lows.map f.val).any FVal.isInf then FI else 0))
  else if (highs.map f.val).any FVal.isInf then
    some (op.1, if (f.val op.1).isNan then f.nan else 0, op.2)
  else none

/-- A low part infinite with its high part finite. -/
def dwBad (f : Fmt) (h l : Nat) : Bool := (f.val l).isInf && !(f.val h).isInf && !(f.val h).isNan

/-- DWADD (R189). -/
def dwadd (f : Fmt) (ah al bh bl : Nat) : Nat × Nat × BitVec 5 :=
  match dwTest f [al, bl] [ah, bh] (fadd f .rn false ah bh) (dwBad f ah al || dwBad f bh bl) with
  | some r => r
  | none =>
    let (sh, sl, f1) := faddX f ah bh
    let (th, tl, f2) := faddX f al bl
    let (c, f3) := fadd f .rn false sl th
    let (vh, vl, f4) := faddX f sh c
    let (w, f5) := fadd f .rn false tl vl
    let (zh, zl, f6) := faddX f vh w
    (zh, zl, f1 ||| f2 ||| f3 ||| f4 ||| f5 ||| f6)

/-- DWSUB: both parts of b negated. -/
def dwsub (f : Fmt) (ah al bh bl : Nat) : Nat × Nat × BitVec 5 := dwadd f ah al (f.negate bh) (f.negate bl)

/-- DWMUL (R190). -/
def dwmul (f : Fmt) (ah al bh bl : Nat) : Nat × Nat × BitVec 5 :=
  match dwTest f [al, bl] [ah, bh] (fmul f .rn false ah bh) (dwBad f ah al || dwBad f bh bl) with
  | some r => r
  | none =>
    let (ch, c1, f1) := fmulX f ah bh
    let (t1, f2) := fmul f .rn false ah bl
    let (t2, f3) := fmul f .rn false al bh
    let (c2, f4) := fadd f .rn false t1 t2
    let (c3, f5) := fadd f .rn false c1 c2
    let (zh, zl, f6) := faddX f ch c3
    (zh, zl, f1 ||| f2 ||| f3 ||| f4 ||| f5 ||| f6)

/-- DWNORM (R191). -/
def dwnorm (f : Fmt) (ah al : Nat) : Nat × Nat × BitVec 5 :=
  match dwTest f [al] [ah] (fadd f .rn false ah al) (dwBad f ah al) with
  | some r => r
  | none => faddX f ah al

/-! ## Reductions and scans (R193 to R196) -/

/-- The combination of RED.F and SCAN.F: op 0 adds, 1 is the minimum, 2 the maximum. -/
def combF (f : Fmt) (op : Nat) (nanMode ftz : Bool) (u v : Nat) : FRes :=
  if op = 0 then fadd f .rn ftz u v else fminmax f (op = 2) nanMode ftz u v

/-- One level of the tree of R193 over the positions, for any element type: position i takes position i + step. -/
def treeLevel {α : Type} (comb : α → α → α) (x : List (Option α)) : List (Option α) :=
  match x with
  | a :: b :: r =>
    (match a, b with
      | none, v => v
      | u, none => u
      | some u, some v => some (comb u v)) :: treeLevel comb r
  | l => l

/-- The root of the tree over 32 positions. -/
def treeRoot {α : Type} (comb : α → α → α) (x : List (Option α)) : Option α :=
  match treeLevel comb (treeLevel comb (treeLevel comb (treeLevel comb (treeLevel comb x)))) with
  | r :: _ => r
  | [] => none

/-- RED.F over the positions: root and flags. -/
def redF (f : Fmt) (op : Nat) (nanMode ftz : Bool) (x : List (Option Nat)) : Option FRes :=
  let vals := x.filterMap id
  let sig := sigFlag (vals.map (fun v => f.val (f.flush ftz v)))
  let root := treeRoot (fun (u v : FRes) => let (r, fl) := combF f op nanMode ftz u.1 v.1; (r, fl ||| u.2 ||| v.2))
    (x.map (fun v => v.map (fun v => (f.flush ftz v, (0 : BitVec 5)))))
  root.map (fun r => (if (f.val r.1).isNan then f.nan else r.1, r.2 ||| sig))

/-- RED.FC over the positions: hi, lo and flags (R195). -/
def redFC (f : Fmt) (x : List (Option Nat)) : Option (Nat × Nat × BitVec 5) :=
  let vals := x.filterMap id
  let sig := sigFlag (vals.map f.val)
  let root := treeRoot
    (fun (u v : Nat × Nat × BitVec 5) =>
      let (s, t, f1) := faddX f u.1 v.1
      let (e, f2) := fadd f .rn false u.2.1 v.2.1
      let (e, f3) := fadd f .rn false e t
      (s, e, u.2.2 ||| v.2.2 ||| f1 ||| f2 ||| f3))
    (x.map (fun v => v.map (fun v => (v, 0, (0 : BitVec 5)))))
  root.map (fun r => let (hi, lo, fl) := faddX f r.1 r.2.1; (hi, lo, fl ||| r.2.2 ||| sig))

/-- The identity of an exclusive SCAN.F (R196). -/
def scanIdent (f : Fmt) (op : Nat) : Nat := if op = 0 then 0 else f.inf (op = 2)

/-- SCAN.F over the lanes of L in ascending order: out values and flags (R196). -/
def scanF (f : Fmt) (op : Nat) (nanMode ex ftz : Bool) :
    Option Nat → BitVec 5 → List (Nat × Nat) → List (Nat × Nat) × BitVec 5
  | _, fl, [] => ([], fl)
  | acc, fl, (i, v) :: r =>
    let v' := f.flush ftz v
    let sig := sigFlag [f.val v']
    let (a, fl') := match acc with
      | none => (v', (0 : BitVec 5))
      | some u => combF f op nanMode ftz u v'
    let out := if ex then acc.getD (scanIdent f op) else a
    let out := if (f.val out).isNan then f.nan else out
    let (rest, fl'') := scanF f op nanMode ex ftz (some a) (fl ||| sig ||| fl') r
    ((i, out) :: rest, fl'')

/-! ## Conversions (R183 to R186) -/

/-- The format of a CVT code (R89). -/
inductive CvtFmt where
  | flt (f : Fmt)
  | int (signed : Bool) (w : Nat)
  | e8m0
  deriving DecidableEq, Repr

/-- What each code of R89 names. -/
def cvtFmt : Nat → CvtFmt
  | 0 => .flt fp64
  | 1 => .flt fp32
  | 2 => .flt fp16
  | 3 => .flt bf16
  | 4 => .flt e4m3
  | 5 => .flt e5m2
  | 6 => .flt e3m2
  | 7 => .flt e2m3
  | 8 => .flt e2m1
  | 9 => .e8m0
  | 10 => .int true 8
  | 11 => .int false 8
  | 12 => .int true 32
  | 13 => .int false 32
  | 14 => .int true 64
  | _ => .int false 64

/-- An integer encoding's value. -/
def intVal (signed : Bool) (w v : Nat) : Int :=
  let v := v % 2 ^ w
  if signed && bitN v (w - 1) then (v : Int) - 2 ^ w else v

/-- The value of a CVT source (R183). -/
def cvtVal (c : CvtFmt) (ftz : Bool) (v : Nat) : FVal :=
  match c with
  | .flt f => f.val (f.flush ftz (v % 2 ^ f.width))
  | .int s w => let i := intVal s w v; .fin (i < 0) i.natAbs 0
  | .e8m0 => let e := v % 256; if e = 255 then .nan false else .fin false 1 ((e : Int) - 127)

/-- An infinity converted into a format (R184). -/
def cvtInf (f : Fmt) (sat neg : Bool) : FRes :=
  if f.hasInf then (f.inf neg, 0)
  else if f.hasNan && !sat then (f.nan, FI)
  else (f.maxFin neg, FX)

/-- A finite value into a floating-point format; .SAT replaces the overflow result (R184). -/
def cvtFin (f : Fmt) (rm : Rm) (sat ftz : Bool) (x : Ex) : FRes :=
  let (r, fl) := f.round rm ftz x
  if sat && fl &&& FO ≠ 0 then (f.maxFin x.neg, fl) else (r, fl)

/-- The least and greatest values of an integer format. -/
def intMin (signed : Bool) (w : Nat) : Int := if signed then -(2 ^ (w - 1)) else 0
def intMax (signed : Bool) (w : Nat) : Int := if signed then 2 ^ (w - 1) - 1 else 2 ^ w - 1

/-- An integer as the destination holds it: sign- or zero-extended to a register, or a whole pair (R183). -/
def intEnc (w : Nat) (i : Int) : Nat := (i % 2 ^ (if w = 64 then 64 else 32)).toNat

/-- A conversion into an integer format (R185). -/
def cvtInt (s : Bool) (w : Nat) (rm : Rm) (v : FVal) : FRes :=
  match v with
  | .nan _ => (0, FI)
  | .inf n => (intEnc w (if n then intMin s w else intMax s w), FI ||| FX)
  | .fin n m e =>
    let (k, inx) := roundAt rm (exFin n m e) 0
    let i : Int := if n then -(k : Int) else k
    if i < intMin s w then (intEnc w (intMin s w), FI ||| FX)
    else if intMax s w < i then (intEnc w (intMax s w), FI ||| FX)
    else (intEnc w i, if inx then FX else 0)

/-- A conversion into E8M0 (R186). -/
def cvtE8M0 (rm : Rm) (v : FVal) : FRes :=
  match v with
  | .nan s => (255, if s then FI else 0)
  | .inf _ => (255, FI)
  | .fin n m e =>
    if m = 0 then (0, FX)
    else
      let fl : Int := e + bitLen m - 1
      let pow := m = 2 ^ (bitLen m - 1)
      let k := if rm = .ru && !pow then fl + 1 else fl
      if k < -127 then (0, FF ||| FX)
      else if 127 < k then (254, FO ||| FX)
      else ((k + 127).toNat, if pow && !n then 0 else FX)

/-- CVT: the source code, the destination code, mode, .SAT and the flush controls (R183 to R186). -/
def cvt (sc dc : Nat) (rm : Rm) (sat ftz ftz64 : Bool) (v : Nat) : FRes :=
  let sv := cvtVal (cvtFmt sc) (if sc = 0 then ftz64 else ftz) v
  let fd := if dc = 0 then ftz64 else ftz
  match cvtFmt sc, cvtFmt dc with
  | .int s w, .int s' w' =>
    let i := intVal s w v
    (intEnc w' (max (intMin s' w') (min (intMax s' w') i)), 0)
  | _, .int s' w' =>
    let (r, fl) := cvtInt s' w' rm sv
    (r, fl ||| sigFlag [sv])
  | _, .e8m0 => cvtE8M0 rm sv
  | _, .flt f =>
    match sv with
    | .nan sg => (f.nan, if sg || !f.hasNan then FI else 0)
    | .inf n => cvtInf f sat n
    | .fin n m e => cvtFin f rm sat fd (exFin n m e)

end Sys2Proof.Machine
end

