-- ==== Sys2Proof/Machine/Trans.lean ====
section
/-! DEFINITION. Trans: FEX2, FLG2, FSIN and FCOS, correctly rounded (R181, R182). Each function is enclosed between two
fixed-point integers, and the precision grows until both ends round alike; a result that is not exact is irrational, so
it lies strictly inside. -/

namespace Sys2Proof.Machine

/-- Rounds a value known to lie strictly between lo × 2^−p and hi × 2^−p, where both ends round alike. -/
def zivRound (f : Fmt) (rm : Rm) (ftz neg : Bool) (p : Int) (lo hi : Nat) : Option FRes :=
  let a := f.round rm ftz { neg := neg, m := lo, e := -p, st := true }
  let b := f.round rm ftz { neg := neg, m := hi - 1, e := -p, st := true }
  if a = b && bitLen lo ≥ f.mw + 4 then some a else none

/-- The precisions tried, in bits after the point. -/
def zivPrecisions : List Nat := [96, 192, 384, 768]

/-- The first precision that decides; past the last one the result is the uninterpreted Config.elementary (log 8). -/
def ziv (f : Fmt) (fn v : Nat) (try' : Nat → Option FRes) : List Nat → FRes
  | [] => (Config.elementary fn v % 2 ^ f.width, FX)
  | p :: r =>
    match try' p with
    | some x => x
    | none => ziv f fn v try' r

/-- Sum of terms of a series with a step from each term to the next, every quotient rounded down. -/
def series (term : Nat → Nat → Nat) : Nat → Nat → Nat → Nat
  | 0, _, _ => 0
  | n + 1, k, t => t + series term n (k + 1) (term k t)

/-- 2^p × atanh(1/n) or, under `alt`, an alternating atan(1/n), rounded down term by term: Σ 1/((2k+1) n^(2k+1)). -/
def atanInv (alt : Bool) (p n : Nat) : Nat → Nat → Nat → Int
  | 0, _, _ => 0
  | fuel + 1, k, pow =>
    let t : Int := (pow / (2 * k + 1) : Nat)
    (if alt && k % 2 = 1 then -t else t) + atanInv alt p n fuel (k + 1) (pow / (n * n))

/-- 2^p × ln 2, between the value and value + 2p: ln 2 = 2 atanh(1/3). -/
def ln2 (p : Nat) : Nat := 2 * (atanInv false p 3 (p / 3 + 4) 0 (2 ^ p / 3)).toNat

/-- 2^p × π/2, within 40p either way: π/2 = 8 atan(1/5) − 2 atan(1/239). -/
def halfPi (p : Nat) : Nat :=
  (8 * atanInv true p 5 (p / 4 + 4) 0 (2 ^ p / 5) - 2 * atanInv true p 239 (p / 15 + 4) 0 (2 ^ p / 239)).toNat

/-- 2^p × e^y for y below 1, given as 2^p × y, rounded down term by term. -/
def expSeries (p y : Nat) : Nat := series (fun k t => t * y / (2 ^ p * (k + 1))) (p / 2 + 12) 0 (2 ^ p)

/-- FEX2 of a finite non-zero value. -/
def fex2Fin (f : Fmt) (rm : Rm) (ftz : Bool) (v : Nat) (neg : Bool) (m : Nat) (e : Int) : FRes :=
  if bitLen m + e > 10 then
    f.round rm ftz { neg := false, m := 1, e := if neg then -900 else 900, st := true }
  else
    -- 2^200 is a common denominator for every FP32 value
    let x : Int := (if neg then -1 else 1) * ((m * 2 ^ (e + 200).toNat : Nat) : Int)
    let n := x / 2 ^ 200
    let fr := (x % 2 ^ 200).toNat
    if fr = 0 then f.round rm ftz { neg := false, m := 1, e := n }
    else ziv f 4 v (fun p =>
      let lo := fr * 2 ^ p / 2 ^ 200
      let l2 := ln2 p
      let ylo := lo * l2 / 2 ^ p
      let yhi := (lo + 1) * (l2 + 2 * p) / 2 ^ p + 1
      let a := expSeries p ylo
      let b := min (expSeries p yhi + 2 * p) (2 * 2 ^ p)
      zivRound f rm ftz false ((p : Int) - n) a b) zivPrecisions

def fex2 (f : Fmt) (rm : Rm) (ftz : Bool) (a : Nat) : FRes :=
  match f.val (f.flush ftz a) with
  | .nan s => (f.nan, if s then FI else 0)
  | .inf n => if n then (f.zero false, 0) else (f.inf false, 0)
  | .fin n m e => if m = 0 then f.round rm ftz { neg := false, m := 1, e := 0 } else fex2Fin f rm ftz a n m e

/-- FLG2 of a finite positive value: the exponent plus ln t ÷ ln 2, with ln t = 2 atanh((t − 1) ÷ (t + 1)). -/
def flg2Fin (f : Fmt) (rm : Rm) (ftz : Bool) (v m : Nat) (e : Int) : FRes :=
  let w := bitLen m - 1
  let k := e + w
  if m = 2 ^ w then f.round rm ftz { neg := k < 0, m := k.natAbs, e := 0 }
  else ziv f 5 v (fun p =>
    let num := m - 2 ^ w
    let den := m + 2 ^ w
    let z := num * 2 ^ p / den
    let sum := fun zz => ((List.range (p / 2 + 8)).foldl
      (fun (acc : Nat × Nat) i => (acc.1 + acc.2 / (2 * i + 1), acc.2 * zz / 2 ^ p * zz / 2 ^ p)) (0, zz)).1
    let lnlo := 2 * sum z
    let lnhi := 2 * (sum (z + 1) + 2 * p)
    let l2 := ln2 p
    let lo := lnlo * 2 ^ p / (l2 + 2 * p)
    let hi := lnhi * 2 ^ p / l2 + 1
    if 0 ≤ k then zivRound f rm ftz false p (k.toNat * 2 ^ p + lo) (k.toNat * 2 ^ p + hi)
    else
      let b := k.natAbs * 2 ^ p
      zivRound f rm ftz true p (b - hi) (b - lo)) zivPrecisions

def flg2 (f : Fmt) (rm : Rm) (ftz : Bool) (a : Nat) : FRes :=
  match f.val (f.flush ftz a) with
  | .nan s => (f.nan, if s then FI else 0)
  | .inf n => if n then (f.nan, FI) else (f.inf false, 0)
  | .fin n m e =>
    if m = 0 then (f.inf true, FZ) else if n then (f.nan, FI) else flg2Fin f rm ftz a m e

/-- 2^p × sin r or cos r for 2^p × r, the terms of the alternating series rounded down: `k` is the index of the last
factorial step. -/
def sinSeries (p r : Nat) : Nat → Nat → Nat → Bool → Int
  | 0, _, _, _ => 0
  | fuel + 1, k, t, neg =>
    (if neg then -(t : Int) else t) + sinSeries p r fuel (k + 2) (t * r / 2 ^ p * r / 2 ^ p / ((k + 1) * (k + 2))) (!neg)

/-- sin (`cosine` false) or cos of a finite non-zero value; the argument is reduced by π/2 with 280 bits to spare. -/
def fsincosFin (f : Fmt) (rm : Rm) (ftz cosine : Bool) (v : Nat) (neg : Bool) (m : Nat) (e : Int) : FRes :=
  ziv f (if cosine then 7 else 6) v (fun p =>
    let sc := p + 400
    let x := m * 2 ^ (e + sc).toNat
    let pi := halfPi sc
    let q := x / (pi + 40 * sc)
    let rlo := x - q * (pi + 40 * sc)
    let rhi := x - q * (pi - 40 * sc)
    let n := (q + if cosine then 1 else 0) % 4
    let useCos := n % 2 = 1
    let err : Int := sc + 8
    let sn := fun r => sinSeries sc r (sc / 3 + 8) 1 r false
    let cs := fun r => sinSeries sc r (sc / 3 + 8) 0 (2 ^ sc) false
    let lo := if useCos then cs rhi - err else sn rlo - err
    let hi := if useCos then cs rlo + err else sn rhi + err
    let hi := if useCos then min hi (2 ^ sc : Nat) else min hi (rhi : Int)
    let sgn := (2 ≤ n) != (neg && !cosine)
    zivRound f rm ftz sgn sc lo.toNat hi.toNat) zivPrecisions

def fsin (f : Fmt) (rm : Rm) (ftz : Bool) (a : Nat) : FRes :=
  match f.val (f.flush ftz a) with
  | .nan s => (f.nan, if s then FI else 0)
  | .inf _ => (f.nan, FI)
  | .fin n m e => if m = 0 then (f.zero n, 0) else fsincosFin f rm ftz false a n m e

def fcos (f : Fmt) (rm : Rm) (ftz : Bool) (a : Nat) : FRes :=
  match f.val (f.flush ftz a) with
  | .nan s => (f.nan, if s then FI else 0)
  | .inf _ => (f.nan, FI)
  | .fin n m e =>
    if m = 0 then f.round rm ftz { neg := false, m := 1, e := 0 } else fsincosFin f rm ftz true a n m e

end Sys2Proof.Machine
end

