-- ==== Sys2Proof/Machine/Mem.lean ====
section
/-! DEFINITION. Mem: memory at its homes: where an address lives, the slices and their write numbers, atomic operations,
U partials, L1 copies, cameo stamps and versions, watches, and what a group's load sees (R205, R216 to R243). -/

namespace Sys2Proof.Machine

/-! ## Physical addresses -/

/-- The HBM4 stacks present (R29). -/
def State.stacks (s : State) : Nat := match s.boot.variant with | .h => 4 | _ => 8

/-- The dies present. -/
def State.dies (s : State) : Nat := match s.boot.variant with | .h => 1 | _ => 2

/-- The cores and clusters present. -/
def State.ncores (s : State) : Nat := 128 * s.dies
def State.nclusters (s : State) : Nat := 4 * s.dies

/-- Whether a stack of the device backs a local physical address (R205). -/
def State.backed (s : State) (pa : Nat) : Bool := pa / 2 ^ 36 < s.stacks && pa % 2 ^ 36 < 48 * 2 ^ 30

/-- Whether n bytes at an address are all backed. -/
def State.backedRange (s : State) (pa n : Nat) : Bool :=
  s.backed pa && (n = 0 || (s.backed (pa + n - 1) && (pa + n - 1) / 2 ^ 36 = pa / 2 ^ 36))

/-- The home slice of a local physical address: by the ART entry that holds it, or by the default hash (R217). -/
def State.sliceOf (s : State) (pa : Nat) : Nat :=
  let d := pa / 2 ^ 36 / 4
  let hit := (List.range 64).find? (fun n =>
    let w0 := (sget s.art (128 * d + 2 * n)).toNat
    let w1 := (sget s.art (128 * d + 2 * n + 1)).toNat
    bitN w0 63 && bits w0 26 0 ≤ pa / 4096 && pa / 4096 ≤ bits w1 26 0)
  match hit with
  | some n =>
    let w0 := (sget s.art (128 * d + 2 * n)).toNat
    128 * d + bits w0 61 55 + (pa - bits w0 26 0 * 4096) / 2 ^ bits w0 51 47 % 2 ^ bits w0 54 52
  | none => 128 * d + (Config.sliceHash (pa / 128)).toNat

/-- A byte of a space. -/
def State.byte (s : State) (sp : Space) (a : Nat) : Byte :=
  match sp with
  | .mem => sget s.mem a
  | .scratch t => match s.team? t with | some t => sget t.scratch a | none => 0
  | .peer d => sget s.peer (d * 2 ^ 39 + a)

/-- The bytes of a space from an address on. -/
def State.bytes (s : State) (sp : Space) (a : Nat) : Nat → List Byte
  | 0 => []
  | n + 1 => s.byte sp a :: s.bytes sp (a + 1) n

/-- A little-endian number in a space. -/
def State.num (s : State) (sp : Space) (a n : Nat) : Nat := leNat (s.bytes sp a n)

/-- Writes bytes into a space; nothing else. -/
def State.put (s : State) (sp : Space) (l : List (Nat × Byte)) : State :=
  match sp with
  | .mem => { s with mem := ssets s.mem l }
  | .scratch t => s.modTeam t (fun t => { t with scratch := ssets t.scratch l })
  | .peer d => { s with peer := ssets s.peer (l.map (fun e => (d * 2 ^ 39 + e.1, e.2))) }

/-! ## Routes (R372) -/

/-- Whether a link of a die's mask for a device is up. -/
def State.dieRoute (s : State) (die dev : Nat) : Bool :=
  let m := sget s.route (512 * die + dev)
  (List.range 9).any (fun i => m.getLsbD i && !s.linksDown.getLsbD (9 * die + i))

/-- Whether a route to a domain device exists. -/
def State.routeTo (s : State) (dev : Nat) : Bool := s.dieRoute 0 dev || s.dieRoute 1 dev

/-- Whether a request to a place finds its way: peer memory needs a route. -/
def State.reachable (s : State) (sp : Space) : Bool :=
  match sp with
  | .peer d => s.routeTo d
  | _ => true

/-- Whether a VALID entry of an inbound table admits a source's access to n bytes with a right, bit 62 or 61 of word 0
(R371). -/
def inbAdmits (word : Nat → Nat → Nat) (src pa n right : Nat) : Bool :=
  (List.range 256).any (fun i =>
    let w0 := word i 0
    let src' := bits w0 58 50
    bitN w0 63 && bitN w0 right && (src' = src || src' = 511)
      && bits w0 26 0 * 4096 ≤ pa && pa + n ≤ (bits (word i 1) 26 0 + 1) * 4096)

/-- Whether a domain device admits an access of this one with some rights (R371). -/
def State.peerAdmits (s : State) (dev pa n : Nat) (rd wr : Bool) : Bool :=
  let ok := inbAdmits (fun i w => (sget s.peerInb (512 * dev + 2 * i + w)).toNat) s.boot.domIdx.toNat pa n
  (!rd || ok 62) && (!wr || ok 61)

/-- Whether a request to a device that was sent at a time is given up: it finds no route, or 2 ms have passed without an
acknowledgement (R374). -/
def State.overdue (s : State) (dev born : Nat) : Bool := !s.routeTo dev || born + 2000000 ≤ s.time

/-! ## Atomic operations (R252, R253) -/

/-- new(m, b, d) of R252. -/
def atomNew (op : AtomOp) (m b d : Word) : Word :=
  match op with
  | .add => m + b
  | .addF => BitVec.ofNat 32 (fadd fp32 .rn false m.toNat b.toNat).1
  | .min => if m.slt b then m else b
  | .minU => if m < b then m else b
  | .minF => BitVec.ofNat 32 (fminmax fp32 false false false m.toNat b.toNat).1
  | .max => if m.slt b then b else m
  | .maxU => if m < b then b else m
  | .maxF => BitVec.ofNat 32 (fminmax fp32 true false false m.toNat b.toNat).1
  | .and => m &&& b
  | .or => m ||| b
  | .xor => m ^^^ b
  | .xchg => b
  | .cas => if m = d then b else m
  | .inc => if b ≤ m then 0 else m + 1
  | .dec => if m = 0 ∨ b < m then b else m - 1

/-- The 32-bit word at an address of a space. -/
def State.word (s : State) (sp : Space) (a : Nat) : Word := BitVec.ofNat 32 (s.num sp a 4)

/-- A word as bytes by address. -/
def wordBytes (a : Nat) (w : Word) : List (Nat × Byte) := number a (leBytes 4 w.toNat)

/-- Applies the lanes of an ATOM or RED.M in ascending lane order, with the old value each lane saw (R233). -/
def State.applyLanes (s : State) (sp : Space) (op : AtomOp) : List AtomLane → List (Nat × Word) × State
  | [] => ([], s)
  | l :: r =>
    let m := s.word sp l.addr
    let s := s.put sp (wordBytes l.addr (atomNew op m l.b l.d))
    let (rest, s) := s.applyLanes sp op r
    ((l.lane, m) :: rest, s)

/-! ## L1 copies and U partials (R213 to R224) -/

/-- The L1 of a core: its own, or its cluster's fused one (R215). -/
def State.l1Of (s : State) (core : Nat) : Nat := if s.fused.contains (core / 32) then 256 + core / 32 else core

/-- The first core of an L1, by which the home orders partials: a fused L1 counts as its cluster's first (R224). -/
def l1Core (l1 : Nat) : Nat := if l1 < 256 then l1 else 32 * (l1 - 256)

/-- The home recalls the U copies of a line and combines them in ascending core index onto its value (R224). -/
def State.recall (s : State) (line : Nat) : State :=
  let mine := sortBy (fun (a b : UPartial) => l1Core a.l1 ≤ l1Core b.l1) (s.upartials.filter (fun u => u.addr / 128 = line))
  let s := { s with upartials := s.upartials.filter (fun u => u.addr / 128 ≠ line) }
  mine.foldl (fun s u => s.put .mem (wordBytes u.addr (atomNew u.op (s.word .mem u.addr) u.val 0))) s

/-- Combines the partials that one L1 holds of a line at the home. -/
def State.recallOf (s : State) (l1 line : Nat) : State :=
  let mine := s.upartials.filter (fun u => u.l1 = l1 && u.addr / 128 = line)
  let rest := s.upartials.filter (fun u => !(u.l1 = l1 && u.addr / 128 = line))
  let s' := { s with upartials := mine }.recall line
  { s' with upartials := rest }

/-- The granules of a core that serve as its L1: those that no team has reserved as scratchpad (R13, R213). -/
def State.l1Granules (s : State) (core : Nat) : Nat :=
  12 - ((s.teams.filter (fun t => t.core = core)).map Team.granules).sum

/-- The lines that an L1 can hold: 512 a granule, of one core or of a fused cluster (R213, R215). -/
def State.l1Lines (s : State) (l1 : Nat) : Nat :=
  512 * (if l1 < 256 then s.l1Granules l1 else ((List.range 32).map (fun n => s.l1Granules (32 * (l1 - 256) + n))).sum)

/-- The lines that an L1 holds as partials. -/
def State.uLines (s : State) (l1 : Nat) : List Nat :=
  dedup ((s.upartials.filter (fun u => u.l1 = l1)).map (fun u => u.addr / 128))

/-- The distinct lines of buffered bytes (R245). -/
def Txn.lines (t : Txn) : List Nat := dedup (t.bytes.map (fun e => e.1 / 128))

/-- The lines of a group's open transaction. -/
def Group.mLines (g : Group) : Nat := match g.txn with | some t => t.lines.length | none => 0

/-- The transaction lines, state M, that stand in the permanent granule of a core, and in those of an L1 (R214, R222). -/
def State.mOf (s : State) (core : Nat) : Nat := ((s.groups.filter (fun g => g.core = core)).map Group.mLines).sum
def State.mLines (s : State) (l1 : Nat) : Nat := ((s.groups.filter (fun g => s.l1Of g.core = l1)).map Group.mLines).sum

/-- The lines that an L1 holds: S and E copies, partials, transaction lines (R222). -/
def State.l1Used (s : State) (l1 : Nat) : Nat :=
  (s.l1.filter (fun c => c.l1 = l1)).length + (s.uLines l1).length + s.mLines l1

/-- An L1 loses a line: its oldest copy, or with none its first partial, which is combined at its home (R213, R222, R224,
log 60). A transaction line stays. -/
def State.l1Evict (s : State) (l1 : Nat) : State :=
  if s.l1.any (fun c => c.l1 = l1) then
    { s with l1 := s.l1.eraseIdx (s.l1.takeWhile (fun c => c.l1 ≠ l1)).length }
  else match s.uLines l1 with
    | line :: _ => s.recallOf l1 line
    | [] => s

/-- Makes room for n more lines in an L1, by as many evictions as it takes (R213). -/
def State.l1Make (s : State) (l1 n : Nat) : Nat → State
  | 0 => s
  | k + 1 => if s.l1Used l1 + n ≤ s.l1Lines l1 then s else (s.l1Evict l1).l1Make l1 n k

/-- A load fill of a line into an L1: E where no other copy exists, else S everywhere (R222). An L1 that transaction lines
fill takes no copy. -/
def State.l1Fill (s : State) (l1 line : Nat) : State :=
  if s.l1.any (fun c => c.l1 = l1 && c.line = line) then s
  else
  let s := s.l1Make l1 1 1
  if s.l1Lines l1 ≤ s.l1Used l1 then s
  else if s.l1.any (fun c => c.line = line) then
    { s with l1 := s.l1.map (fun c => if c.line = line then { c with excl := false } else c) ++ [(⟨l1, line, false⟩ : L1Copy)] }
  else { s with l1 := s.l1 ++ [(⟨l1, line, true⟩ : L1Copy)] }

/-- The copies of a line that another L1 holds are invalidated by a write (R222). -/
def State.l1Invalidate (s : State) (l1 : Option Nat) (line : Nat) : State :=
  { s with l1 := s.l1.filter (fun c => c.line ≠ line || some c.l1 = l1) }

/-! ## Cameo memory (R237 to R243) -/

/-- The stamp of a line. -/
def State.stamp (s : State) (line : Nat) : DWord := sget s.stamps line

/-- Whether a write of a context to a line must preserve the current version (R240). -/
def State.mustPreserve (s : State) (ctx : Word) (line : Nat) : Bool :=
  s.snaps.any (fun n => n.ctx = ctx && s.stamp line ≤ n.num)

/-- Bytes of the version store in use (R240). -/
def Context.used (c : Context) : Nat := 160 * c.versions.length

/-- Whether the store and its reserve of 1 MiB have room for one more version (R243). -/
def Context.room (c : Context) : Bool := c.used + 160 ≤ c.vsSize + 2 ^ 20

/-- Whether a version store has passed 90 % full (R243). -/
def Context.nearFull (c : Context) : Bool := 9 * c.vsSize < 10 * c.used

/-- Filigree's interrupt when a context's store passes 90 % full (R243). -/
def State.storeIrq (s : State) (ctx : Word) (was : Bool) : State :=
  if !was && (s.context ctx).nearFull then { s with storeIrqs := s.storeIrqs.filter (· ≠ ctx) ++ [ctx] } else s

/-- Copies the current version of a line into the version store; the store counts as full when what it holds reaches
the declared size (R240, R243). -/
def State.preserve (s : State) (ctx : Word) (line : Nat) : State :=
  if s.mustPreserve ctx line then
    State.storeIrq (s.modContext ctx (fun c =>
      let c := { c with versions := c.versions ++ [(⟨line, s.stamp line, s.clock, (s.recall line).bytes .mem (128 * line) 128⟩ : Version)] }
      { c with full := c.full || c.vsSize ≤ c.used })) ctx (s.context ctx).nearFull
  else s

/-- Stamps a line with the clock (R238). -/
def State.stampLine (s : State) (line : Nat) : State := { s with stamps := sset s.stamps line s.clock }

/-- The 128 bytes of a line at a snapshot: the newest version stamped at most s (R241). -/
def State.lineAt (s : State) (line : Nat) (snap : DWord) : List Byte :=
  let now := (s.recall line).bytes .mem (128 * line) 128
  if s.stamp line ≤ snap then now
  else
    let vs := (s.contexts.flatMap Context.versions).filter (fun v => v.line = line && v.stamp ≤ snap)
    match leastBy (fun (a b : Version) => b.stamp < a.stamp) vs with
    | some v => v.data
    | none => now

/-- Whether a snapshot is live for a context (R241). -/
def State.snapLive (s : State) (ctx : Word) (n : DWord) : Bool := s.snaps.any (fun x => x.num = n && x.ctx = ctx)

/-- Takes a snapshot for a context, raising the clock; none when the registry is full (R239). -/
def State.takeSnap (s : State) (ctx : Word) (ckpt : Bool) : Option (DWord × State) :=
  if 4096 ≤ s.snaps.length then none
  else some (s.clock, { s with clock := s.clock + 1, snaps := s.snaps ++ [(⟨s.clock, ctx, ckpt⟩ : Snapshot)] })

/-- Releases a snapshot of a context; nothing when it is not live, and nothing to one that the checkpoint engine took,
which stays live until its job ends (R239, R376). -/
def State.releaseSnap (s : State) (ctx : Word) (n : DWord) : State :=
  { s with snaps := s.snaps.filter (fun x => x.ckpt || !(x.num = n && x.ctx = ctx)) }

/-- The checkpoint engine releases its snapshot (R380). -/
def State.releaseCkpt (s : State) : State := { s with snaps := s.snaps.filter (fun x => !x.ckpt) }

/-! ## Reads by units of the device (R224) -/

/-- Lines that a unit of the device has read, or on which it registers a watch, are recalled (R224). -/
def State.recallLines (s : State) (l : List Nat) : State := l.foldl State.recall s

/-- The lines of n bytes. -/
def linesAt (pa n : Nat) : List Nat :=
  if n = 0 then [] else (List.range ((pa + n - 1) / 128 + 1 - pa / 128)).map (fun i => pa / 128 + i)

/-- A read by a unit of the device: every line it touches is recalled first (R224). -/
def State.homeRead (s : State) (pa n : Nat) : List Byte × State :=
  let s := s.recallLines (linesAt pa n)
  (s.bytes .mem pa n, s)

/-! ## Watches (R254) -/

/-- Whether a watch's condition still holds the lane; the window of a team that has retired reads as zero (log 68). -/
def State.holds (s : State) (w : Watch) : Bool := (s.num w.space w.addr 4 = w.b.toNat) != w.ne

/-- The same of a domain device's watch on this device's memory (R373). -/
def State.peerHolds (s : State) (w : PeerWatch) : Bool := (s.num .mem w.addr 4 = w.b.toNat) != w.ne

/-- The wake word that a queue descriptor names (R332). -/
def State.wakeAddr (s : State) (desc : Nat) : Nat := leNat (s.homeRead (desc + 32) 8).1

/-- Whether the wake word of a queue differs from the value that its watch waits on (R334). -/
def State.wakeDiffers (s : State) (desc : Nat) (notify : Word) : Bool := s.num .mem (s.wakeAddr desc) 4 ≠ notify.toNat

/-- Whether the STATUS field of a signal word that a BARRIER watches is not zero (R338). -/
def State.signalled (s : State) (w : SignalWatch) : Bool := s.num w.space w.addr 8 / 2 ^ 56 ≠ 0

/-- Ends the watches whose condition the last write made false, of lanes, of domain devices, of queues and of BARRIERs; a
watch once ended stays ended (R254, R334, R338, R373). -/
def State.fire (s : State) : State :=
  { s with
    watches := s.watches.map (fun w => if s.holds w then w else { w with fired := true })
    peerWatches := s.peerWatches.map (fun (w : PeerWatch) => if s.peerHolds w then w else { w with fired := true })
    rows := s.rows.map (fun (r : Row) =>
      if r.valid && r.watch && s.wakeDiffers r.qdesc.toNat r.notify then { r with woken := true } else r)
    unmapped := s.unmapped.map (fun (u : Unmapped) =>
      if !u.fired && s.wakeDiffers u.desc u.notify then { u with woken := true } else u)
    packets := s.packets.map (fun (p : Packet) =>
      { p with sigWatch := p.sigWatch.map (fun w => if s.signalled w then { w with seen := true } else w) }) }

/-- Whether a line carries a watch: of a lane, of a domain device, of a mapped queue or of an unmapped one, or of a BARRIER
(R224, R254, R334, R338, R373). -/
def State.watched (s : State) (line : Nat) : Bool :=
  s.watches.any (fun w => w.space = .mem && w.addr / 128 = line)
    || s.peerWatches.any (fun w => w.addr / 128 = line)
    || s.rows.any (fun r => r.watch && !r.watchEnded && s.wakeAddr r.qdesc.toNat / 128 = line)
    || s.unmapped.any (fun u => !u.fired && s.wakeAddr u.desc / 128 = line)
    || s.packets.any (fun p => p.sigWatch.any (fun w => w.space = .mem && w.addr / 128 = line))

/-! ## Writes at the home -/

/-- Counts a write at its slice and gives its number (R234). Only local global memory is numbered here. -/
def State.numberWrite (s : State) (line : Nat) : Word × State :=
  let sl := s.sliceOf (128 * line)
  let n := sget s.slices sl + 1
  (n, { s with slices := sset s.slices sl n })

/-- A write by any agent of bytes of one line of local memory: recall, invalidate, apply, number, end watches (R216,
R222). -/
def State.homeWriteLine (s : State) (l1 : Option Nat) (line : Nat) (l : List (Nat × Byte)) : State :=
  let s := (s.recall line).l1Invalidate l1 line
  ((s.numberWrite line).2.put .mem l).fire

/-- A write by a unit of the device at a physical address, line by line (R332, R307). The address must be backed. -/
def State.homeWrite (s : State) (pa : Nat) (l : List Byte) : State :=
  let cells := number pa l
  (dedup (cells.map (fun c => c.1 / 128))).foldl
    (fun s line => s.homeWriteLine none line (cells.filter (fun c => c.1 / 128 = line))) s

/-- A write is held at its home on a line; later writes to the line wait behind it (R243). -/
def State.heldAt (s : State) (line : Nat) : Bool := s.writes.any (fun w => w.held && w.space = .mem && w.line = line)

/-- The core number of a write that a unit outside the cores makes; the service cores have numbers above it (log 65). -/
def unitCore : Nat := 1024

/-- A unit's write is held at its home (R243). -/
def State.holdWrite (s : State) (ctx : Word) (line : Nat) (cameo : Bool) (cells : List (Nat × Byte))
    (unit : Nat := unitCore) : State :=
  { s with
    writes := s.writes ++ [({ id := s.nextId, core := unit, slot := 0, team := none, ctx := ctx, space := .mem, line := line
                              kind := .store cells, cameo := cameo, entered := true, held := true } : Write)]
    nextId := s.nextId + 1 }

/-! ## What a group's load sees (R227, R228) -/

/-- A write's bytes, where it is a store. -/
def WriteKind.cells : WriteKind → List (Nat × Byte)
  | .store l => l
  | _ => []

def WriteKind.isStore : WriteKind → Bool
  | .store _ => true
  | _ => false

/-- What a group sees of its core's order before the homes have applied it: its own writes; another group's, unless it
goes to a scratchpad, which its owning core makes readable by all at once (R223), and so nothing of another group behind
such a write (R228). -/
def orderSeen (slot : Nat) : List Write → List Write
  | [] => []
  | w :: r =>
    if w.slot = slot then w :: orderSeen slot r
    else if w.space.isScratch then r.filter (fun v => v.slot = slot)
    else w :: orderSeen slot r

/-- The writes that an access of a group sees before their homes apply them: those in the core order, then the group's own
that were issued before it. -/
def State.visible (s : State) (core slot before : Nat) : List Write :=
  orderSeen slot (s.writes.filter (fun w => w.entered && w.core = core))
    ++ s.writes.filter (fun w => !w.entered && w.core = core && w.slot = slot && w.id < before)

/-- The value of one byte, overlaid by the stores of a list in order. -/
def overlay (ws : List Write) (sp : Space) (a : Nat) (b : Byte) : Byte :=
  ws.foldl (fun b w => if w.space = sp then
    w.kind.cells.foldl (fun b c => if c.1 = a then c.2 else b) b else b) b

/-- The bytes that a group sees at an address. -/
def State.seen (s : State) (core slot before : Nat) (sp : Space) (a n : Nat) : List Byte :=
  let ws := s.visible core slot before
  (List.range n).map (fun i => overlay ws sp (a + i) (s.byte sp (a + i)))

/-- A pending ATOM or RED.M of the core's order, or of the group, on a line: a read of the line must wait for it. -/
def State.rmwPending (s : State) (core slot before : Nat) (sp : Space) (line : Nat) : Bool :=
  (s.visible core slot before).any (fun w => w.space = sp && w.line = line && !w.kind.isStore)

/-- The writes of other groups of the core that a read of a line sees before their homes applied them (R231). -/
def State.sawIds (s : State) (core slot before : Nat) (sp : Space) (line : Nat) : List Nat :=
  (s.visible core slot before).filterMap (fun w => if w.slot ≠ slot ∧ w.space = sp ∧ w.line = line then some w.id else none)

/-- Unperformed accesses of a group: pending writes, unsampled loads, and writes it has seen (R231). -/
def State.outstanding (s : State) (core slot : Nat) : List Nat :=
  let saw := match s.group? core slot with | some g => g.saw | none => []
  (s.writes.filter (fun w => w.core = core && w.slot = slot)).map Write.id
    ++ (s.loads.filter (fun l => l.core = core && l.slot = slot && !l.sampled)).map PendingLoad.id
    ++ (s.writes.filter (fun w => saw.contains w.id)).map Write.id

/-- A group has no write that is not acknowledged and has seen none that is not performed (R232). -/
def State.writesDone (s : State) (core slot : Nat) : Bool :=
  !s.writes.any (fun w => w.core = core && w.slot = slot)
    && !s.acks.any (fun a => a.core = core && a.slot = slot)
    && (match s.group? core slot with
        | some g => !s.writes.any (fun w => g.saw.contains w.id)
        | none => true)

/-- A group has no load whose data has not returned. -/
def State.loadsDone (s : State) (core slot : Nat) : Bool :=
  !s.loads.any (fun l => l.core = core && l.slot = slot)

/-- Posts a write request at the end of the group's queue, with the slack tag of the issue (R218) and the time (R374). -/
def State.post (s : State) (w : Write) : State :=
  { s with writes := s.writes ++ [{ w with id := s.nextId, tag := s.cur.tag, born := s.time }], nextId := s.nextId + 1 }

/-- The writes that stand before a write in its core's order and are yet to be applied (R228). -/
def State.ahead (s : State) (w : Write) : List Write :=
  (s.writes.takeWhile (fun v => v.id ≠ w.id)).filter (fun v => v.entered && v.core = w.core)

/-- Whether a write is performed for every group of its core: in the core order, with no write to a scratchpad at or
before it that its owning core has yet to apply (R223, R228). -/
def State.coreDone (s : State) (w : Write) : Bool :=
  w.entered && w.space.isScratch = false && (s.ahead w).all (fun v => !v.space.isScratch)

/-! ## Writes that their homes have applied before an earlier write to a scratchpad (R206, R223, R228) -/

/-- Whether a write of another group, to a scratchpad, before such a write in the core order is yet to be applied. -/
def State.waiting (s : State) (slot : Nat) (e : EarlyWrite) : Bool :=
  s.writes.any (fun v => e.before.contains v.id && v.slot ≠ slot)

/-- Whether a group must not read a line at its home yet: another group of its core has written it, and a write that stands
before that one in the core order is not readable yet (R228). -/
def State.hidden (s : State) (core slot : Nat) (sp : Space) (line : Nat) : Bool :=
  s.early.any (fun e => e.core = core && e.slot ≠ slot && e.space = sp && e.line = line && s.waiting slot e)

/-- Whether a write of a group has been applied and is yet to show to the other groups of its core. -/
def State.veiled (s : State) (core slot : Nat) : Bool :=
  s.early.any (fun e => e.core = core && e.slot = slot && s.writes.any (fun v => e.before.contains v.id))

/-- What stays of an applied write until the scratchpads show what stands before it. -/
def State.noteEarly (s : State) (w : Write) : State :=
  let before := ((s.ahead w).filter (fun v => v.space.isScratch)).map Write.id
  let live := s.early.filter (fun e => s.writes.any (fun v => v.id ≠ w.id && e.before.contains v.id))
  { s with early := if before.isEmpty then live else
      live ++ [({ core := w.core, slot := w.slot, space := w.space, line := w.line, before := before } : EarlyWrite)] }

/-- Every core's buffers lose the copies of some lines. -/
def State.dropText (s : State) (lines : List (Space × Nat)) : State :=
  { s with cores := s.cores.map (fun (b : CoreBlock) =>
      { b with text := b.text.filter (fun c => !lines.contains (c.space, c.line)) }) }

/-- A lane has read at its home, or needs no such reading. -/
def LoadLane.readHome (x : LoadLane) : Bool := !x.data.isEmpty || !x.home.isEmpty

/-- The home bytes that loads of a core have read before their turn are dropped where a write of the core changes their
line, and all of them at an acquire of the core: they are requested again (R227, R231). -/
def State.dropEarly (s : State) (core : Nat) (p : LoadLane → Bool) : State :=
  { s with loads := s.loads.map (fun (l : PendingLoad) =>
      let early := fun (x : LoadLane) => x.data.isEmpty && !x.home.isEmpty && p x
      if l.core = core && !l.ordered && l.lanes.any early then
        { l with homed := false, lanes := l.lanes.map (fun (x : LoadLane) =>
            if early x then { x with home := [], way := { since := s.time } } else x) }
      else l) }

/-- A load of the core has taken its place in the core order and is yet to read this line at its home: no later write of
the core may be applied there before it (R228). -/
def State.lateLoad (s : State) (core : Nat) (sp : Space) (line : Nat) : Bool :=
  s.loads.any (fun l => l.core = core && l.ordered && !l.homed
    && l.lanes.any (fun x => x.data.isEmpty && x.space = sp && x.addr / 128 = line))

end Sys2Proof.Machine
end

