-- ==== Sys2Proof/Machine/Arbiter.lean ====
section
/-! DEFINITION. Arbiter: which requests for lines of memory the ordering rules let go to their homes (R227 to R231), and the
arbitration by slack tag at the bangles and the slices (R19, R218). -/

namespace Sys2Proof.Machine

/-! ## What the ordering rules let go (R227, R228, R231) -/

/-- The write of an id. -/
def State.write? (s : State) (id : Nat) : Option Write := s.writes.find? (fun w => w.id = id)

/-- Whether every access of some ids has been performed (R231). -/
def State.depsDone (s : State) (l : List Nat) : Bool :=
  s.writes.all (fun w => !l.contains w.id) && s.loads.all (fun d => d.sampled || !l.contains d.id)

/-- Whether what the core order puts before a release has been performed for its scope: every write before it, for happens
before follows the core order; within TEAM scope, where that order itself shows the others, those to scratchpads (R228, R231).
The writes of its own instruction are none of them. -/
def State.coreKept (s : State) (w : Write) : Bool :=
  w.rel.scope = 0 || (s.ahead w).all (fun v =>
    (v.slot = w.slot && w.rel.first ≤ v.id) || (w.rel.scope = 1 && !v.space.isScratch))

/-- Whether a write has been sent to its home: in the core order, and its release order kept (R228, R231). -/
def State.sent (s : State) (w : Write) : Bool := w.entered && s.depsDone w.rel.deps && s.coreKept w

/-- Whether a write reads at its home what its group must not see yet: an ATOM does (R228). -/
def State.unseen (s : State) (w : Write) : Bool :=
  match w.kind with
  | .atom .. => s.hidden w.core w.slot w.space w.line
  | _ => false

/-- Whether the ordering rules let a write go to its home: its release order is kept, it is the first of its core's order on
its line, no write on the line is held, and no load of the core that stands before it in the core order is yet to read the
line (R227, R228, R231, R243). -/
def State.mayGo (s : State) (w : Write) : Bool :=
  s.sent w && !w.held
    && (s.ahead w).all (fun v => !(v.space = w.space && v.line = w.line))
    && s.writes.all (fun v => !(v.held && v.space = w.space && v.line = w.line))
    && s.reachable w.space && !s.lateLoad w.core w.space w.line && !s.unseen w

/-- Whether a load may read a line at its home, before or after its place in the core order: it is yet to read it, no earlier
load of the group is, no ATOM or RED.M that it must see is pending there, and nothing there is yet to be hidden from it (R227
to R229). -/
def State.mayRead (s : State) (l : PendingLoad) (sp : Space) (line : Nat) : Bool :=
  !l.sampled && !l.atom && !l.homed
    && s.loads.all (fun e => e.sampled || e.core ≠ l.core || e.slot ≠ l.slot || l.id ≤ e.id
        || e.lanes.all (fun x => x.space ≠ sp || x.addr / 128 ≠ line || (e.ordered && x.readHome)))
    && (l.ordered || !s.rmwPending l.core l.slot l.id sp line) && s.reachable sp && !s.hidden l.core l.slot sp line

/-! ## Arbitration (R218) -/

/-- A request for a line of local memory, as an arbiter sees it: its id, its source (R8), its slack tag and its way. -/
structure Request where
  id : Nat
  line : Nat
  src : Nat
  tag : Nat
  way : Way
  deriving DecidableEq, Repr

/-- The request of a write, and that of a load for a line. -/
def Write.request (w : Write) : Request := { id := w.id, line := w.line, src := w.core, tag := w.tag, way := w.way }
def PendingLoad.request (l : PendingLoad) (line : Nat) : Request :=
  { id := l.id, line := line, src := l.core, tag := l.tag
    way := ((l.lanes.find? (fun x => x.space = .mem && x.addr / 128 = line)).map LoadLane.way).getD {} }

/-- The local lines that a load is yet to read at their homes. -/
def PendingLoad.linesLeft (l : PendingLoad) : List Nat :=
  dedup ((l.lanes.filter (fun x => x.space = .mem && !x.readHome)).map (fun x => x.addr / 128))

/-- The requests of groups that the ordering rules let go to the homes: one that they keep back does not compete. -/
def State.requests (s : State) : List Request :=
  (s.writes.filter (fun w => w.space = .mem && s.mayGo w)).map Write.request
    ++ s.loads.flatMap (fun l => (l.linesLeft.filter (s.mayRead l .mem)).map l.request)

/-- The source numbers of units outside the groups (R8, log 11): the engine jobs of a core; the front complex is unitCore, and
the service cores follow it. -/
def jobSrc (core : Nat) : Nat := 2048 + core

/-- The die on which a source injects its requests: a signet core's is that of its cluster; the I/O die's units have none. -/
def srcDie (src : Nat) : Nat :=
  if src < unitCore then src / 128
  else if jobSrc 0 ≤ src then (src - jobSrc 0) / 128
  else if unitCore < src ∧ src ≤ unitCore + 8 then (src - unitCore - 1) / 4
  else 9

/-- The request of an asker for a line at a stage: the engine jobs, the signet cores and the front complex have tag 8. -/
def askRequest (src tag since id line : Nat) (stage : Stage) : Request :=
  { id := id, line := line, src := src, tag := tag, way := { stage := stage, since := since } }

/-- The requests of engine jobs that wait in the queues of slices: their next words have asked, and others came first. -/
def State.jobRequests (s : State) : List Request :=
  s.jobs.flatMap (fun j => if j.started && !j.stopped then
    j.asked.map (fun l => askRequest (jobSrc j.core) 8 j.born j.id l .slice) else [])

/-- The effective slack of a request: its tag less one for every 64 cycles of 2.7 GHz that it has waited (R4, R218). -/
def Request.slack (r : Request) (now : Nat) : Nat := r.tag - (now - r.way.since) * 27 / 640

/-- The arbiter's order: the lowest effective slack, then the longest wait, then the lower source (R8, R218). -/
def Request.beats (now : Nat) (a b : Request) : Bool :=
  if a.slack now ≠ b.slack now then a.slack now < b.slack now
  else if a.way.since ≠ b.way.since then a.way.since < b.way.since else a.src < b.src

/-- The order in which a source has sent its requests: at its injection by their wait, those of one time in issue order and
those of one load by line; afterwards as they were injected. -/
def Request.older (a b : Request) : Bool :=
  if a.way.seq ≠ b.way.seq then a.way.seq < b.way.seq
  else if a.way.since ≠ b.way.since then a.way.since < b.way.since
  else if a.id ≠ b.id then a.id < b.id else a.line < b.line

/-- The bangle that carries a request (R19): between dies one of bangles 0 to 3. -/
def State.bangleOf (s : State) (r : Request) : Nat :=
  let sl := s.sliceOf (128 * r.line)
  let b := (Config.bangle r.src sl).toNat
  if srcDie r.src = sl / 128 then b else b % 4

/-- Whether two requests wait at one arbitration point: the injection onto a bangle of a die, or the queue of a slice. -/
def State.meetAt (s : State) (a b : Request) : Bool :=
  a.way.stage = b.way.stage && (match a.way.stage with
    | .source => srcDie a.src = srcDie b.src && s.bangleOf a = s.bangleOf b
    | .bangle => false
    | .slice => s.sliceOf (128 * a.line) = s.sliceOf (128 * b.line))

/-- Whether the arbiter of the point at which a request waits takes it now: it is the oldest of its source there, and of the
oldest of every source, the jobs' among them, the one with the least slack (R218). -/
def State.wins (s : State) (r : Request) : Bool :=
  let rs := s.requests
  rs.all (fun q => (q.id = r.id && q.line = r.line) || !s.meetAt r q
    || (if q.src = r.src then r.older q
        else r.beats s.time q || rs.any (fun o => o.src = q.src && s.meetAt o q && o.older q && r.beats s.time o)))
    && s.jobRequests.all (fun q => !s.meetAt r q || r.beats s.time q)

/-- Whether a request is served at its slice now. -/
def State.served (s : State) (r : Request) : Bool := r.way.stage = .slice && s.wins r

/-- Whether a request may be injected onto its bangle now. -/
def State.canInject (s : State) (r : Request) : Bool := r.way.stage = .source && s.wins r

/-- Whether a request may reach the queue of its slice: the requests of one source for a slice arrive in the order in which
they were injected. How long one travels is free (log 11). -/
def State.canArrive (s : State) (r : Request) : Bool :=
  let before := fun (q : Request) => q.src = r.src && q.way.stage = .bangle && q.way.seq < r.way.seq
    && s.sliceOf (128 * q.line) = s.sliceOf (128 * r.line)
  r.way.stage = .bangle && !s.requests.any before

/-- The way of a request after its injection, and after its arrival. -/
def Way.injected (s : State) : Way := { stage := .bangle, since := s.time, seq := s.nextId }
def Way.arrived (w : Way) (s : State) : Way := { w with stage := .slice, since := s.time }

/-- Whether a write is applied now: the ordering rules let it go, and the arbiter of its slice takes it (R218). -/
def State.canApply (s : State) (w : Write) : Bool := s.mayGo w && (w.space ≠ .mem || s.served w.request)

/-- Whether nothing at a point of arbitration stands before a request that asks there now: a request of its own source does,
and one of another source that the arbiter takes first. -/
def State.clear (s : State) (r : Request) : Bool :=
  (s.requests ++ s.jobRequests).all (fun q => !s.meetAt r q || (q.src = r.src && r.id ≤ q.id) || (q.src ≠ r.src && r.beats s.time q))

/-- Whether the arbiters let an asker's requests for some lines, which it makes in this step, be injected and served in it. -/
def State.askServed (s : State) (src tag since id : Nat) (lines : List Nat) : Bool :=
  (s.requests.isEmpty && s.jobRequests.isEmpty)
    || lines.all (fun l => s.clear (askRequest src tag since id l .source) && s.clear (askRequest src tag since id l .slice))

/-- The same of a unit outside the groups and the jobs. -/
def State.unitServed (s : State) (src since : Nat) (lines : List Nat) : Bool := s.askServed src 8 since 0 lines

/-- The same of a read that a group's instruction makes as it issues: its group has asked since `asked`. -/
def State.issueServed (s : State) (core slot : Nat) (lines : List Nat) : Bool :=
  s.askServed core s.cur.tag (((s.group? core slot).bind Group.asked).getD s.time) s.nextId lines

/-- A group asks from now on; and what it asked has been served. -/
def State.ask (s : State) (core slot : Nat) : State :=
  s.modGroup core slot (fun g => { g with asked := some (g.asked.getD s.time) })
def State.answered (s : State) (core slot : Nat) : State :=
  if ((s.group? core slot).bind Group.asked).isSome then s.modGroup core slot (fun g => { g with asked := none }) else s

end Sys2Proof.Machine
end

