-- ==== Sys2Proof/Machine/Ops.lean ====
section
/-! DEFINITION. Ops: the operations every meaning shares: address ranges and translation (R204, R319 to R321), taking an
exception, one operation for every trap (R303 to R307, R314), the completion of an instruction (R155, R164), the
retirement of a group (R60), and the actions that end a trap, the return from it (R311). -/

namespace Sys2Proof.Machine

/-! ## Address ranges (R204) -/

/-- The rights an access needs, and its KIND bits (R305, R319). -/
structure Access where
  r : Bool := false
  w : Bool := false
  x : Bool := false
  kind : Byte := 0
  deriving DecidableEq, Repr

def Access.load : Access := { r := true, kind := 1 }
def Access.store : Access := { w := true, kind := 2 }
def Access.rmw : Access := { r := true, w := true, kind := 3 }
def Access.fetch : Access := { x := true, kind := 4 }

/-- Where an address points before translation. -/
inductive Range where
  | global
  /-- A byte of a resident team's scratchpad. -/
  | window (team off : Nat)
  /-- The window of a gang peer that has retired (R208). -/
  | gone
  deriving DecidableEq, Repr

/-- A PROTECT record at an address. -/
def protect (sub : Byte) (acc : Access) (va : DWord) (pte : DWord := 0) : SvcRecord :=
  { code := 0x05, kind := acc.kind, sub := sub, addr := va, auxa := pte }

/-- The gang peer of rank k of a team, while it is resident (R208). -/
def State.peerTeam (s : State) (t : Team) (k : Nat) : Option Team :=
  s.teams.find? (fun u => u.launch = t.launch && u.gang = t.gang && u.rank = k)

/-- Check 1 of R248: the range of n bytes at an address, for a team, or for the keeper (none). -/
def State.range (s : State) (t : Option Team) (va : DWord) (n : Nat) (acc : Access) : Except SvcRecord Range :=
  let a := va.toNat
  let e := a + n
  if 2 ^ 57 ≤ a then .error (protect 1 acc va)
  else match t with
    | none =>
      if 0x0100000000000000 ≤ a ∧ e ≤ 0x0100008000000000 then .ok .global
      else .error (protect (if 0x01F0000000000000 ≤ a then 3 else 1) acc va)
    | some t =>
      if a < 0x01F0000000000000 then
        if e ≤ 0x01F0000000000000 then .ok .global else .error (protect 1 acc va)
      else if a < 0x01F0000001000000 then
        let off := a - 0x01F0000000000000
        if off + n ≤ 65536 * t.granules then .ok (.window t.id off) else .error (protect 1 acc va)
      else
        let k := (a - 0x01F0000001000000) / 0x00100000
        let off := (a - 0x01F0000001000000) % 0x00100000
        if min 32 t.gs ≤ k then .error (protect 1 acc va)
        else if 65536 * t.granules < off + n then .error (protect 1 acc va)
        else match s.peerTeam t k with
          | some u => .ok (.window u.id off)
          | none => .ok .gone

/-! ## Translation (R319 to R321) -/

/-- A leaf: its entry and the size of its page, as a power of two. -/
structure Leaf where
  pte : DWord
  log : Nat
  deriving DecidableEq, Repr

/-- The page size of a leaf by its level and SZ; none where R320 calls it malformed. -/
def leafLog : Nat → Nat → Option Nat
  | 2, 0 => some 30
  | 2, 1 => some 36
  | 1, 0 => some 21
  | 0, 0 => some 12
  | 0, 1 => some 16
  | _, _ => none

/-- The reserved fields of an entry are zero, with all the rights of a table entry and DEV of a local leaf (R319). -/
def pteFormed (e : Nat) (leaf : Bool) : Bool :=
  bits e 54 51 = 0 && bits e 41 39 = 0 && bits e 11 0 = 0
    && (if leaf then bitN e 55 || bits e 50 42 = 0 else bits e 61 55 = 0 && bits e 50 42 = 0)

/-- A PAGEFAULT record: the entry read and its address (R306). -/
def pageFault (sub : Byte) (acc : Access) (va : DWord) (e ea : Nat) : SvcRecord :=
  { code := 0x04, kind := acc.kind, sub := sub, addr := va, auxa := BitVec.ofNat 64 e, auxb := BitVec.ofNat 64 ea }

/-- A frame on the retirement lists (R328). -/
def State.retiredAt (s : State) (a : Nat) : Bool := s.retired.contains (a / 4096)

/-- Whether a reading of local memory meets a lasting error: its frame is retired, or its sector fails again (R328). -/
def State.readFails (s : State) (pa : Nat) : Bool := s.retiredAt pa || s.faulty.contains (pa / 32, 3)

/-- MEMERR at a sector (R306, R328). -/
def memErr (acc : Access) (va : DWord) (a : Nat) : SvcRecord :=
  { code := 0x0B, kind := acc.kind, addr := va, auxa := BitVec.ofNat 64 (a / 32 * 32) }

/-- A walk from a table at a level (R320): a leaf, or the record of its fault; MEMERR where the reading of an entry meets a
lasting error (R328). -/
def State.walk (s : State) (acc : Access) (va : DWord) : Nat → Nat → Except SvcRecord Leaf
  | table, level =>
    let ea := table + 8 * bits va.toNat (20 + 9 * level) (12 + 9 * level)
    let e := (s.recall (ea / 128)).num .mem ea 8
    if s.readFails ea then .error (memErr acc va ea) else
    let bad := fun (sub : Byte) => (.error (pageFault sub acc va e ea) : Except SvcRecord Leaf)
    if !bitN e 63 then bad (BitVec.ofNat 8 level)
    else if bitN e 62 then
      match leafLog level (bits e 61 60) with
      | some log =>
        if pteFormed e true && bits e 38 12 * 4096 % 2 ^ log = 0 then .ok ⟨BitVec.ofNat 64 e, log⟩ else bad 5
      | none => bad 5
    else match level with
      | 0 => bad 5
      | level + 1 =>
        if !pteFormed e false then bad 5
        else if !s.backed (bits e 38 12 * 4096) then .error (protect 1 acc va)
        else s.walk acc va (bits e 38 12 * 4096) level

/-- The entries that a walk reads, in its order. -/
def State.walkReads (s : State) (va : DWord) : Nat → Nat → List Nat
  | table, level =>
    let ea := table + 8 * bits va.toNat (20 + 9 * level) (12 + 9 * level)
    let e := (s.recall (ea / 128)).num .mem ea 8
    ea :: (if s.readFails ea || !bitN e 63 || bitN e 62 || !pteFormed e false || !s.backed (bits e 38 12 * 4096) then []
      else match level with
        | 0 => []
        | level + 1 => s.walkReads va (bits e 38 12 * 4096) level)

/-- A translation: a place in memory and whether its page is cameo. -/
structure Place where
  space : Space
  addr : Nat
  cameo : Bool := false
  deriving DecidableEq, Repr

/-- The rights and the physical place of a leaf (R321, R371). -/
def State.leafPlace (s : State) (acc : Access) (va : DWord) (l : Leaf) : Except SvcRecord Place :=
  let e := l.pte.toNat
  let a := bits e 38 12 * 4096 + va.toNat % 2 ^ l.log
  if (acc.r && !bitN e 59) || (acc.w && !bitN e 58) || (acc.x && !bitN e 57) then .error (protect 0 acc va l.pte)
  else if bitN e 55 then
    let d := bits e 50 42
    if s.boot.domSize.toNat ≤ d ∨ d = s.boot.domIdx.toNat then .error (protect 1 acc va l.pte)
    else if s.routeTo d && !s.peerAdmits d a 1 ((acc.r || acc.x) && !acc.w) acc.w then .error (protect 1 acc va l.pte)
    else .ok { space := .peer d, addr := a, cameo := bitN e 56 }
  else if s.backed a then .ok { space := .mem, addr := a, cameo := bitN e 56 }
  else .error (protect 1 acc va l.pte)

/-- The cached translation of an address in one unit's entries, of a context or of a signet core's tables. -/
def tlbFind (l : List TlbEntry) (unit : Nat) (ctx : Word) (va : DWord) (signet : Bool := false) : Option Leaf :=
  (l.find? (fun e => e.signet = signet && e.unit = unit && e.ctx = ctx && e.page = va.toNat / 2 ^ e.log)).map
    (fun e => ⟨e.pte, e.log⟩)

/-- The cached translation of an address for a core: in its micro-TLB, else in its cluster's TLB (R10, R321). -/
def State.tlbHit (s : State) (core : Nat) (ctx : Word) (va : DWord) : Option Leaf :=
  (tlbFind s.utlb core ctx va).or (tlbFind s.tlb (core / 32) ctx va)

/-- Whose accesses a translation unit serves: a core's, the jobs of a cluster's cores, a cluster's signet core's (R9), or
those of a unit that caches no translation. -/
inductive Via where
  | core (c : Nat)
  | cluster (cl : Nat)
  | signet (cl : Nat)
  | none
  deriving DecidableEq, Repr

def State.cached (s : State) (v : Via) (ctx : Word) (va : DWord) : Option Leaf :=
  match v with
  | .core c => s.tlbHit c ctx va
  | .cluster cl => tlbFind s.tlb cl ctx va
  | .signet cl => tlbFind s.tlb cl 0 va true
  | .none => Option.none

/-- Translates a global address for a context: through the TLBs, else by a walk (R205, R321). -/
def State.translateCtx (s : State) (via : Via) (c : CtxDesc) (va : DWord) (acc : Access) : Except SvcRecord Place :=
  match s.cached via c.ctxid va with
  | some l => s.leafPlace acc va l
  | none =>
    match s.walk acc va c.ptroot 4 with
    | .ok l => s.leafPlace acc va l
    | .error t => .error t

/-- Translates a global address for a group of a core; the keeper's map is fixed (R302). -/
def State.translate (s : State) (core : Nat) (t : Option Team) (va : DWord) (acc : Access) : Except SvcRecord Place :=
  match t with
  | some t => s.translateCtx (.core core) t.ctx va acc
  | none =>
    let p := va.toNat - 0x0100000000000000
    if s.backed p then .ok { space := .mem, addr := p } else .error (protect 1 acc va)

/-! ## Text and PCs -/

/-- The text base and size of a group's code object (R99, R302). -/
def State.textOf (s : State) (g : Group) : DWord × Nat :=
  match s.teamOf g with
  | some t => (t.textBase, t.textSize)
  | none => (s.keeperText, s.keeperSize)

/-- A PC as a text offset, modulo 2^32 (R305). -/
def State.pcOff (s : State) (g : Group) (pc : DWord) : Word := (pc - (s.textOf g).1).setWidth 32

/-! ## Taking an exception (R303 to R307, R314) -/

/-- The bytes of a service record (R305). -/
def recordBytes (core slot lane : Nat) (gen : BitVec 16) (r : SvcRecord) : List Byte :=
  [r.code, r.kind, 0, 0, 0, 0, 0, 0, r.sub, BitVec.ofNat 8 lane, BitVec.ofNat 8 slot, BitVec.ofNat 8 core]
    ++ leBytes 2 r.areg.toNat ++ leBytes 2 gen.toNat ++ leBytes 4 r.teamLin.toNat ++ leBytes 4 r.mates.toNat
    ++ leBytes 4 r.ctxid.toNat ++ leBytes 4 r.seq.toNat ++ leBytes 4 r.pcoff.toNat ++ leBytes 4 r.arg.toNat
    ++ leBytes 8 r.addr.toNat ++ leBytes 8 r.auxa.toNat ++ leBytes 8 r.auxb.toNat

/-- Whether a code parks under the system-call cause (R303). -/
def sysCode (c : Byte) : Bool := c = 0x10 || c = 0x11 || c = 0x13 || 0x80 ≤ c

/-- Whether a record goes to the mailbox: SYSC, not forwarded (R303, R316). -/
def SvcRecord.toMailbox (r : SvcRecord) : Bool := r.code = 0x11 && !r.fwd

/-- The generation of a slot (R313). -/
def State.gen (s : State) (core slot : Nat) : BitVec 16 := sget (s.coreBlock core).gens slot

/-- The physical address of a core's mailbox (R307). -/
def State.mbxPa (s : State) (core : Nat) : Nat := (s.coreBlock core).mbxBase.toNat % 2 ^ 39

/-- A write by the device that is dropped where no stack backs the address. -/
def State.deviceWrite (s : State) (pa : Nat) (l : List Byte) : State :=
  if s.backedRange pa l.length then s.homeWrite pa l else s

/-- A read by the device; zero where no stack backs the address. -/
def State.deviceNum (s : State) (pa n : Nat) : Nat :=
  if s.backedRange pa n then leNat (s.homeRead pa n).1 else 0

/-! ### The error log (R328, R386) -/

/-- The bytes of a log entry. -/
def elogBytes (cls unit count addr time : Nat) : List Byte :=
  leBytes 4 cls ++ leBytes 4 0 ++ leBytes 4 unit ++ leBytes 4 count ++ leBytes 8 addr ++ leBytes 8 time

/-- The place of the entry of a write count. -/
def State.elogAt (s : State) (w : Nat) : Nat := s.elogBase.toNat + 32 * (w % 256)

/-- Whether the entry of write count w has this class, unit and address and stands within 1 ms. -/
def State.elogSame (s : State) (cls unit addr w : Nat) : Bool :=
  let e := s.bytes .mem (s.elogAt w) 32
  field e 0 4 = cls && field e 8 4 = unit && field e 16 8 = addr && field e 24 8 ≤ s.time && s.time ≤ field e 24 8 + 1000000

/-- The write counts whose entries stand in the ring, the newest first. -/
def State.elogCounts (s : State) : List Nat :=
  let h := s.elogHead.toNat
  (List.range (if s.elogWrapped then 256 else min h 256)).map (fun k => (h + 2 ^ 32 - 1 - k) % 2 ^ 32)

/-- Logs an error: a repeat within 1 ms is counted in its entry, else an entry is written and the head advances. -/
def State.elog (s : State) (cls unit addr : Nat) : State :=
  match s.elogCounts.find? (fun w => s.elogSame cls unit addr w) with
  | some w =>
    let n := s.num .mem (s.elogAt w + 12) 4
    s.deviceWrite (s.elogAt w + 12) (leBytes 4 (n + 1))
  | none =>
    let h := s.elogHead + 1
    { s.deviceWrite (s.elogAt s.elogHead.toNat) (elogBytes cls unit 0 addr s.time) with
      elogHead := h, elogWrapped := s.elogWrapped || h = 0 }

/-- No unit. -/
def noUnit : Nat := 0xFFFFFFFF

/-- A lasting read error retires its frame (R328). -/
def State.retireFrame (s : State) (pa : Nat) : State :=
  let s := if s.retiredAt pa then s else { s with retired := s.retired ++ [pa / 4096] }
  s.elog 3 (s.sliceOf pa) pa

/-- The first sector of n bytes that meets a lasting error. -/
def State.badSector (s : State) (pa n : Nat) : Option Nat :=
  ((List.range ((pa % 32 + n + 31) / 32)).map (fun k => pa / 32 * 32 + 32 * k)).find? s.readFails

/-- A reading that goes on logs the errors of its sectors that were corrected or transient (R328). -/
def State.noteReads (s : State) (l : List Nat) : State :=
  l.foldl (fun s pa =>
    (s.faulty.filter (fun e => e.1 = pa / 32 && e.2 ≠ 3)).foldl (fun s e =>
      { s with faulty := s.faulty.erase e }.elog e.2 (s.sliceOf pa) pa) s) s

/-- The frames that some records of local MEMERR name are retired where they are not yet (R328). -/
def State.retireFor (s : State) (l : List (Nat × SvcRecord)) : State :=
  l.foldl (fun s e =>
    if e.2.code = 0x0B && e.2.sub ≤ 1 && !s.retiredAt e.2.auxa.toNat then s.retireFrame e.2.auxa.toNat else s) s

/-! ### What a unit's reading leaves at the homes (R224, R328) -/

/-- Bytes that a unit of the device reads; zero where no stack backs them. -/
def State.deviceBytes (s : State) (pa n : Nat) : List Byte :=
  if s.backedRange pa n then (s.homeRead pa n).1 else List.replicate n 0

/-- The homes recall the lines that a unit of the device reads (R224); none where no stack backs them. -/
def State.recallRange (s : State) (pa n : Nat) : State :=
  if !s.upartials.isEmpty && s.backedRange pa n then s.recallLines (linesAt pa n) else s

/-- The place of n bytes whose reading meets a lasting error: a retired frame, or a sector that fails again (R328). -/
def State.badIn (s : State) (pa n : Nat) : Option Nat :=
  if n = 0 then none
  else ((s.retired.find? (fun f => pa / 4096 ≤ f && f ≤ (pa + n - 1) / 4096)).map (4096 * ·)).or
    ((s.faulty.find? (fun e => e.2 = 3 && pa / 32 ≤ e.1 && e.1 ≤ (pa + n - 1) / 32)).map (fun e => 32 * e.1))

/-- Whether some of n bytes lie in a retired frame (R328). -/
def State.framesLost (s : State) (pa n : Nat) : Bool := 0 < n && s.retired.any (fun f => pa / 4096 ≤ f && f ≤ (pa + n - 1) / 4096)

/-- A reading of n bytes that goes on logs the errors of their sectors. -/
def State.noteRange (s : State) (pa n : Nat) : State :=
  if n = 0 then s else s.noteReads (dedup ((s.faulty.filter (fun e => pa / 32 ≤ e.1 && e.1 ≤ (pa + n - 1) / 32)).map (fun e => 32 * e.1)))

/-- A unit of the device reads n bytes: their lines are recalled, and the errors that the reading meets are logged, a lasting
one with the retirement of its frame. -/
def State.readRange (s : State) (pa n : Nat) : State :=
  match s.badIn pa n with
  | some a => if s.retiredAt a then s else s.retireFrame a
  | none => (s.recallRange pa n).noteRange pa n

/-- Some entries of page tables have been read at their homes; the last may be one that cannot be read. -/
def State.readEntries (s : State) (l : List Nat) : State :=
  let s := (s.recallLines (dedup (l.map (· / 128)))).noteReads l
  match l.getLast? with
  | some a => if s.readFails a && !s.retiredAt a then s.retireFrame a else s
  | none => s

/-- A walk of the tables at a root has read its entries: their lines are recalled, and the errors that this meets are logged
(R224, R328). With no partial anywhere and no sector that fails it leaves nothing. -/
def State.walkedFrom (s : State) (va : DWord) (root : Nat) : State :=
  if s.upartials.isEmpty && s.faulty.isEmpty then s else s.readEntries (s.walkReads va root 4)

/-- The same of a translation, where no entry of a TLB serves it. -/
def State.walked (s : State) (via : Via) (c : CtxDesc) (va : DWord) : State :=
  if (s.cached via c.ctxid va).isSome then s else s.walkedFrom va c.ptroot

/-- The same of a group's accesses at some addresses; a window address and the keeper's map need no tables. -/
def State.walkedAt (s : State) (core : Nat) (t : Option Team) (l : List DWord) : State :=
  match t with
  | some t => l.foldl (fun s va => if va.toNat < 0x01F0000000000000 then s.walked (.core core) t.ctx va else s) s
  | none => s

/-- Delivers a record as unread: to the mailbox, adding 1 to WCOUNT after it (R307), or to the signet queue (R314). -/
def State.deliver (s : State) (core slot lane : Nat) (r : SvcRecord) : State :=
  let bs := recordBytes core slot lane (s.gen core slot) r
  if r.toMailbox then
    let base := s.mbxPa core
    let i := 32 * slot + lane
    let s := s.deviceWrite (base + 64 * i) bs
    let s := s.deviceWrite (base + 0x8000) (leBytes 4 (s.deviceNum (base + 0x8000) 4 + 1))
    s.modCore core (fun c => { c with unread := c.unread.filter (· ≠ i) ++ [i] })
  else
    let cl := core / 32
    let i := 512 * (core % 32) + 32 * slot + lane
    let s := s.deviceWrite ((s.tu cl).sqBase.toNat + 64 * i) bs
    s.modTu cl (fun t => { t with sqCount := t.sqCount + 1, unread := t.unread.filter (· ≠ i) ++ [i] })

/-- One lane takes an exception: it parks at its PC, its sequence number grows, and it holds the record, with the number
so reached (R315, log 71), that goes to the mailbox or the signet queue. -/
def State.trapLane (s : State) (core slot lane : Nat) (after : DWord) (mates : Word) (r : SvcRecord) : State :=
  match s.group? core slot with
  | none => s
  | some g =>
    let l := g.lane lane
    let lin := match s.teamOf g with | some t => t.lin | none => 0
    let r := { r with
      seq := l.seq + 1, pcoff := s.pcOff g l.pc, teamLin := BitVec.ofNat 32 lin, ctxid := s.ctxOf g
      mates := if r.code = 0x11 then r.mates else mates }
    let cause := if sysCode r.code then ParkCause.syscall else ParkCause.fault
    let s := s.modGroup core slot (fun g => g.modLane lane (fun l =>
      { l with st := .park cause, seq := l.seq + 1, after := after, issue := mates, svc := some r }))
    s.deliver core slot lane r

/-- TAKING AN EXCEPTION: the lanes of one instruction issue that trap, in ascending lane order (R304), each with its
record; MATES names the lanes with the same code (R305). `after` is the address after the instruction. -/
def State.raise (s : State) (core slot : Nat) (after : DWord) (l : List (Nat × SvcRecord)) : State :=
  l.foldl (fun s e =>
    s.trapLane core slot e.1 after (maskOf (fun j => l.any (fun f => f.1 = j && f.2.code = e.2.code))) e.2) s

/-- Parked lanes of a group take an exception at the instruction at which they stand: each issue that parked some of
them makes one class (R305). -/
def State.raiseParked (s : State) (g : Group) (l : List (Nat × SvcRecord)) : State :=
  let key := fun (e : Nat × SvcRecord) => ((g.lane e.1).after, (g.lane e.1).issue)
  (dedup (l.map key)).foldl (fun s k => s.raise g.core g.slot k.1 (l.filter (fun e => key e = k))) s

/-! ## Completing an instruction (R155, R164) -/

/-- The active counters with end E in the order of R164: descending start, then descending number. -/
def Group.backCounters (g : Group) (e : DWord) : List (Nat × LoopCounter) :=
  sortBy (fun (a b : Nat × LoopCounter) =>
      b.2.start.toNat < a.2.start.toNat || (a.2.start = b.2.start && b.1 ≤ a.1))
    ((number 0 g.lc).filter (fun c => c.2.count ≠ 0 && c.2.stop = e))

/-- The back-edge check of R164: the counters it decrements, and the start of the body where one loops back. -/
def backEdge : List (Nat × LoopCounter) → List LoopCounter → List LoopCounter × Option DWord
  | [], lc => (lc, none)
  | (i, c) :: r, lc =>
    let lc := upd lc i (fun c => { c with count := c.count - 1 })
    if c.count - 1 ≠ 0 then (lc, some c.start) else backEdge r lc

/-- Whether a claim of the group is pending (R55). -/
def State.claimPending (s : State) (core slot : Nat) : Bool :=
  match (s.group? core slot).bind s.teamOf with
  | some t => t.claims.any (fun c => c.1 = slot)
  | none => false

/-- The state a lane resumes in: RUN, or parked on its group's pending claim (R55). -/
def State.runState (s : State) (core slot : Nat) : LaneState :=
  if s.claimPending core slot then .park (.claim false) else .run

/-- STEP (R303, R317): each lane that has completed an instruction in a slot with step enabled traps at the instruction
it executes next. -/
def State.stepTrap (s : State) (core slot : Nat) (lanes : Word) : State :=
  if slot < 15 ∧ (s.coreBlock core).stepMask.getLsbD slot then
    (lanesOf lanes).foldl (fun s j =>
      match s.group? core slot with
      | some g => s.trapLane core slot j (g.lane j).pc lanes { code := 0x13 }
      | none => s) s
  else s

/-- STEP of lanes that complete together what several issues have begun: each issue makes one class (R305). -/
def State.stepClasses (s : State) (core slot : Nat) (lanes : Word) (issue : Nat → Word) : State :=
  (dedup ((lanesOf lanes).map issue)).foldl (fun s i =>
    s.stepTrap core slot (maskOf (fun j => lanes.getLsbD j && issue j = i))) s

/-- Moves lanes to their next PCs and lets them run. -/
def State.moveLanes (s : State) (core slot : Nat) (lanes : Word) (target : Nat → DWord) : State :=
  let st := s.runState core slot
  s.modGroup core slot (fun g => g.modLanes lanes (fun j l => { l with st := st, pc := target j, svc := none }))

/-- Lanes complete an instruction sequentially at E: the back-edge check, then the next PC (R155, R164). -/
def State.sequential (s : State) (core slot : Nat) (lanes : Word) (e : DWord) : State :=
  if lanes = 0 then s
  else match s.group? core slot with
    | none => s
    | some g =>
      let (lc, back) := backEdge (g.backCounters e) g.lc
      let s := s.modGroup core slot (fun g => { g with lc := lc })
      s.moveLanes core slot lanes (fun _ => back.getD e)

/-- Merges what one issue makes of its lanes: some transfer to a target, some complete sequentially at E, and the records
of those that trapped, with the STEPs of those that completed, are written in ascending lane order as one class for each
code (R155, R303 to R305). -/
def State.finishIssue (s : State) (core slot : Nat) (after : DWord) (traps : List (Nat × SvcRecord)) (seq : Word) (e : DWord)
    (jmp : Word := 0) (target : Nat → DWord := fun _ => 0) : State :=
  let s := (s.moveLanes core slot jmp target).sequential core slot seq e
  let steps := if slot < 15 ∧ (s.coreBlock core).stepMask.getLsbD slot then
      (lanesOf (seq ||| jmp)).map (fun j => (j, ({ code := 0x13 } : SvcRecord))) else []
  let all := sortBy (fun (a b : Nat × SvcRecord) => a.1 ≤ b.1) (traps ++ steps)
  all.foldl (fun s r =>
    let at' := match s.group? core slot with | some g => (g.lane r.1).pc | none => after
    s.trapLane core slot r.1 (if r.2.code = 0x13 then at' else after)
      (maskOf (fun j => all.any (fun f => f.1 = j && f.2.code = r.2.code))) r.2) s

/-- Lanes complete an instruction sequentially, and step where stepping is enabled. -/
def State.complete (s : State) (core slot : Nat) (lanes : Word) (e : DWord) : State :=
  (s.sequential core slot lanes e).stepTrap core slot lanes

/-! ## Retirement of a group (R60, R247) -/

/-- Closes a group's transaction as TXA does (R246). -/
def State.closeTxn (s : State) (core slot : Nat) : State :=
  match s.group? core slot with
  | some g =>
    match g.txn with
    | some x => (s.releaseSnap (s.ctxOf g) x.snap).modGroup core slot (fun g => { g with txn := none })
    | none => s
  | none => s

/-- Retires the group of a slot once its last launched lane has exited: its transaction closes, its allocation enters
the team pool, its slot is free. The keeper never retires. -/
def State.retireGroup (s : State) (core slot : Nat) : State :=
  match s.group? core slot with
  | none => s
  | some g =>
    if g.keeper || !g.finished then s
    else
      let s := s.closeTxn core slot
      let s := match g.team with
        | some t => s.modTeam t (fun t => { t with
            pool := t.pool + g.alloc, claims := t.claims.filter (fun c => c.1 ≠ slot) })
        | none => s
      { s with
        groups := s.groups.filter (fun h => !h.at core slot)
        loads := s.loads.filter (fun l => !(l.core = core && l.slot = slot))
        watches := s.watches.filter (fun w => !(w.core = core && w.slot = slot)) }

/-- Lanes enter EXIT (R161), and the group retires when none is left. -/
def State.exitLanes (s : State) (core slot : Nat) (lanes : Word) : State :=
  let s := s.modGroup core slot (fun g =>
    g.modLanes lanes (fun _ l => { l with st := .exit, svc := none }))
  s.retireGroup core slot

/-! ## Returning from an exception (R311) -/

/-- The fields of a selector (R311). -/
def selGen (x : DWord) : BitVec 16 := x.extractLsb' 48 16
def selAct (x : DWord) : Nat := (x.extractLsb' 38 2).toNat
def selSlot (x : DWord) : Nat := (x.extractLsb' 32 4).toNat
def selMask (x : DWord) : Word := x.setWidth 32

/-- Whether a lane stands in a service state. -/
def Lane.inService (l : Lane) : Bool := l.st = .park .fault || l.st = .park .syscall

/-- The lanes a selector acts on, in slots 0 to 14; `mbx` restricts it to records that stand in the mailbox (R312). -/
def State.selected (s : State) (core : Nat) (sel : DWord) (mbx : Bool) : Word :=
  match s.group? core (selSlot sel) with
  | none => 0
  | some g =>
    if selSlot sel = 15 ∨ selGen sel ≠ s.gen core (selSlot sel) then 0
    else maskOf (fun j => (selMask sel).getLsbD j && (g.lane j).inService
      && (!mbx || (match (g.lane j).svc with | some r => r.toMailbox | none => false)))

/-- COMPLETE: the value goes to a SYSC lane's register; the lanes resume at their completion points, path by path, with
the back-edge check; a lane held by STEP resumes at its PC. -/
def State.actComplete (s : State) (core slot : Nat) (lanes : Word) (value : Nat → Word) : State :=
  match s.group? core slot with
  | none => s
  | some g =>
    let code := fun j => match (g.lane j).svc with | some r => r.code | none => 0
    let s := s.modGroup core slot (fun h => (lanesOf lanes).foldl (fun h j =>
      match (g.lane j).svc with
      | some r => if r.code = 0x11 && h.exists r.areg.toNat then h.wv r.areg.toNat j (value j) else h
      | none => h) h)
    let step := maskOf (fun j => lanes.getLsbD j && code j = 0x13)
    let s := s.moveLanes core slot step (fun j => (g.lane j).pc)
    let rest := (lanesOf lanes).filter (fun j => code j ≠ 0x13)
    (dedup (rest.map (fun j => (g.lane j).after))).foldl (fun s e =>
      let path := maskOf (fun j => rest.contains j && (g.lane j).after = e)
      let calls := maskOf (fun j => path.getLsbD j && sysCode (code j))
      (s.sequential core slot path e).stepClasses core slot calls (fun j => (g.lane j).issue)) s

/-- RETRY: the lanes resume at their PCs. -/
def State.actRetry (s : State) (core slot : Nat) (lanes : Word) : State :=
  match s.group? core slot with
  | none => s
  | some g => s.moveLanes core slot lanes (fun j => (g.lane j).pc)

/-- FORWARD: the records are copied to the signet queue, and the lanes stay parked. -/
def State.actForward (s : State) (core slot : Nat) (lanes : Word) : State :=
  (lanesOf lanes).foldl (fun s j =>
    match (s.group? core slot).bind (fun g => (g.lane j).svc) with
    | none => s
    | some r =>
      let r := { r with fwd := true }
      (s.modGroup core slot (fun g => g.modLane j (fun l => { l with svc := some r }))).deliver core slot j r) s

/-- SETPC: the lanes resume at text base + RESPC (R317). -/
def State.actSetpc (s : State) (core slot : Nat) (lanes : Word) : State :=
  match s.group? core slot with
  | none => s
  | some g =>
    let pc := (s.textOf g).1 + ((s.coreBlock core).resPc.setWidth 32).setWidth 64
    s.moveLanes core slot lanes (fun _ => pc)

/-- KILL: the lanes enter EXIT with the effects of R161. -/
def State.actKill (s : State) (core slot : Nat) (lanes : Word) : State :=
  if lanes = 0 then s else s.exitLanes core slot lanes

end Sys2Proof.Machine
end

