-- ==== Sys2Proof/Machine/Operands.lean ====
section
/-! DEFINITION. Operands: the path that issues, guards (R73), facets and uniform sources (R79 to R82), register
existence (R54), memory operands (R85), and the frame of an instruction that only touches its group. -/

namespace Sys2Proof.Machine

/-- What an instruction's meaning starts from: the group, the issuing lanes, the lanes L whose guard is true, the
address of the base word and of the word after it (R73, R135). -/
structure Path where
  core : Nat
  slot : Nat
  g : Group
  I : Word
  L : Word
  base : DWord
  next : DWord
  deriving DecidableEq, Repr

/-- The guard of R73 in lane j: P[GUARD[15:13]], inverted under GUARD[16]. -/
def guardTrue (l : Lane) (gd : BitVec 4) : Bool := l.pred (gd.toNat % 8) != gd.getLsbD 3

/-- The path that issues, with a guard. -/
def State.pathG (s : State) (x : Exts) (gd : BitVec 4) : Option Path :=
  (s.group? s.cur.core s.cur.slot).map (fun g =>
    let i := s.cur.lanes
    let base := s.cur.pc + BitVec.ofNat 64 (4 * x.length)
    { core := s.cur.core, slot := s.cur.slot, g := g, I := i
      L := maskOf (fun j => i.getLsbD j && guardTrue (g.lane j) gd)
      base := base, next := base + 4 })

/-- The path that issues, with the guard of its operand extension. -/
def State.path (s : State) (x : Exts) : Option Path := s.pathG x (Exts.guard x)

/-- The lanes that issue with a false guard. -/
def Path.off (p : Path) : Word := p.I &&& ~~~p.L

/-! ## Sources -/

/-- The source lane of a facet for lane j (R80, R202). -/
def Group.facetLane (g : Group) (f : BitVec 7) (j : Nat) : Nat :=
  let v := f.toNat
  if v < 0x20 then j
  else if v < 0x40 then (j + (v - 0x20)) % 32
  else if v < 0x60 then v - 0x40
  else if v < 0x68 then j ^^^ 2 ^ (v - 0x60)
  else if v < 0x6C then g.route (v - 0x68) j
  else g.network (v - 0x6C) j

/-- Whether a lane reads as zero through a facet: EXIT or NONE (R82). -/
def Lane.dark (l : Lane) : Bool := !l.live

/-- A register of the window as lane j reads it through a facet, at an offset within its operand (R78, R82). A lane that has
ended in the present opportunity reads as zero from the next on (R161). -/
def Group.facetReg (g : Group) (f : BitVec 7) (field k j : Nat) : Word :=
  let s := g.facetLane f j
  if (g.lane s).dark && !g.ended.getLsbD s then 0 else g.rv (g.wbase + field + k) s

/-- A V source (R79, R82). -/
def Group.srcV (g : Group) (uni : Bool) (f field : BitVec 7) (j : Nat) : Word :=
  if uni then (g.rs field.toNat).setWidth 32 else g.facetReg f field.toNat 0 j

/-- A VP source as a 64-bit value. -/
def Group.srcP (g : Group) (uni : Bool) (f field : BitVec 7) (j : Nat) : DWord :=
  if uni then g.rs field.toNat else g.facetReg f field.toNat 1 j ++ g.facetReg f field.toNat 0 j

/-- A VQ source as a 128-bit value; it is never uniform. -/
def Group.srcQ (g : Group) (f field : BitVec 7) (j : Nat) : BitVec 128 :=
  (g.facetReg f field.toNat 3 j ++ g.facetReg f field.toNat 2 j)
    ++ (g.facetReg f field.toNat 1 j ++ g.facetReg f field.toNat 0 j)

def Group.srcA (g : Group) (x : Exts) (a : BitVec 7) (j : Nat) : Word := g.srcV (Exts.uniA x) (Exts.fa x) a j
def Group.srcB (g : Group) (x : Exts) (b : BitVec 7) (j : Nat) : Word := g.srcV (Exts.uniB x) (Exts.fb x) b j
def Group.srcC (g : Group) (x : Exts) (j : Nat) : Word := g.srcV (Exts.uniC x) (Exts.fc x) (Exts.c x) j
def Group.srcA2 (g : Group) (x : Exts) (a : BitVec 7) (j : Nat) : DWord := g.srcP (Exts.uniA x) (Exts.fa x) a j
def Group.srcB2 (g : Group) (x : Exts) (b : BitVec 7) (j : Nat) : DWord := g.srcP (Exts.uniB x) (Exts.fb x) b j
def Group.srcC2 (g : Group) (x : Exts) (j : Nat) : DWord := g.srcP (Exts.uniC x) (Exts.fc x) (Exts.c x) j

/-! ## Register existence (R54, R78) -/

/-- The window registers that an operand names: first field and count; none when it is uniform. -/
def vuse (uni : Bool) (field : BitVec 7) (n : Nat) : List (Nat × Nat) := if uni then [] else [(field.toNat, n)]

/-- Every register named exists. -/
def Group.hasRegs (g : Group) (l : List (Nat × Nat)) : Bool := l.all (fun r => g.exists (g.wbase + r.1 + r.2 - 1))

/-- The PROTECT of a register, tile or accumulator that does not exist (R54, R112). -/
def noReg : SvcRecord := { code := 0x05, sub := 2 }

/-- The same record in every lane of a mask. -/
def allLanes (m : Word) (r : SvcRecord) : List (Nat × SvcRecord) := (lanesOf m).map (fun j => (j, r))

/-- Every lane of L traps, with the instruction without effect; the lanes whose guard is false complete (R73). -/
def State.trapAll (s : State) (p : Path) (r : SvcRecord) : State :=
  s.finishIssue p.core p.slot p.next (allLanes p.L r) p.off p.next

/-- An instruction that touches nothing but its group: PROTECT where a register does not exist, else its effect when L
is not empty, and every issuing lane completes (R73, R135, R155). -/
def State.plain (s : State) (x : Exts) (regs : List (Nat × Nat)) (f : Group → Word → Group) :
    Host.Outcome State Fault Refusal :=
  match s.path x with
  | none => .fault .noIssue
  | some p =>
    if p.L = 0 then .next (s.complete p.core p.slot p.I p.next)
    else if !p.g.hasRegs regs then .next (s.trapAll p noReg)
    else .next ((s.modGroup p.core p.slot (fun g => f g p.L)).complete p.core p.slot p.I p.next)

/-- Writes one register of the window in each lane of L, from values computed before any write (R6). -/
def Group.eachV (g : Group) (d : BitVec 7) (L : Word) (f : Nat → Word) : Group :=
  (lanesOf L).foldl (fun h j => h.wv (g.wbase + d.toNat) j (f j)) g

/-- Writes a pair in each lane of L. -/
def Group.eachP (g : Group) (d : BitVec 7) (L : Word) (f : Nat → DWord) : Group :=
  (lanesOf L).foldl (fun h j => h.wv2 (g.wbase + d.toNat) j (f j)) g

/-- Writes a predicate in each lane of L. -/
def Group.eachPred (g : Group) (d : BitVec 7) (L : Word) (f : Nat → Bool) : Group :=
  g.modLanes L (fun j l => l.setPred d.toNat (f j))

/-- `OP Vd, Va, Vb` (R143). -/
def State.vvv (s : State) (x : Exts) (d a b : BitVec 7) (f : Word → Word → Word) : Host.Outcome State Fault Refusal :=
  s.plain x (vuse (Exts.uniA x) a 1 ++ vuse (Exts.uniB x) b 1 ++ vuse false d 1)
    (fun g L => g.eachV d L (fun j => f (g.srcA x a j) (g.srcB x b j)))

/-- `OP Vd, Va`. -/
def State.vv (s : State) (x : Exts) (d a : BitVec 7) (f : Word → Word) : Host.Outcome State Fault Refusal :=
  s.plain x (vuse (Exts.uniA x) a 1 ++ vuse false d 1) (fun g L => g.eachV d L (fun j => f (g.srcA x a j)))

/-- `OP Sd, Sa, Sb`: a path instruction (R139). -/
def State.sss (s : State) (x : Exts) (d a b : BitVec 7) (f : DWord → DWord → DWord) :
    Host.Outcome State Fault Refusal :=
  s.plain x [] (fun g _ => g.ws d.toNat (f (g.rs a.toNat) (g.rs b.toNat)))

/-! ## Memory operands (R74, R85) -/

/-- OFF of a Form M instruction: IMM12 sign-extended, or the 32-bit immediate as a signed offset (R74). -/
def memOff (x : Exts) (i : BitVec 12) : DWord :=
  match Exts.hi x with
  | some h => (h ++ i : Word).signExtend 64
  | none => i.signExtend 64

/-- The address of lane j (R85). -/
def Group.address (g : Group) (x : Exts) (a : BitVec 7) (off : DWord) (j : Nat) : DWord :=
  if Exts.uniA x then g.rs a.toNat + off
  else if Exts.uniB x then g.srcP false (Exts.fa x) a j + off
  else
    let va := (g.srcV false (Exts.fa x) a j).setWidth 64 + off
    if Exts.uniC x then g.rs (Exts.c x).toNat + va else va

/-- The registers that an address operand names. -/
def addrRegs (x : Exts) (a : BitVec 7) : List (Nat × Nat) :=
  if Exts.uniA x then [] else [(a.toNat, if Exts.uniB x then 2 else 1)]

end Sys2Proof.Machine
end

