-- ==== Sys2Proof/Machine/Control.lean ====
section
/-! DEFINITION. Control: branches, calls, loops, exit, joins, YIELD, NOP, CMARK and WBASE (R52, R155 to R169). -/

namespace Sys2Proof.Machine

open Host (Outcome)

/-- The guard of a Form J instruction: GN and GP (R67). -/
def guardJ (n : BitVec 1) (g : BitVec 3) : BitVec 4 := n ++ g

/-- A branch offset in bytes: 4 × sext(OFF22). -/
def offJ (o : BitVec 22) : DWord := 4 * o.signExtend 64

/-- BRA (R156). -/
def execBra (x : Exts) (n : BitVec 1) (g : BitVec 3) (o : BitVec 22) (s : State) : Outcome State Fault Refusal :=
  match s.pathG x (guardJ n g) with
  | none => .fault .noIssue
  | some p =>
    .next (s.finishIssue p.core p.slot p.next [] p.off p.next p.L (fun _ => p.base + offJ o))

/-- The call depth that a group's kernel may reach (R100, R158). -/
def State.callmax (s : State) (g : Group) : Nat :=
  match s.teamOf g with
  | some t => t.callmax
  | none => s.keeperCallmax

/-- The push of R158 for lanes with a target, beside lanes that have trapped already: CALLDEPTH at CALLMAX, else the
return offset is pushed and the lane goes to its target; an error of the return area shows at the RET alone (log 12). The
lanes with a false guard complete. -/
def State.call (s : State) (p : Path) (traps : List (Nat × SvcRecord)) (lanes : Word) (target : Nat → DWord) : State :=
  let cm := s.callmax p.g
  let full := maskOf (fun j => lanes.getLsbD j && cm ≤ (p.g.lane j).rets.length)
  let ok := lanes &&& ~~~full
  let ret := s.pcOff p.g p.next
  let s := s.modGroup p.core p.slot (fun g => g.modLanes ok (fun _ l => { l with rets := ret :: l.rets }))
  s.finishIssue p.core p.slot p.next (traps ++ allLanes full { code := 0x0F, sub := 0, auxa := BitVec.ofNat 64 cm })
    p.off p.next ok target

/-- CALL (R158). -/
def execCall (x : Exts) (n : BitVec 1) (g : BitVec 3) (o : BitVec 22) (s : State) : Outcome State Fault Refusal :=
  match s.pathG x (guardJ n g) with
  | none => .fault .noIssue
  | some p => .next (s.call p [] p.L (fun _ => p.base + offJ o))

/-- The targets of BRI and CALLI: MISALIGN where the offset is not a multiple of 4 (R157). -/
def State.indirect (s : State) (x : Exts) (a : BitVec 7)
    (go : State → Path → List (Nat × SvcRecord) → Word → (Nat → DWord) → State) : Outcome State Fault Refusal :=
  match s.path x with
  | none => .fault .noIssue
  | some p =>
    if !p.g.hasRegs (vuse (Exts.uniA x) a 1) then .next (s.trapAll p noReg)
    else
      let off := fun j => p.g.srcA x a j
      let bad := maskOf (fun j => p.L.getLsbD j && (off j).toNat % 4 ≠ 0)
      let tb := (s.textOf p.g).1
      .next (go s p (allLanes bad { code := 0x03, auxa := 4 }) (p.L &&& ~~~bad) (fun j => tb + (off j).setWidth 64))

/-- BRI (R157). -/
def execBri (x : Exts) (a : BitVec 7) (s : State) : Outcome State Fault Refusal :=
  s.indirect x a (fun s p traps lanes target => s.finishIssue p.core p.slot p.next traps p.off p.next lanes target)

/-- CALLI (R158). -/
def execCalli (x : Exts) (a : BitVec 7) (s : State) : Outcome State Fault Refusal :=
  s.indirect x a (fun s p traps lanes target => s.call p traps lanes target)

/-- Where the entry that RET pops for a lane stands: CALLMAX × 128 bytes for each group, one word a lane and depth; the
keeper has no such area (R160, log 12). -/
def State.retEntry (s : State) (g : Group) (j : Nat) : Option Nat :=
  (s.teamOf g).map (fun t =>
    t.ctx.retBase + Config.returnArea t.id g.groupId + 128 * ((g.lane j).rets.length - 1) + 4 * j)

/-- What a lane's RET raises: CALLDEPTH at depth 0 (R159), MEMERR where the reading of its entry meets a
lasting error, with ADDR 0 (R160, R328, log 12). -/
def State.retTrap (s : State) (g : Group) (j : Nat) : Option SvcRecord :=
  if (g.lane j).rets = [] then some { code := 0x0F, sub := 1, auxa := BitVec.ofNat 64 (s.callmax g) }
  else match s.retEntry g j with
    | some a => if s.readFails a then
        some { code := 0x0B, sub := 1, kind := 1, auxa := BitVec.ofNat 64 (a / 32 * 32) } else none
    | none => none

/-- RET (R159). -/
def execRet (x : Exts) (s : State) : Outcome State Fault Refusal :=
  match s.path x with
  | none => .fault .noIssue
  | some p =>
    let traps := (lanesOf p.L).filterMap (fun j => (s.retTrap p.g j).map (fun r => (j, r)))
    let ok := maskOf (fun j => p.L.getLsbD j && (s.retTrap p.g j).isNone)
    let tb := (s.textOf p.g).1
    let s := s.noteReads ((lanesOf ok).filterMap (s.retEntry p.g))
    let s := s.modGroup p.core p.slot (fun g => g.modLanes ok (fun _ l => { l with rets := l.rets.drop 1 }))
    .next ((s.finishIssue p.core p.slot p.next traps p.off p.next ok
      (fun j => tb + ((p.g.lane j).rets.headD 0).setWidth 64)).retireFor traps)

/-- EXIT (R161): from the next opportunity on, the registers of the lanes that end read as zero to the others. -/
def execExit (x : Exts) (s : State) : Outcome State Fault Refusal :=
  match s.path x with
  | none => .fault .noIssue
  | some p =>
    let s := s.complete p.core p.slot p.off p.next
    .next (if p.L = 0 then s
      else (s.modGroup p.core p.slot (fun g => { g with ended := g.ended ||| p.L })).exitLanes p.core p.slot p.L)

/-- LOOP and LOOPI with a count (R163). -/
def State.loop (s : State) (x : Exts) (d : BitVec 7) (i : BitVec 12) (count : Group → Word) :
    Outcome State Fault Refusal :=
  match s.path x with
  | none => .fault .noIssue
  | some p =>
    if p.L = 0 then .next (s.complete p.core p.slot p.I p.next)
    else
      let n := count p.g
      let e := p.base + 4 * i.setWidth 64
      let skip := n = 0 || e = p.next
      let s := s.modGroup p.core p.slot (fun g =>
        { g with lc := upd g.lc d.toNat (fun _ => { count := if skip then 0 else n, start := p.next, stop := e }) })
      if skip && e ≠ p.next then
        .next (s.finishIssue p.core p.slot p.next [] p.off p.next p.L (fun _ => e))
      else .next (s.complete p.core p.slot p.I p.next)

/-- LOOP: the count is S[A] bits [31:0]. -/
def execLoop (x : Exts) (d a : BitVec 7) (i : BitVec 12) (s : State) : Outcome State Fault Refusal :=
  s.loop x d i (fun g => (g.rs a.toNat).setWidth 32)

/-- LOOPI: the count is the field A. -/
def execLoopi (x : Exts) (d a : BitVec 7) (i : BitVec 12) (s : State) : Outcome State Fault Refusal :=
  s.loop x d i (fun _ => a.setWidth 32)

/-- Parks lanes for a cause, at their own PCs. -/
def State.park (s : State) (core slot : Nat) (lanes : Word) (after : DWord) (c : Nat → ParkCause) : State :=
  s.modGroup core slot (fun g => g.modLanes lanes (fun j l => { l with st := .park (c j), after := after, issue := lanes }))

/-- CJOIN (R52, R167). -/
def execCjoin (x : Exts) (a : BitVec 7) (s : State) : Outcome State Fault Refusal :=
  match s.path x with
  | none => .fault .noIssue
  | some p =>
    let m := (p.g.rs a.toNat).setWidth 32
    .next ((s.park p.core p.slot p.L p.next (fun _ => .join a.toNat m)).complete p.core p.slot p.off p.next)

/-- Parked lanes complete their instruction, path by path: the lanes with one completion point make one path. -/
def State.completeParked (s : State) (core slot : Nat) (lanes : Word) : State :=
  match s.group? core slot with
  | none => s
  | some g =>
    (dedup ((lanesOf lanes).map (fun j => (g.lane j).after))).foldl (fun s e =>
      let path := maskOf (fun j => lanes.getLsbD j && (g.lane j).after = e)
      (s.sequential core slot path e).stepClasses core slot path (fun j => (g.lane j).issue)) s

/-- The lanes of a group that a join releases: every lane of the mask is at a CJOIN on the same register, EXIT or NONE. -/
def Group.joinReady (g : Group) : Word :=
  maskOf (fun j =>
    match (g.lane j).st with
    | .park (.join r m) => (lanesOf m).all (fun i =>
        match (g.lane i).st with
        | .park (.join r' _) => r' = r
        | .exit => true
        | .none => true
        | _ => false)
    | _ => false)

/-- JOIN_RELEASE (R52): the lanes released in one cycle leave together; none while the core has stopped for them (R61). -/
def execJoinRelease (core slot : Nat) (s : State) : Outcome State Fault Refusal :=
  match s.group? core slot with
  | none => .next s
  | some g => .next (if s.isStopped g then s else s.completeParked core slot g.joinReady)

/-- YIELD (R50, R168). -/
def execYield (x : Exts) (s : State) : Outcome State Fault Refusal :=
  s.plain x [] (fun g L => g.modLanes L (fun _ l => { l with yield := 16 }))

/-- NOP (R168). -/
def execNop (x : Exts) (s : State) : Outcome State Fault Refusal := s.plain x [] (fun g _ => g)

/-- CMARK (R52, R167). -/
def execCmark (x : Exts) (d : BitVec 7) (s : State) : Outcome State Fault Refusal :=
  s.plain x [] (fun g L => g.ws d.toNat (L.setWidth 64))

/-- WBASE (R169). -/
def execWbase (x : Exts) (i : BitVec 12) (s : State) : Outcome State Fault Refusal :=
  match s.path x with
  | none => .fault .noIssue
  | some p =>
    let b : Int := p.g.wbase + i.toInt
    if p.L ≠ 0 ∧ (b < 0 ∨ 508 < b) then .next (s.trapAll p { code := 0x05, sub := 4 })
    else s.plain x [] (fun g _ => { g with wbase := b.toNat })

end Sys2Proof.Machine
end

