-- ==== Sys2Proof/Machine/Uniform.lean ====
section
/-! DEFINITION. Uniform: uniform integer arithmetic and the special registers (R110, R111, R139 to R142, R302, R347). -/

namespace Sys2Proof.Machine

open Host (Outcome)

/-- A shift amount that stays below a width, else the given result (R139, R143). -/
def shiftBy {w : Nat} (b : BitVec w) (n : Nat) (sh : Nat → BitVec w) (big : BitVec w) : BitVec w :=
  if b.toNat < n then sh b.toNat else big

/-- Lesser (`mx` false) or greater of two values, signed or unsigned. -/
def minmax {w : Nat} (mx uns : Bool) (a b : BitVec w) : BitVec w :=
  let lt := if uns then a.ult b else a.slt b
  if lt != mx then a else b

/-- The comparisons of R137. -/
def cmp {w : Nat} (cc : Nat) (a b : BitVec w) : Bool :=
  match cc with
  | 0 => a = b
  | 1 => a ≠ b
  | 2 => a.slt b
  | 3 => a.sle b
  | 4 => b.slt a
  | 5 => b.sle a
  | 6 => a.ult b
  | 7 => a.ule b
  | 8 => b.ult a
  | _ => b.ule a

def execSadd (x : Exts) (d a b : BitVec 7) (s : State) : Outcome State Fault Refusal := s.sss x d a b (· + ·)
def execSsub (x : Exts) (d a b : BitVec 7) (s : State) : Outcome State Fault Refusal := s.sss x d a b (· - ·)
def execSmul (x : Exts) (d a b : BitVec 7) (s : State) : Outcome State Fault Refusal := s.sss x d a b (· * ·)
def execSand (x : Exts) (d a b : BitVec 7) (s : State) : Outcome State Fault Refusal := s.sss x d a b (· &&& ·)
def execSor (x : Exts) (d a b : BitVec 7) (s : State) : Outcome State Fault Refusal := s.sss x d a b (· ||| ·)
def execSxor (x : Exts) (d a b : BitVec 7) (s : State) : Outcome State Fault Refusal := s.sss x d a b (· ^^^ ·)
def execSshl (x : Exts) (d a b : BitVec 7) (s : State) : Outcome State Fault Refusal :=
  s.sss x d a b (fun u v => shiftBy v 64 (fun n => u <<< n) 0)
def execSshr (x : Exts) (d a b : BitVec 7) (s : State) : Outcome State Fault Refusal :=
  s.sss x d a b (fun u v => shiftBy v 64 (fun n => u >>> n) 0)
def execSsra (x : Exts) (d a b : BitVec 7) (s : State) : Outcome State Fault Refusal :=
  s.sss x d a b (fun u v => shiftBy v 64 (fun n => u.sshiftRight n) (if u.msb then BitVec.allOnes 64 else 0))
def execSmin (x : Exts) (d a b : BitVec 7) (s : State) : Outcome State Fault Refusal :=
  s.sss x d a b (minmax false ((Exts.fam x).getLsbD 0))
def execSmax (x : Exts) (d a b : BitVec 7) (s : State) : Outcome State Fault Refusal :=
  s.sss x d a b (minmax true ((Exts.fam x).getLsbD 0))

/-- SMAD (R140). -/
def execSmad (x : Exts) (d a b : BitVec 7) (s : State) : Outcome State Fault Refusal :=
  s.plain x [] (fun g _ => g.ws d.toNat (g.rs a.toNat * g.rs b.toNat + g.rs (Exts.c x).toNat))

/-- SCMP (R140). -/
def execScmp (x : Exts) (d a b : BitVec 7) (s : State) : Outcome State Fault Refusal :=
  s.sss x d a b (fun u v => if cmp (Exts.fam x).toNat u v then 1 else 0)

/-- SMOV (R140). -/
def execSmov (x : Exts) (d a : BitVec 7) (s : State) : Outcome State Fault Refusal :=
  s.plain x [] (fun g _ => g.ws d.toNat (g.rs a.toNat))

/-- The 32-bit value of SMOVI (R74, R141). -/
def smoviVal (x : Exts) (i : BitVec 12) : Word :=
  match Exts.hi x with
  | some h => h ++ i
  | none => i.signExtend 32

/-- SMOVI (R141). -/
def execSmovi (x : Exts) (d : BitVec 7) (i : BitVec 12) (s : State) : Outcome State Fault Refusal :=
  s.plain x [] (fun g _ =>
    let v := smoviVal x i
    g.ws d.toNat (match (Exts.fam x).toNat with
      | 0 => v.signExtend 64
      | 1 => v.setWidth 64
      | _ => v ++ (g.rs d.toNat).setWidth 32))

/-! ## Special registers -/

/-- The preset entries FT0 to FT9 (R128). -/
def ftPreset : List Word :=
  [0x11430708, 0x12520F08, 0x10320306, 0x10230106, 0x10210104, 0x125A0F10, 0x12877F10, 0x20060008, 0x30000000,
   0x41807F08]

/-- A format-table entry of a context; bit [27] is reserved (R3, R127, R128). -/
def CtxDesc.fte (c : CtxDesc) (n : Nat) : Word :=
  if n < 10 then ftPreset.getD n 0 else c.ft.getD (n - 10) 0 &&& 0xF7FFFFFF

/-- A selector without its reserved bits [47:40] and [37:36] (R3, R311). -/
def selClean (v : DWord) : DWord := v &&& 0xFFFF00CFFFFFFFFF

/-- The value of a special register for a lane; none where the number is absent at the group's privilege (R110, R302,
R347). In the keeper, which has no team, the team's values read zero (log 21). -/
def State.special (s : State) (g : Group) (n : Nat) (lane : Nat) : Option DWord :=
  let t := (s.teamOf g).getD { id := 0, launch := 0, core := g.core, lin := 0 }
  let nat := fun (v : Nat) => some (BitVec.ofNat 64 v)
  match n with
  | 0x000 => nat lane
  | 0x001 => nat g.groupId
  | 0x002 => nat g.roleId
  | 0x003 => nat g.roleGrp
  | 0x004 => nat t.x
  | 0x005 => nat t.y
  | 0x006 => nat t.z
  | 0x007 => nat t.lin
  | 0x008 => nat t.gang
  | 0x009 => nat t.rank
  | 0x00A => nat g.core
  | 0x00B => nat g.slot
  | 0x00C => nat g.wbase
  | 0x00D => nat g.alloc
  | 0x00E => nat t.pool
  | 0x00F => some ((g.mask Lane.live).setWidth 64)
  | 0x010 => some g.fpctl
  | 0x011 => some t.kargs
  | 0x012 => some (s.textOf g).1
  | 0x013 => some t.kdata
  | 0x018 => some ((g.lc.getD 0 {}).count.setWidth 64)
  | 0x019 => some ((g.lc.getD 1 {}).count.setWidth 64)
  | 0x01A => some ((g.lc.getD 2 {}).count.setWidth 64)
  | n =>
    if 0x20 ≤ n ∧ n < 0x30 then some ((t.ctx.fte (n - 0x20)).setWidth 64)
    else if g.keeper then
      match n with
      | 0x100 => some 0
      | 0x101 => some (s.coreBlock g.core).mbxBase
      | 0x102 => some (s.coreBlock g.core).esel
      | _ => none
    else none

/-- The words of the issue as an ILLEGAL or PRIV record gives them: the base word, then the extension words (R306). -/
def wordRecord (code : Byte) (words : List Word) : SvcRecord :=
  let base := words.getLastD 0
  let e := words.dropLast
  { code := code, auxa := base.setWidth 64, auxb := e.getD 1 0 ++ e.getD 0 0 }

/-- ILLEGAL in every issuing lane, whatever its guard (R73, R92). -/
def State.illegal (s : State) (p : Path) : State :=
  s.raise p.core p.slot p.next (allLanes p.I (wordRecord 0x01 s.cur.words))

/-- PRIV in every lane of L (R301). -/
def State.priv (s : State) (p : Path) : State := s.trapAll p (wordRecord 0x02 s.cur.words)

/-- Whether a number is privileged (R111). -/
def privNum (n : Nat) : Bool := 0x100 ≤ n && n < 0x200

/-- SREAD (R110, R111): a per-lane value comes from the lowest lane of L. -/
def execSread (x : Exts) (d : BitVec 7) (i : BitVec 12) (s : State) : Outcome State Fault Refusal :=
  match s.path x with
  | none => .fault .noIssue
  | some p =>
    if privNum i.toNat && !p.g.keeper then .next (s.priv p)
    else match s.special p.g i.toNat ((lanesOf p.L).headD 0) with
      | none => .next (s.illegal p)
      | some v => s.plain x [] (fun g _ => g.ws d.toNat v)

/-- SWRITE (R110, R111): FPCTL, whose bits [63:2] read as zero, and ESEL at KEEPER. -/
def execSwrite (x : Exts) (a : BitVec 7) (i : BitVec 12) (s : State) : Outcome State Fault Refusal :=
  match s.path x with
  | none => .fault .noIssue
  | some p =>
    let v := p.g.rs a.toNat
    if privNum i.toNat && !p.g.keeper then .next (s.priv p)
    else if i.toNat = 0x010 then s.plain x [] (fun g _ => { g with fpctl := v &&& 3 })
    else if i.toNat = 0x102 then
      let s := if p.L = 0 then s else s.modCore p.core (fun c => { c with esel := selClean v })
      .next (s.complete p.core p.slot p.I p.next)
    else .next (s.illegal p)

end Sys2Proof.Machine
end

