-- ==== Sys2Proof/Machine/Fetch.lean ====
section
/-! DEFINITION. Fetch: the words of the instruction at a PC, within the text and through the X right (R64, R155, R322),
and the placing of an instruction where the next step fetches it. -/

namespace Sys2Proof.Machine

/-- What a fetch gives: the words of one instruction, or the record of the trap it raises. -/
inductive Fetched where
  | words (ws : List Word)
  | trap (r : SvcRecord)
  deriving DecidableEq, Repr

/-- Whether the four bytes at an address lie in a group's text (R155). -/
def State.inText (s : State) (g : Group) (pc : DWord) : Bool :=
  let (b, n) := s.textOf g
  b.toNat ≤ pc.toNat && pc.toNat + 4 ≤ b.toNat + n

/-- The physical address of an instruction word (R322). -/
def State.fetchPlace (s : State) (g : Group) (pc : DWord) : Except SvcRecord Place :=
  match s.range (s.teamOf g) pc 4 .fetch with
  | .ok _ => s.translate g.core (s.teamOf g) pc .fetch
  | .error r => .error r

/-- The copy of a line of text that supplies a group: of its core's buffers, or what the group has fetched ahead. -/
def State.textCopy (s : State) (g : Group) (sp : Space) (line : Nat) : Option TextCopy :=
  (s.coreBlock g.core).text.find? (fun c => c.space = sp && c.line = line && (c.ahead = none || c.ahead = some g.slot))

/-- The present bytes of a line of text. -/
def State.textLine (s : State) (sp : Space) (line : Nat) : List Byte :=
  (if sp = .mem then s.recall line else s).bytes sp (128 * line) 128

/-- One word of text: from a buffered copy of its line, else from memory (R93); MEMERR where that reading fails (R328). -/
def State.fetchWord (s : State) (g : Group) (pc : DWord) : Except SvcRecord Word :=
  match s.fetchPlace g pc with
  | .ok p =>
    match s.textCopy g p.space (p.addr / 128) with
    | some c => .ok (BitVec.ofNat 32 (field c.bytes (p.addr % 128) 4))
    | none =>
      if p.space = .mem && s.readFails p.addr then .error (memErr .fetch pc p.addr)
      else .ok (BitVec.ofNat 32 ((if p.space = .mem then s.recall (p.addr / 128) else s).num p.space p.addr 4))
  | .error r => .error r

/-- The lines of text that a core's buffers hold at most (log 16). -/
def textLines : Nat := 64

/-- The buffers of a core take a copy of the lines of n words from a PC that they do not hold; a full buffer loses its
oldest. -/
def State.keepText (s : State) (g : Group) (pc : DWord) (n : Nat) : State :=
  (List.range n).foldl (fun s k =>
    let s := s.walkedAt g.core (s.teamOf g) [pc + BitVec.ofNat 64 (4 * k)]
    match s.fetchPlace g (pc + BitVec.ofNat 64 (4 * k)) with
    | .ok p =>
      if (s.textCopy g p.space (p.addr / 128)).isSome then s
      else
        let s := if p.space = .mem then (s.recall (p.addr / 128)).noteReads [p.addr] else s
        let c : TextCopy := { space := p.space, line := p.addr / 128, bytes := s.textLine p.space (p.addr / 128) }
        s.modCore g.core (fun b => { b with text := b.text.drop (b.text.length + 1 - textLines) ++ [c] })
    | .error _ => s) s

/-- The words from a PC: extension words, at most two that count, and the word after them (R64, R70). A word that lies
outside the text raises PROTECT at the instruction (R155). -/
def State.fetchFrom (s : State) (g : Group) (first : DWord) : Nat → DWord → List Word → Fetched
  | 0, _, ws => .words ws
  | n + 1, pc, ws =>
    if !s.inText g pc then .trap (protect 1 .fetch first)
    else match s.fetchWord g pc with
      | .error r => .trap r
      | .ok w => if isExt w then s.fetchFrom g first n (pc + 4) (ws ++ [w]) else .words (ws ++ [w])

/-- The instruction at a PC. -/
def State.fetch (s : State) (g : Group) (pc : DWord) : Fetched := s.fetchFrom g pc 3 pc []

/-- The addresses of the words that a fetch reaches. -/
def State.fetchReach (s : State) (g : Group) : Nat → DWord → List DWord
  | 0, _ => []
  | n + 1, pc =>
    if !s.inText g pc then []
    else pc :: (match s.fetchWord g pc with
      | .ok w => if isExt w then s.fetchReach g n (pc + 4) else []
      | .error _ => [])

/-- The instruction that a path would issue, where its words decode. -/
def State.peek (s : State) (g : Group) (pc : DWord) : Option (Instr × List Word) :=
  match s.fetch g pc with
  | .words ws => match decode ws with
    | .ok (i, _) => some (i, ws)
    | .error _ => none
  | .trap _ => none

/-- An issue as the step meets it: an instruction to execute, or a state in which its lanes have trapped at the fetch or
the decoder, or do not issue. -/
inductive IssueStep where
  | run (i : Instr) (s : State)
  | done (s : State)

/-- Fetches and decodes for an issue: only lanes that still run at its PC issue. A fetch fault or an undecodable word
traps in every issuing lane, whatever its guard (R92, R155, R322). -/
def State.issueNext (s : State) (i : Issue) : IssueStep :=
  match s.group? i.core i.slot with
  | none => .done s
  | some g =>
    let lanes := maskOf (fun j => i.lanes.getLsbD j && (g.lane j).running && (g.lane j).pc = i.pc)
    if lanes = 0 then .done s
    else match s.fetch g i.pc with
      | .trap r =>
        let s := s.walkedAt g.core (s.teamOf g) (s.fetchReach g 3 i.pc)
        .done ((s.raise i.core i.slot (i.pc + 4) (allLanes lanes r)).retireFor (allLanes lanes r))
      | .words ws =>
        let s := { s.keepText g i.pc ws.length with cur := { i with lanes := lanes, words := ws } }
        match decode ws with
        | .ok (j, _) => .run j s
        | .error _ => .done (s.raise i.core i.slot (i.pc + BitVec.ofNat 64 (4 * ws.length))
            (allLanes lanes (wordRecord 0x01 ws)))

/-! ## Placing an instruction (log 3) -/

/-- A page-table entry as 8 bytes. -/
def pteBytes (a : Nat) (v : DWord) : List (Nat × Byte) := number a (leBytes 8 v.toNat)

/-- The places that `State.loaded` uses: the text at virtual and physical 0x10000, tables at 0x20000000. -/
def loadText : Nat := 0x10000
def loadRoot : Nat := 0x20000000

/-- A context whose first GiB is mapped with every right onto the first GiB of memory, by a leaf at level 2. -/
def loadTables : List (Nat × Byte) :=
  pteBytes loadRoot (0x8000000000000000 ||| 0x20001000)
    ++ pteBytes 0x20001000 (0x8000000000000000 ||| 0x20002000)
    ++ pteBytes 0x20002000 0xCE00000000000000

/-- The team that `State.loaded` makes resident on core 0: one producer group with every kind of resource. -/
def loadTeam : Team :=
  { id := 0, launch := 0, core := 0, lin := 0
    ctx := { ptroot := loadRoot, ctxid := 1, claspTmo := 10000 }
    granules := 1, copyq := 4, pool := 64, reserved := 192, tiles := 8, accs := 8, ngroups := 1, callmax := 4
    clasps := List.replicate 16 { declared := true }
    textBase := BitVec.ofNat 64 loadText, textSize := 0x10000 }

/-- Its launch. -/
def loadLaunch : Launch :=
  { id := 0, desc := 0, packet := 0, ctx := loadTeam.ctx, roles := [⟨32, 128, true⟩], x := 1, y := 1, z := 1, gs := 1
    textBase := loadTeam.textBase, textSize := 0x10000, tiles := 8, accs := 8, scratch := 1, copyq := 4, callmax := 4
    next := 1, started := 1, grid := List.replicate 8 { declared := true } }

/-- Its group, with 32 running lanes at the start of the text. -/
def loadGroup : Group :=
  { core := 0, slot := 0, team := some 0, alloc := 128, ntiles := 8, naccs := 8
    clasps := List.replicate 4 { declared := true }
    lanes := List.replicate 32 { st := .run, pc := BitVec.ofNat 64 loadText } }

/-- A machine into which a launch has been loaded and whose next issue is its first instruction. -/
def State.loaded (s : State) : State :=
  { s with
    mem := ssets s.mem loadTables
    groups := loadGroup :: s.groups.filter (fun g => !g.at 0 0)
    teams := loadTeam :: s.teams.filter (fun t => t.id ≠ 0)
    launches := loadLaunch :: s.launches.filter (fun l => l.id ≠ 0)
    gangs := { launch := 0, idx := 0, clasps := List.replicate 16 { declared := true } } :: s.gangs
    issueQ := [{ core := 0, slot := 0, pc := BitVec.ofNat 64 loadText, lanes := 0xFFFFFFFF }] }

/-- The words of a table row's instruction, three of them, zero above nbits. -/
def fetchWords (nbits w : Nat) : List Word :=
  (List.range 3).map (fun k => BitVec.ofNat 32 (w % 2 ^ nbits / 2 ^ (32 * k)))

/-- Writes words where the next issue fetches them; the longest instruction has three. -/
def State.placeWords (s : State) (ws : List Word) : State :=
  match s.issueQ with
  | [] => s
  | i :: _ =>
    match s.group? i.core i.slot with
    | none => s
    | some g =>
      (number 0 ws).foldl (fun s e =>
        match s.fetchPlace g (i.pc + BitVec.ofNat 64 (4 * e.1)) with
        | .ok p => (s.put p.space (wordBytes p.addr e.2)).dropText [(p.space, p.addr / 128)]
        | .error _ => s) s

end Sys2Proof.Machine
end

