-- ==== Sys2Proof/Machine/VecInt.lean ====
section
/-! DEFINITION. VecInt: vector integer and address instructions (R143 to R148). -/

namespace Sys2Proof.Machine

open Host (Outcome)

/-- An exact integer clamped to a range, as a word. -/
def clampW (lo hi v : Int) : Word := BitVec.ofInt 32 (max lo (min hi v))

/-- The saturation of IADD and ISUB (R136): the plain result, or the exact one clamped. -/
def satOp (fam : Nat) (plain : Word) (signed unsigned : Int) : Word :=
  match fam with
  | 0 => plain
  | 1 => clampW (-2 ^ 31) (2 ^ 31 - 1) signed
  | _ => clampW 0 (2 ^ 32 - 1) unsigned

def execIadd (x : Exts) (d a b : BitVec 7) (s : State) : Outcome State Fault Refusal :=
  s.vvv x d a b (fun u v => satOp (Exts.fam x).toNat (u + v) (u.toInt + v.toInt) (u.toNat + v.toNat))
def execIsub (x : Exts) (d a b : BitVec 7) (s : State) : Outcome State Fault Refusal :=
  s.vvv x d a b (fun u v => satOp (Exts.fam x).toNat (u - v) (u.toInt - v.toInt) ((u.toNat : Int) - v.toNat))
def execImul (x : Exts) (d a b : BitVec 7) (s : State) : Outcome State Fault Refusal := s.vvv x d a b (· * ·)
def execImulh (x : Exts) (d a b : BitVec 7) (s : State) : Outcome State Fault Refusal :=
  s.vvv x d a b (fun u v =>
    if (Exts.fam x).getLsbD 0 then BitVec.ofNat 32 (u.toNat * v.toNat / 2 ^ 32)
    else BitVec.ofInt 32 (u.toInt * v.toInt / 2 ^ 32))
def execIand (x : Exts) (d a b : BitVec 7) (s : State) : Outcome State Fault Refusal := s.vvv x d a b (· &&& ·)
def execIor (x : Exts) (d a b : BitVec 7) (s : State) : Outcome State Fault Refusal := s.vvv x d a b (· ||| ·)
def execIxor (x : Exts) (d a b : BitVec 7) (s : State) : Outcome State Fault Refusal := s.vvv x d a b (· ^^^ ·)
def execInot (x : Exts) (d a : BitVec 7) (s : State) : Outcome State Fault Refusal := s.vv x d a (~~~ ·)
def execIshl (x : Exts) (d a b : BitVec 7) (s : State) : Outcome State Fault Refusal :=
  s.vvv x d a b (fun u v => shiftBy v 32 (fun n => u <<< n) 0)
def execIshr (x : Exts) (d a b : BitVec 7) (s : State) : Outcome State Fault Refusal :=
  s.vvv x d a b (fun u v => shiftBy v 32 (fun n => u >>> n) 0)
def execIsra (x : Exts) (d a b : BitVec 7) (s : State) : Outcome State Fault Refusal :=
  s.vvv x d a b (fun u v => shiftBy v 32 (fun n => u.sshiftRight n) (if u.msb then BitVec.allOnes 32 else 0))
def execImin (x : Exts) (d a b : BitVec 7) (s : State) : Outcome State Fault Refusal :=
  s.vvv x d a b (minmax false ((Exts.fam x).getLsbD 0))
def execImax (x : Exts) (d a b : BitVec 7) (s : State) : Outcome State Fault Refusal :=
  s.vvv x d a b (minmax true ((Exts.fam x).getLsbD 0))
def execIabs (x : Exts) (d a : BitVec 7) (s : State) : Outcome State Fault Refusal :=
  s.vv x d a (fun u => if u.msb then -u else u)

/-- POPC, CLZ and BREV of R143. -/
def popcW (u : Word) : Word := BitVec.ofNat 32 (lanesOf u).length
def clzW (u : Word) : Word := BitVec.ofNat 32 (32 - bitLen u.toNat)
def brevW (u : Word) : Word := maskOf (fun i => u.getLsbD (31 - i))

def execPopc (x : Exts) (d a : BitVec 7) (s : State) : Outcome State Fault Refusal := s.vv x d a popcW
def execClz (x : Exts) (d a : BitVec 7) (s : State) : Outcome State Fault Refusal := s.vv x d a clzW
def execBrev (x : Exts) (d a : BitVec 7) (s : State) : Outcome State Fault Refusal := s.vv x d a brevW

/-- IADDC (R144): P[C] carries in and out, lane by lane. -/
def execIaddc (x : Exts) (d a b : BitVec 7) (s : State) : Outcome State Fault Refusal :=
  let pc := (Exts.c x).toNat
  s.plain x (vuse (Exts.uniA x) a 1 ++ vuse (Exts.uniB x) b 1 ++ vuse false d 1) (fun g L =>
    let sum := fun j => (g.srcA x a j).toNat + (g.srcB x b j).toNat + (if (g.lane j).pred pc then 1 else 0)
    (g.eachV d L (fun j => BitVec.ofNat 32 (sum j))).eachPred (Exts.c x) L (fun j => 2 ^ 32 ≤ sum j))

/-- IMAD (R145). -/
def execImad (x : Exts) (d a b : BitVec 7) (s : State) : Outcome State Fault Refusal :=
  s.plain x (vuse (Exts.uniA x) a 1 ++ vuse (Exts.uniB x) b 1 ++ vuse (Exts.uniC x) (Exts.c x) 1 ++ vuse false d 1)
    (fun g L => g.eachV d L (fun j => g.srcA x a j * g.srcB x b j + g.srcC x j))

/-- IMADW (R145). -/
def execImadw (x : Exts) (d a b : BitVec 7) (s : State) : Outcome State Fault Refusal :=
  let ext := fun (w : Word) => if (Exts.fam x).getLsbD 0 then w.setWidth 64 else w.signExtend 64
  s.plain x (vuse (Exts.uniA x) a 1 ++ vuse (Exts.uniB x) b 1 ++ vuse (Exts.uniC x) (Exts.c x) 2 ++ vuse false d 2)
    (fun g L => g.eachP d L (fun j => ext (g.srcA x a j) * ext (g.srcB x b j) + g.srcC2 x j))

/-- ICMP (R146). -/
def execIcmp (x : Exts) (d a b : BitVec 7) (s : State) : Outcome State Fault Refusal :=
  s.plain x (vuse (Exts.uniA x) a 1 ++ vuse (Exts.uniB x) b 1)
    (fun g L => g.eachPred d L (fun j => cmp (Exts.fam x).toNat (g.srcA x a j) (g.srcB x b j)))

/-- ISEL (R146). -/
def execIsel (x : Exts) (d a b : BitVec 7) (s : State) : Outcome State Fault Refusal :=
  s.plain x (vuse (Exts.uniA x) a 1 ++ vuse (Exts.uniB x) b 1 ++ vuse false d 1)
    (fun g L => g.eachV d L (fun j =>
      if (g.lane j).pred (Exts.c x).toNat then g.srcA x a j else g.srcB x b j))

/-- The position and the length used by BFX and BFI (R147). -/
def bfPos (b : Word) : Nat := b.toNat % 32
def bfLen (b : Word) : Nat := min (bits b.toNat 13 8) (32 - bfPos b)

/-- BFX (R147). -/
def bfxW (signed : Bool) (a b : Word) : Word :=
  let len := bfLen b
  let f := a.toNat / 2 ^ bfPos b % 2 ^ len
  if signed && 0 < len && bitN f (len - 1) then BitVec.ofInt 32 ((f : Int) - 2 ^ len) else BitVec.ofNat 32 f

/-- BFI (R147). -/
def bfiW (a b c : Word) : Word :=
  let mask := BitVec.ofNat 32 ((2 ^ bfLen b - 1) * 2 ^ bfPos b)
  (c &&& ~~~mask) ||| ((a <<< bfPos b) &&& mask)

def execBfx (x : Exts) (d a b : BitVec 7) (s : State) : Outcome State Fault Refusal :=
  s.vvv x d a b (bfxW ((Exts.fam x).getLsbD 0))
def execBfi (x : Exts) (d a b : BitVec 7) (s : State) : Outcome State Fault Refusal :=
  s.plain x (vuse (Exts.uniA x) a 1 ++ vuse (Exts.uniB x) b 1 ++ vuse (Exts.uniC x) (Exts.c x) 1 ++ vuse false d 1)
    (fun g L => g.eachV d L (fun j => bfiW (g.srcA x a j) (g.srcB x b j) (g.srcC x j)))

/-- LEA (R148). -/
def execLea (x : Exts) (d a b : BitVec 7) (s : State) : Outcome State Fault Refusal :=
  s.plain x (vuse (Exts.uniA x) a 2 ++ vuse (Exts.uniB x) b 1 ++ vuse false d 2) (fun g L =>
    g.eachP d L (fun j =>
      let b := g.srcB x b j
      let i : DWord := if (Exts.fam x).getLsbD 3 then b.signExtend 64 else b.setWidth 64
      g.srcA2 x a j + i <<< ((Exts.fam x).toNat % 8)))

end Sys2Proof.Machine
end

