-- ==== Sys2Proof/Machine/Predicate.lean ====
section
/-! DEFINITION. Predicate: predicate logic, votes, matches, integer reductions and scans (R149 to R154). -/

namespace Sys2Proof.Machine

open Host (Outcome)

/-- `OP Pd, Pa, Pb` with the inversions of FAM (R149). -/
def State.ppp (s : State) (x : Exts) (d a b : BitVec 7) (f : Bool → Bool → Bool) : Outcome State Fault Refusal :=
  let na := (Exts.fam x).getLsbD 0
  let nb := (Exts.fam x).getLsbD 1
  s.plain x [] (fun g L => g.eachPred d L (fun j =>
    f ((g.lane j).pred a.toNat != na) ((g.lane j).pred b.toNat != nb)))

def execPand (x : Exts) (d a b : BitVec 7) (s : State) : Outcome State Fault Refusal := s.ppp x d a b (· && ·)
def execPor (x : Exts) (d a b : BitVec 7) (s : State) : Outcome State Fault Refusal := s.ppp x d a b (· || ·)
def execPxor (x : Exts) (d a b : BitVec 7) (s : State) : Outcome State Fault Refusal := s.ppp x d a b (· != ·)
def execPnot (x : Exts) (d a : BitVec 7) (s : State) : Outcome State Fault Refusal :=
  s.plain x [] (fun g L => g.eachPred d L (fun j => !(g.lane j).pred a.toNat))
def execPmov (x : Exts) (d a : BitVec 7) (s : State) : Outcome State Fault Refusal :=
  s.plain x [] (fun g L => g.eachPred d L (fun j => (g.lane j).pred a.toNat))

/-- The lanes of L with a predicate set. -/
def Group.voteMask (g : Group) (L : Word) (a : BitVec 7) : Word :=
  maskOf (fun j => L.getLsbD j && (g.lane j).pred a.toNat)

/-- VOTE with a predicate destination (R151). -/
def execVoteP (x : Exts) (d a : BitVec 7) (s : State) : Outcome State Fault Refusal :=
  s.plain x [] (fun g L =>
    let m := g.voteMask L a
    let r := match (Exts.fam x).toNat with
      | 0 => m ≠ 0
      | 1 => m = L
      | _ => m = 0 || m = L
    g.eachPred d L (fun _ => r))

/-- VOTE with a uniform destination (R151). -/
def execVoteS (x : Exts) (d a : BitVec 7) (s : State) : Outcome State Fault Refusal :=
  s.plain x [] (fun g L => g.ws d.toNat (L ++ g.voteMask L a))

/-- The lanes of L whose value equals a value. -/
def Group.matchMask (g : Group) (x : Exts) (a : BitVec 7) (L v : Word) : Word :=
  maskOf (fun i => L.getLsbD i && g.srcA x a i = v)

/-- MATCH with a vector destination (R152). -/
def execMatchV (x : Exts) (d a : BitVec 7) (s : State) : Outcome State Fault Refusal :=
  s.plain x (vuse (Exts.uniA x) a 1 ++ vuse false d 1) (fun g L =>
    g.eachV d L (fun j => g.matchMask x a L (g.srcA x a j)))

/-- MATCH with a uniform destination (R152). -/
def execMatchS (x : Exts) (d a : BitVec 7) (s : State) : Outcome State Fault Refusal :=
  s.plain x (vuse (Exts.uniA x) a 1) (fun g L =>
    let v := g.srcA x a ((lanesOf L).headD 0)
    g.ws d.toNat (v ++ g.matchMask x a L v))

/-- The operations of RED.I and SCAN.I on words (R136, R153). -/
def redOp (op : Nat) (uns : Bool) (u v : Word) : Word :=
  match op with
  | 0 => u + v
  | 1 => minmax false uns u v
  | 2 => minmax true uns u v
  | 3 => u &&& v
  | 4 => u ||| v
  | _ => u ^^^ v

/-- The identities of R154. -/
def redIdent (op : Nat) (uns : Bool) : Word :=
  match op with
  | 1 => if uns then 0xFFFFFFFF else 0x7FFFFFFF
  | 2 => if uns then 0 else 0x80000000
  | 3 => 0xFFFFFFFF
  | _ => 0

/-- The values of the lanes of L, ascending. -/
def Group.valuesA (g : Group) (x : Exts) (a : BitVec 7) (L : Word) : List (Nat × Word) :=
  (lanesOf L).map (fun j => (j, g.srcA x a j))

/-- RED.I with a vector destination (R153). -/
def execRedIV (x : Exts) (d a : BitVec 7) (s : State) : Outcome State Fault Refusal :=
  let op := (Exts.fam x).toNat % 8
  let uns := (Exts.fam x).getLsbD 3
  s.plain x (vuse (Exts.uniA x) a 1 ++ vuse false d 1) (fun g L =>
    let r := (g.valuesA x a L).foldl (fun acc v => redOp op uns acc v.2) (redIdent op uns)
    g.eachV d L (fun _ => r))

/-- RED.I with a uniform destination: .ADD is the exact sum (R153). -/
def execRedIS (x : Exts) (d a : BitVec 7) (s : State) : Outcome State Fault Refusal :=
  let op := (Exts.fam x).toNat % 8
  let uns := (Exts.fam x).getLsbD 3
  let ext := fun (w : Word) => if uns then w.setWidth 64 else w.signExtend 64
  s.plain x (vuse (Exts.uniA x) a 1) (fun g L =>
    let vs := g.valuesA x a L
    let r : DWord :=
      if op = 0 then vs.foldl (fun acc v => acc + ext v.2) 0
      else
        let w := vs.foldl (fun acc v => redOp op uns acc v.2) (redIdent op uns)
        if op ≤ 2 then ext w else w.setWidth 64
    g.ws d.toNat r)

/-- The prefixes of SCAN.I, and the final combination (R154). -/
def scanI (op : Nat) (uns ex : Bool) : Word → List (Nat × Word) → List (Nat × Word) × Word
  | acc, [] => ([], acc)
  | acc, (j, v) :: r =>
    let n := redOp op uns acc v
    let (rest, fin) := scanI op uns ex n r
    ((j, if ex then acc else n) :: rest, fin)

/-- Writes lane results into a register of the window. -/
def Group.writeOut (g : Group) (d : BitVec 7) (l : List (Nat × Word)) : Group :=
  l.foldl (fun g e => g.wv (g.wbase + d.toNat) e.1 e.2) g

/-- SCAN.I with a vector destination (R154). -/
def execScanIV (x : Exts) (d a : BitVec 7) (s : State) : Outcome State Fault Refusal :=
  let op := (Exts.fam x).toNat % 8
  let uns := (Exts.fam x).getLsbD 3
  s.plain x (vuse (Exts.uniA x) a 1 ++ vuse false d 1) (fun g L =>
    g.writeOut d (scanI op uns ((Exts.fam x).getLsbD 4) (redIdent op uns) (g.valuesA x a L)).1)

/-- The chained SCAN.I: the carry comes from S[D], and the lane results go back to the register A (R154). -/
def execScanIS (x : Exts) (d a : BitVec 7) (s : State) : Outcome State Fault Refusal :=
  let op := (Exts.fam x).toNat % 8
  let uns := (Exts.fam x).getLsbD 3
  s.plain x (vuse false a 1) (fun g L =>
    let (out, fin) := scanI op uns ((Exts.fam x).getLsbD 4) ((g.rs d.toNat).setWidth 32) (g.valuesA x a L)
    (g.writeOut a out).ws d.toNat (fin.setWidth 64))

end Sys2Proof.Machine
end

