-- ==== Sys2Proof/Machine/Float.lean ====
section
/-! DEFINITION. Float: floating-point arithmetic, special functions, conversions, exact pairs, double words, reductions,
flags, and the route and network registers (R170 to R202). The numbers are computed in Flags.lean and Trans.lean. -/

namespace Sys2Proof.Machine

open Host (Outcome)

/-- FTZ and FTZ64 of FPCTL (R118). -/
def Group.ftz (g : Group) : Bool := g.fpctl.getLsbD 0
def Group.ftz64 (g : Group) : Bool := g.fpctl.getLsbD 1

/-- The rounding mode in FAM [2:0] (R171). -/
def Exts.rm (x : Exts) : Rm := rmOf ((Exts.fam x).toNat % 8)

/-- Writes a 32-bit result and its flags in each lane of L. -/
def Group.eachF (g : Group) (d : BitVec 7) (L : Word) (f : Nat → FRes) : Group :=
  (lanesOf L).foldl (fun h j =>
    let r := f j
    (h.wv (g.wbase + d.toNat) j (BitVec.ofNat 32 r.1)).modLane j (fun l => l.setFlags r.2)) g

/-- Writes a 64-bit result and its flags in each lane of L. -/
def Group.eachF64 (g : Group) (d : BitVec 7) (L : Word) (f : Nat → FRes) : Group :=
  (lanesOf L).foldl (fun h j =>
    let r := f j
    (h.wv2 (g.wbase + d.toNat) j (BitVec.ofNat 64 r.1)).modLane j (fun l => l.setFlags r.2)) g

/-- Writes a pair of 32-bit results (R106). -/
def Group.eachX (g : Group) (d : BitVec 7) (L : Word) (f : Nat → Nat × Nat × BitVec 5) : Group :=
  (lanesOf L).foldl (fun h j =>
    let (hi, lo, fl) := f j
    ((h.wv (g.wbase + d.toNat) j (BitVec.ofNat 32 hi)).wv (g.wbase + d.toNat + 1) j (BitVec.ofNat 32 lo)).modLane j
      (fun l => l.setFlags fl)) g

/-- Writes a pair of 64-bit results into a quad (R106). -/
def Group.eachX64 (g : Group) (d : BitVec 7) (L : Word) (f : Nat → Nat × Nat × BitVec 5) : Group :=
  (lanesOf L).foldl (fun h j =>
    let (hi, lo, fl) := f j
    ((h.wv2 (g.wbase + d.toNat) j (BitVec.ofNat 64 hi)).wv2 (g.wbase + d.toNat + 2) j (BitVec.ofNat 64 lo)).modLane j
      (fun l => l.setFlags fl)) g

/-- Writes a predicate and flags in each lane of L. -/
def Group.eachCmp (g : Group) (d : BitVec 7) (L : Word) (f : Nat → Bool × BitVec 5) : Group :=
  g.modLanes L (fun j l => (l.setPred d.toNat (f j).1).setFlags (f j).2)

/-- `OP Vd, Va, Vb` in FP32. -/
def State.f32vvv (s : State) (x : Exts) (d a b : BitVec 7) (f : Group → Nat → Nat → FRes) : Outcome State Fault Refusal :=
  s.plain x (vuse (Exts.uniA x) a 1 ++ vuse (Exts.uniB x) b 1 ++ vuse false d 1)
    (fun g L => g.eachF d L (fun j => f g (g.srcA x a j).toNat (g.srcB x b j).toNat))

/-- `OP Vd, Va` in FP32. -/
def State.f32vv (s : State) (x : Exts) (d a : BitVec 7) (f : Group → Nat → FRes) : Outcome State Fault Refusal :=
  s.plain x (vuse (Exts.uniA x) a 1 ++ vuse false d 1)
    (fun g L => g.eachF d L (fun j => f g (g.srcA x a j).toNat))

/-- The FP64 forms over pairs. -/
def State.f64vvv (s : State) (x : Exts) (d a b : BitVec 7) (f : Group → Nat → Nat → FRes) : Outcome State Fault Refusal :=
  s.plain x (vuse (Exts.uniA x) a 2 ++ vuse (Exts.uniB x) b 2 ++ vuse false d 2)
    (fun g L => g.eachF64 d L (fun j => f g (g.srcA2 x a j).toNat (g.srcB2 x b j).toNat))

def State.f64vv (s : State) (x : Exts) (d a : BitVec 7) (f : Group → Nat → FRes) : Outcome State Fault Refusal :=
  s.plain x (vuse (Exts.uniA x) a 2 ++ vuse false d 2)
    (fun g L => g.eachF64 d L (fun j => f g (g.srcA2 x a j).toNat))

/-! ## Arithmetic (R175 to R180) -/

def execFadd (x : Exts) (d a b : BitVec 7) (s : State) : Outcome State Fault Refusal :=
  s.f32vvv x d a b (fun g => fadd fp32 (Exts.rm x) g.ftz)
def execFsub (x : Exts) (d a b : BitVec 7) (s : State) : Outcome State Fault Refusal :=
  s.f32vvv x d a b (fun g => fsub fp32 (Exts.rm x) g.ftz)
def execFmul (x : Exts) (d a b : BitVec 7) (s : State) : Outcome State Fault Refusal :=
  s.f32vvv x d a b (fun g => fmul fp32 (Exts.rm x) g.ftz)
def execFmin (x : Exts) (d a b : BitVec 7) (s : State) : Outcome State Fault Refusal :=
  s.f32vvv x d a b (fun g => fminmax fp32 false ((Exts.fam x).getLsbD 0) g.ftz)
def execFmax (x : Exts) (d a b : BitVec 7) (s : State) : Outcome State Fault Refusal :=
  s.f32vvv x d a b (fun g => fminmax fp32 true ((Exts.fam x).getLsbD 0) g.ftz)
def execFfma (x : Exts) (d a b : BitVec 7) (s : State) : Outcome State Fault Refusal :=
  s.plain x (vuse (Exts.uniA x) a 1 ++ vuse (Exts.uniB x) b 1 ++ vuse (Exts.uniC x) (Exts.c x) 1 ++ vuse false d 1)
    (fun g L => g.eachF d L (fun j =>
      ffma fp32 (Exts.rm x) g.ftz (g.srcA x a j).toNat (g.srcB x b j).toNat (g.srcC x j).toNat))
def execFcmp (x : Exts) (d a b : BitVec 7) (s : State) : Outcome State Fault Refusal :=
  s.plain x (vuse (Exts.uniA x) a 1 ++ vuse (Exts.uniB x) b 1) (fun g L =>
    g.eachCmp d L (fun j => fcmp fp32 (Exts.fam x).toNat g.ftz (g.srcA x a j).toNat (g.srcB x b j).toNat))
def execFclass (x : Exts) (d a : BitVec 7) (s : State) : Outcome State Fault Refusal :=
  s.vv x d a (fun u => 1 <<< fclass fp32 u.toNat)
def execFrnd (x : Exts) (d a : BitVec 7) (s : State) : Outcome State Fault Refusal :=
  s.f32vv x d a (fun g => frnd fp32 (Exts.rm x) g.ftz)

def execFaddF64 (x : Exts) (d a b : BitVec 7) (s : State) : Outcome State Fault Refusal :=
  s.f64vvv x d a b (fun g => fadd fp64 (Exts.rm x) g.ftz64)
def execFsubF64 (x : Exts) (d a b : BitVec 7) (s : State) : Outcome State Fault Refusal :=
  s.f64vvv x d a b (fun g => fsub fp64 (Exts.rm x) g.ftz64)
def execFmulF64 (x : Exts) (d a b : BitVec 7) (s : State) : Outcome State Fault Refusal :=
  s.f64vvv x d a b (fun g => fmul fp64 (Exts.rm x) g.ftz64)
def execFminF64 (x : Exts) (d a b : BitVec 7) (s : State) : Outcome State Fault Refusal :=
  s.f64vvv x d a b (fun g => fminmax fp64 false ((Exts.fam x).getLsbD 0) g.ftz64)
def execFmaxF64 (x : Exts) (d a b : BitVec 7) (s : State) : Outcome State Fault Refusal :=
  s.f64vvv x d a b (fun g => fminmax fp64 true ((Exts.fam x).getLsbD 0) g.ftz64)
def execFfmaF64 (x : Exts) (d a b : BitVec 7) (s : State) : Outcome State Fault Refusal :=
  s.plain x (vuse (Exts.uniA x) a 2 ++ vuse (Exts.uniB x) b 2 ++ vuse (Exts.uniC x) (Exts.c x) 2 ++ vuse false d 2)
    (fun g L => g.eachF64 d L (fun j =>
      ffma fp64 (Exts.rm x) g.ftz64 (g.srcA2 x a j).toNat (g.srcB2 x b j).toNat (g.srcC2 x j).toNat))
def execFcmpF64 (x : Exts) (d a b : BitVec 7) (s : State) : Outcome State Fault Refusal :=
  s.plain x (vuse (Exts.uniA x) a 2 ++ vuse (Exts.uniB x) b 2) (fun g L =>
    g.eachCmp d L (fun j => fcmp fp64 (Exts.fam x).toNat g.ftz64 (g.srcA2 x a j).toNat (g.srcB2 x b j).toNat))
def execFclassF64 (x : Exts) (d a : BitVec 7) (s : State) : Outcome State Fault Refusal :=
  s.plain x (vuse (Exts.uniA x) a 2 ++ vuse false d 1) (fun g L =>
    g.eachV d L (fun j => 1 <<< fclass fp64 (g.srcA2 x a j).toNat))
def execFrndF64 (x : Exts) (d a : BitVec 7) (s : State) : Outcome State Fault Refusal :=
  s.f64vv x d a (fun g => frnd fp64 (Exts.rm x) g.ftz64)

/-! ## Special functions (R181, R182) -/

def execFdiv (x : Exts) (d a b : BitVec 7) (s : State) : Outcome State Fault Refusal :=
  s.f32vvv x d a b (fun g => fdiv fp32 (Exts.rm x) g.ftz)
def execFsqrt (x : Exts) (d a : BitVec 7) (s : State) : Outcome State Fault Refusal :=
  s.f32vv x d a (fun g => fsqrt fp32 (Exts.rm x) g.ftz)
def execFrcp (x : Exts) (d a : BitVec 7) (s : State) : Outcome State Fault Refusal :=
  s.f32vv x d a (fun g => frcp fp32 (Exts.rm x) g.ftz)
def execFrsq (x : Exts) (d a : BitVec 7) (s : State) : Outcome State Fault Refusal :=
  s.f32vv x d a (fun g => frsq fp32 (Exts.rm x) g.ftz)
def execFex2 (x : Exts) (d a : BitVec 7) (s : State) : Outcome State Fault Refusal :=
  s.f32vv x d a (fun g => fex2 fp32 (Exts.rm x) g.ftz)
def execFlg2 (x : Exts) (d a : BitVec 7) (s : State) : Outcome State Fault Refusal :=
  s.f32vv x d a (fun g => flg2 fp32 (Exts.rm x) g.ftz)
def execFsin (x : Exts) (d a : BitVec 7) (s : State) : Outcome State Fault Refusal :=
  s.f32vv x d a (fun g => fsin fp32 (Exts.rm x) g.ftz)
def execFcos (x : Exts) (d a : BitVec 7) (s : State) : Outcome State Fault Refusal :=
  s.f32vv x d a (fun g => fcos fp32 (Exts.rm x) g.ftz)
def execFdivF64 (x : Exts) (d a b : BitVec 7) (s : State) : Outcome State Fault Refusal :=
  s.f64vvv x d a b (fun g => fdiv fp64 (Exts.rm x) g.ftz64)
def execFsqrtF64 (x : Exts) (d a : BitVec 7) (s : State) : Outcome State Fault Refusal :=
  s.f64vv x d a (fun g => fsqrt fp64 (Exts.rm x) g.ftz64)
def execFrcpF64 (x : Exts) (d a : BitVec 7) (s : State) : Outcome State Fault Refusal :=
  s.f64vv x d a (fun g => frcp fp64 (Exts.rm x) g.ftz64)
def execFrsqF64 (x : Exts) (d a : BitVec 7) (s : State) : Outcome State Fault Refusal :=
  s.f64vv x d a (fun g => frsq fp64 (Exts.rm x) g.ftz64)

/-! ## Conversion (R183 to R186) -/

/-- Whether a format code names a 64-bit format, held in a pair (R183). -/
def wideCode (c : BitVec 5) : Bool := c = 0 || c = 14 || c = 15

/-- CVT: `c` is the source code, `t` the destination code. -/
def execCvt (x : Exts) (d a : BitVec 7) (c t : BitVec 5) (s : State) : Outcome State Fault Refusal :=
  let rm := Exts.rm x
  let sat := (Exts.fam x).getLsbD 3
  s.plain x (vuse (Exts.uniA x) a (if wideCode c then 2 else 1) ++ vuse false d (if wideCode t then 2 else 1))
    (fun g L =>
      let src := fun j => if wideCode c then (g.srcA2 x a j).toNat else (g.srcA x a j).toNat
      let f := fun j => cvt c.toNat t.toNat rm sat g.ftz g.ftz64 (src j)
      if wideCode t then g.eachF64 d L f else g.eachF d L f)

/-! ## Exact pairs and double words (R187 to R192) -/

def State.x32 (s : State) (x : Exts) (d a b : BitVec 7) (f : Nat → Nat → Nat × Nat × BitVec 5) :
    Outcome State Fault Refusal :=
  s.plain x (vuse (Exts.uniA x) a 1 ++ vuse (Exts.uniB x) b 1 ++ vuse false d 2)
    (fun g L => g.eachX d L (fun j => f (g.srcA x a j).toNat (g.srcB x b j).toNat))
def State.x64 (s : State) (x : Exts) (d a b : BitVec 7) (f : Nat → Nat → Nat × Nat × BitVec 5) :
    Outcome State Fault Refusal :=
  s.plain x (vuse (Exts.uniA x) a 2 ++ vuse (Exts.uniB x) b 2 ++ vuse false d 4)
    (fun g L => g.eachX64 d L (fun j => f (g.srcA2 x a j).toNat (g.srcB2 x b j).toNat))

def execFaddX (x : Exts) (d a b : BitVec 7) (s : State) : Outcome State Fault Refusal := s.x32 x d a b (faddX fp32)
def execFsubX (x : Exts) (d a b : BitVec 7) (s : State) : Outcome State Fault Refusal := s.x32 x d a b (fsubX fp32)
def execFmulX (x : Exts) (d a b : BitVec 7) (s : State) : Outcome State Fault Refusal := s.x32 x d a b (fmulX fp32)
def execFaddXF64 (x : Exts) (d a b : BitVec 7) (s : State) : Outcome State Fault Refusal := s.x64 x d a b (faddX fp64)
def execFsubXF64 (x : Exts) (d a b : BitVec 7) (s : State) : Outcome State Fault Refusal := s.x64 x d a b (fsubX fp64)
def execFmulXF64 (x : Exts) (d a b : BitVec 7) (s : State) : Outcome State Fault Refusal := s.x64 x d a b (fmulX fp64)

/-- The registers of a pair operand: the even one holds the high part of a double word (R106). -/
def evenPart (v : DWord) : Nat := v.toNat % 2 ^ 32
def oddPart (v : DWord) : Nat := v.toNat / 2 ^ 32

def State.dw32 (s : State) (x : Exts) (d a b : BitVec 7) (f : Nat → Nat → Nat → Nat → Nat × Nat × BitVec 5) :
    Outcome State Fault Refusal :=
  s.plain x (vuse (Exts.uniA x) a 2 ++ vuse (Exts.uniB x) b 2 ++ vuse false d 2) (fun g L =>
    g.eachX d L (fun j =>
      let u := g.srcA2 x a j
      let v := g.srcB2 x b j
      f (evenPart u) (oddPart u) (evenPart v) (oddPart v)))

/-- The two 64-bit parts of a quad source. -/
def quadPart (v : BitVec 128) (k : Nat) : Nat := v.toNat / 2 ^ (64 * k) % 2 ^ 64

def State.dw64 (s : State) (x : Exts) (d a b : BitVec 7) (f : Nat → Nat → Nat → Nat → Nat × Nat × BitVec 5) :
    Outcome State Fault Refusal :=
  s.plain x (vuse false a 4 ++ vuse false b 4 ++ vuse false d 4) (fun g L =>
    g.eachX64 d L (fun j =>
      let u := g.srcQ (Exts.fa x) a j
      let v := g.srcQ (Exts.fb x) b j
      f (quadPart u 0) (quadPart u 1) (quadPart v 0) (quadPart v 1)))

def execDwadd (x : Exts) (d a b : BitVec 7) (s : State) : Outcome State Fault Refusal := s.dw32 x d a b (dwadd fp32)
def execDwsub (x : Exts) (d a b : BitVec 7) (s : State) : Outcome State Fault Refusal := s.dw32 x d a b (dwsub fp32)
def execDwmul (x : Exts) (d a b : BitVec 7) (s : State) : Outcome State Fault Refusal := s.dw32 x d a b (dwmul fp32)
def execDwaddF64 (x : Exts) (d a b : BitVec 7) (s : State) : Outcome State Fault Refusal := s.dw64 x d a b (dwadd fp64)
def execDwsubF64 (x : Exts) (d a b : BitVec 7) (s : State) : Outcome State Fault Refusal := s.dw64 x d a b (dwsub fp64)
def execDwmulF64 (x : Exts) (d a b : BitVec 7) (s : State) : Outcome State Fault Refusal := s.dw64 x d a b (dwmul fp64)

/-- DWNORM (R191). -/
def execDwnorm (x : Exts) (d a : BitVec 7) (s : State) : Outcome State Fault Refusal :=
  s.plain x (vuse (Exts.uniA x) a 2 ++ vuse false d 2) (fun g L =>
    g.eachX d L (fun j => let u := g.srcA2 x a j; dwnorm fp32 (evenPart u) (oddPart u)))
def execDwnormF64 (x : Exts) (d a : BitVec 7) (s : State) : Outcome State Fault Refusal :=
  s.plain x (vuse false a 4 ++ vuse false d 4) (fun g L =>
    g.eachX64 d L (fun j => let u := g.srcQ (Exts.fa x) a j; dwnorm fp64 (quadPart u 0) (quadPart u 1)))

/-! ## Reductions and scans (R193 to R196) -/

/-- The 32 positions with the values of L. -/
def positions (L : Word) (f : Nat → Nat) : List (Option Nat) :=
  (List.range 32).map (fun j => if L.getLsbD j then some (f j) else none)

/-- Sets flags in every lane of L. -/
def Group.flagAll (g : Group) (L : Word) (fl : BitVec 5) : Group := g.modLanes L (fun _ l => l.setFlags fl)

def redRes (r : Option FRes) : FRes := r.getD (0, 0)

/-- RED.F in FP32, to a vector or a uniform register (R194). -/
def execRedFV (x : Exts) (d a : BitVec 7) (s : State) : Outcome State Fault Refusal :=
  s.plain x (vuse (Exts.uniA x) a 1 ++ vuse false d 1) (fun g L =>
    let r := redRes (redF fp32 ((Exts.fam x).toNat % 4) ((Exts.fam x).getLsbD 2) g.ftz
      (positions L (fun j => (g.srcA x a j).toNat)))
    g.eachF d L (fun _ => r))
def execRedFS (x : Exts) (d a : BitVec 7) (s : State) : Outcome State Fault Refusal :=
  s.plain x (vuse (Exts.uniA x) a 1) (fun g L =>
    let r := redRes (redF fp32 ((Exts.fam x).toNat % 4) ((Exts.fam x).getLsbD 2) g.ftz
      (positions L (fun j => (g.srcA x a j).toNat)))
    (g.ws d.toNat (BitVec.ofNat 64 r.1)).flagAll L r.2)
def execRedFF64V (x : Exts) (d a : BitVec 7) (s : State) : Outcome State Fault Refusal :=
  s.plain x (vuse (Exts.uniA x) a 2 ++ vuse false d 2) (fun g L =>
    let r := redRes (redF fp64 ((Exts.fam x).toNat % 4) ((Exts.fam x).getLsbD 2) g.ftz64
      (positions L (fun j => (g.srcA2 x a j).toNat)))
    g.eachF64 d L (fun _ => r))
def execRedFF64S (x : Exts) (d a : BitVec 7) (s : State) : Outcome State Fault Refusal :=
  s.plain x (vuse (Exts.uniA x) a 2) (fun g L =>
    let r := redRes (redF fp64 ((Exts.fam x).toNat % 4) ((Exts.fam x).getLsbD 2) g.ftz64
      (positions L (fun j => (g.srcA2 x a j).toNat)))
    (g.ws d.toNat (BitVec.ofNat 64 r.1)).flagAll L r.2)

/-- RED.FC (R195). -/
def execRedFcV (x : Exts) (d a : BitVec 7) (s : State) : Outcome State Fault Refusal :=
  s.plain x (vuse (Exts.uniA x) a 1 ++ vuse false d 2) (fun g L =>
    let r := (redFC fp32 (positions L (fun j => (g.srcA x a j).toNat))).getD (0, 0, 0)
    g.eachX d L (fun _ => r))
def execRedFcS (x : Exts) (d a : BitVec 7) (s : State) : Outcome State Fault Refusal :=
  s.plain x (vuse (Exts.uniA x) a 1) (fun g L =>
    let r := (redFC fp32 (positions L (fun j => (g.srcA x a j).toNat))).getD (0, 0, 0)
    (g.ws d.toNat (BitVec.ofNat 64 (r.2.1 * 2 ^ 32 + r.1))).flagAll L r.2.2)
def execRedFcF64 (x : Exts) (d a : BitVec 7) (s : State) : Outcome State Fault Refusal :=
  s.plain x (vuse (Exts.uniA x) a 2 ++ vuse false d 4) (fun g L =>
    let r := (redFC fp64 (positions L (fun j => (g.srcA2 x a j).toNat))).getD (0, 0, 0)
    g.eachX64 d L (fun _ => r))

/-- The result of a scan for a lane. -/
def scanAt (l : List (Nat × Nat)) (j : Nat) : Nat := ((l.find? (fun e => e.1 = j)).map Prod.snd).getD 0

/-- SCAN.F (R196). -/
def execScanF (x : Exts) (d a : BitVec 7) (s : State) : Outcome State Fault Refusal :=
  s.plain x (vuse (Exts.uniA x) a 1 ++ vuse false d 1) (fun g L =>
    let r := scanF fp32 ((Exts.fam x).toNat % 4) ((Exts.fam x).getLsbD 2) ((Exts.fam x).getLsbD 4) g.ftz none 0
      ((lanesOf L).map (fun j => (j, (g.srcA x a j).toNat)))
    g.eachF d L (fun j => (scanAt r.1 j, r.2)))
def execScanFF64 (x : Exts) (d a : BitVec 7) (s : State) : Outcome State Fault Refusal :=
  s.plain x (vuse (Exts.uniA x) a 2 ++ vuse false d 2) (fun g L =>
    let r := scanF fp64 ((Exts.fam x).toNat % 4) ((Exts.fam x).getLsbD 2) ((Exts.fam x).getLsbD 4) g.ftz64 none 0
      ((lanesOf L).map (fun j => (j, (g.srcA2 x a j).toNat)))
    g.eachF64 d L (fun j => (scanAt r.1 j, r.2)))

/-! ## Flags, routes and networks (R197 to R200) -/

/-- FLGR (R197). -/
def execFlgr (x : Exts) (d : BitVec 7) (s : State) : Outcome State Fault Refusal :=
  s.plain x (vuse false d 1) (fun g L => g.eachV d L (fun j => (g.lane j).flags.setWidth 32))

/-- FLGC (R198). -/
def execFlgc (x : Exts) (m : BitVec 5) (s : State) : Outcome State Fault Refusal :=
  s.plain x [] (fun g L => g.modLanes L (fun _ l => { l with flags := l.flags &&& ~~~m }))

/-- Writes entry j of a route (R114). -/
def setEntry (q : BitVec 160) (j : Nat) (v : BitVec 5) : BitVec 160 :=
  (q &&& ~~~((31 : BitVec 160) <<< (5 * j))) ||| (v.setWidth 160 <<< (5 * j))

/-- QSET (R199). -/
def execQset (x : Exts) (d a : BitVec 7) (s : State) : Outcome State Fault Refusal :=
  s.plain x (vuse (Exts.uniA x) a 1) (fun g L =>
    { g with q := upd g.q d.toNat (fun q =>
        (lanesOf L).foldl (fun q j => setEntry q j ((g.srcA x a j).setWidth 5)) q) })

/-- NSET (R200): lanes 0 to 4 are read as a faceted source reads them. -/
def execNset (x : Exts) (d a : BitVec 7) (s : State) : Outcome State Fault Refusal :=
  s.plain x (vuse (Exts.uniA x) a 1) (fun g _ =>
    let r := g.srcA x a
    let v : BitVec 144 := (r 4).setWidth 16 ++ (r 3 ++ r 2 ++ r 1 ++ r 0)
    { g with n := upd g.n d.toNat (fun _ => v) })

end Sys2Proof.Machine
end

