-- ==== Sys2Proof/Machine/Memory.lean ====
section
/-! DEFINITION. Memory: LD, ST, ATOM, RED.M, MWAIT, FENCE, cache control and HPROBE as a group issues them (R204 to
R211, R245, R248 to R258). What happens to the requests afterwards is in Home.lean. -/

namespace Sys2Proof.Machine

open Host (Outcome)

/-! ## The checks of R248 in one lane -/

/-- What the checks leave a lane with. -/
inductive Checked where
  | go (p : Place)
  /-- A store to the window of a retired peer, which is discarded (R208). -/
  | dropped
  | park (lines : List (Nat × Nat))
  | trap (r : SvcRecord)
  deriving DecidableEq, Repr

/-- The lines of a window access (R209). -/
def linesOf (off n : Nat) : List Nat := dedup ((List.range n).map (fun i => (off + i) / 128))

/-- The absent lines that an access touches, and whether one was left absent by a failed copy (R210, R211). -/
def Team.absentOf (t : Team) (off n : Nat) : List AbsentLine := t.absent.filter (fun a => (linesOf off n).contains a.line)

/-- MEMERR of a read, ATOM or MWAIT that finds no route to its device (R374). -/
def State.noRoute (s : State) (acc : Access) (va : DWord) (sp : Space) : Option SvcRecord :=
  match sp with
  | .peer d =>
    if acc.r && !s.routeTo d then
      some { code := 0x0B, sub := 3, kind := acc.kind, addr := va, auxa := BitVec.ofNat 64 d }
    else none
  | _ => none

/-- Checks 1 to 4 of R248 for an access of n bytes aligned to `al`. `parks`: the access parks on an absent line; `store`: a
store, which a retired peer discards. -/
def State.check (s : State) (p : Path) (va : DWord) (n al : Nat) (acc : Access) (parks store : Bool) : Checked :=
  let t := s.teamOf p.g
  match s.range t va n acc with
  | .error r => .trap r
  | .ok rg =>
    if va.toNat % al ≠ 0 then .trap { code := 0x03, kind := acc.kind, addr := va, auxa := BitVec.ofNat 64 al }
    else match rg with
      | .gone => if store then .dropped else .trap (protect 3 acc va)
      | .window tm off =>
        match s.team? tm with
        | none => .dropped
        | some u =>
          let ab := u.absentOf off n
          if parks && ab.any AbsentLine.left then .trap { code := 0x0A, kind := acc.kind, addr := va }
          else if parks && !ab.isEmpty then .park (ab.map (fun a => (tm, a.line)))
          else .go { space := .scratch tm, addr := off }
      | .global =>
        match s.translate p.core t va acc with
        | .error r => .trap r
        | .ok pl => .go pl

/-- Check 6 of R248, behind the checks of the access itself: a retired frame, a sector whose reading fails (R328), a device
that no route reaches (R374). -/
def State.lastCheck (s : State) (acc : Access) (va : DWord) (c : Checked) : Checked :=
  match c with
  | .go pl =>
    if pl.space = .mem && (if acc.r then s.readFails pl.addr else s.retiredAt pl.addr) then .trap (memErr acc va pl.addr)
    else match s.noRoute acc va pl.space with
      | some r => .trap r
      | none => .go pl
  | c => c

/-- The walks of lanes whose addresses pass check 2 (R224, R248, R328). -/
def State.walkLanes (s : State) (p : Path) (lanes : List Nat) (al : Nat) (va : Nat → DWord) : State :=
  s.walkedAt p.core (s.teamOf p.g) ((lanes.map va).filter (fun a => a.toNat % al = 0))

/-- The lanes of L whose checks passed, with what they act on, those that trap, and the state in which their walks are made
and others have parked. -/
def State.sift (s : State) (p : Path) (lanes : List Nat) (al : Nat) (va : Nat → DWord) (chk : Nat → Checked) :
    State × List (Nat × SvcRecord) × List (Nat × Place) × List Nat :=
  let s := s.walkLanes p lanes al va
  let traps := lanes.filterMap (fun j => match chk j with | .trap r => some (j, r) | _ => none)
  let parks := lanes.filterMap (fun j => match chk j with | .park l => some (j, l) | _ => none)
  let go := lanes.filterMap (fun j => match chk j with | .go pl => some (j, pl) | _ => none)
  let drop := lanes.filter (fun j => match chk j with | .dropped => true | _ => false)
  let s := parks.foldl (fun s e => s.park p.core p.slot (maskOf (· = e.1)) p.next (fun _ => .presence e.2)) s
  (s, traps, go, drop)

/-- The mask of some lanes. -/
def maskList (l : List Nat) : Word := maskOf (fun j => l.contains j)

/-- The lanes of a memory instruction leave it: those that passed complete, with those whose store is discarded and those
with a false guard; the others trap, and a frame whose reading failed is retired. -/
def State.finishMem (s : State) (p : Path) (traps : List (Nat × SvcRecord)) (go : List (Nat × Place)) (drop : List Nat) :
    State :=
  (s.finishIssue p.core p.slot p.next traps (maskList (go.map Prod.fst) ||| maskList drop ||| p.off) p.next).retireFor traps

/-! ## Loads (R250) -/

/-- The bytes that a WIDTH code names. -/
def widthBytes (w : Nat) : Nat :=
  match w with
  | 1 => 1
  | 2 => 1
  | 3 => 2
  | 4 => 2
  | 5 => 8
  | 6 => 16
  | _ => 4

/-- The registers of a WIDTH code. -/
def widthRegs (w : Nat) : Nat := if w = 5 then 2 else if w = 6 then 4 else 1

/-- A value as a load writes it to its first register (R250). -/
def widen (w v : Nat) : Nat :=
  match w with
  | 2 => ((BitVec.ofNat 8 v).signExtend 32).toNat
  | 4 => ((BitVec.ofNat 16 v).signExtend 32).toNat
  | _ => v

/-- Writes a loaded value into the registers of a lane, low word first (R106, R250). -/
def Group.writeLoad (g : Group) (dest w lane : Nat) (bs : List Byte) : Group :=
  let v := widen w (leNat bs)
  (List.range (widthRegs w)).foldl (fun g k => g.wv (dest + k) lane (BitVec.ofNat 32 (v / 2 ^ (32 * k)))) g

/-- Bytes of a cameo line at a snapshot, overlaid by a transaction's buffered bytes (R241, R245). -/
def State.readAt (s : State) (snap : DWord) (buf : List (Nat × Byte)) (a n : Nat) : List Byte :=
  let line := s.lineAt (a / 128) snap
  (List.range n).map (fun i =>
    let b := line.getD ((a + i) % 128) 0
    match buf.find? (fun e => e.1 = a + i) with
    | some e => e.2
    | none => b)

/-- A lane whose two readings are made has its bytes: those of the core order, else the home's. -/
def LoadLane.close (x : LoadLane) : LoadLane :=
  if x.data.isEmpty && !x.own.isEmpty && !x.home.isEmpty then
    { x with data := x.own.zipWith (fun o b => o.getD b) x.home }
  else x

/-- What a load reads of its core's order: for each byte the newest write that its group sees there (R227, R228). -/
def State.readOrder (s : State) (core slot before n : Nat) (l : List LoadLane) : State × List LoadLane :=
  let ws := s.visible core slot before
  let saw := l.flatMap (fun x => if x.data.isEmpty then s.sawIds core slot before x.space (x.addr / 128) else [])
  let last := fun (sp : Space) (a : Nat) => ws.foldl (fun o w =>
    if w.space = sp then w.kind.cells.foldl (fun o c => if c.1 = a then some c.2 else o) o else o) (none : Option Byte)
  let l' := l.map (fun x => if x.data.isEmpty then
      ({ x with own := (List.range n).map (fun i => last x.space (x.addr + i)) } : LoadLane).close else x)
  (s.modGroup core slot (fun g => { g with saw := dedup (g.saw ++ saw) }), l')

/-- What a load reads at the homes of its lanes, as far as it has not (R228, R229): each line is recalled and filled into the
core's L1. -/
def State.readHome (s : State) (core n : Nat) (l : List LoadLane) : State × List LoadLane :=
  let here := l.filter (fun x => !x.readHome && x.space = .mem)
  let s := (dedup (here.map (fun x => x.addr / 128))).foldl (fun s line => (s.recall line).l1Fill (s.l1Of core) line) s
  let l' := l.map (fun x => if x.readHome then x else ({ x with home := s.bytes x.space x.addr n } : LoadLane).close)
  (s.noteReads (here.map LoadLane.addr), l')

/-- Reads every lane of a load now: the bytes that its group sees (R227, R228). -/
def State.sampleLanes (s : State) (core slot before n : Nat) (l : List LoadLane) : State × List LoadLane :=
  let (s, l) := s.readOrder core slot before n l
  s.readHome core n l

/-- Whether an access reaches another team's window, whose owning core decides it at issue (R208). -/
def Group.peerPlace (g : Group) (pl : Place) : Bool :=
  match pl.space with
  | .scratch t => g.team ≠ some t
  | _ => false

/-- Whether a group may read some lines as it issues: its earlier loads have their places in the core order, its earlier
ATOMs are in it, and no earlier load is yet to read one of these lines; loads of other lines may be; and none of the lines
holds a write that the group must not see yet (R227 to R229). -/
def State.readsInOrder (s : State) (core slot : Nat) (lines : List (Space × Nat)) : Bool :=
  s.loads.all (fun l => l.core ≠ core || l.slot ≠ slot || l.sampled || l.atom
      || (l.ordered && l.lanes.all (fun x => x.readHome || !lines.contains (x.space, x.addr / 128))))
    && s.writes.all (fun w => w.entered || w.core ≠ core || w.slot ≠ slot || w.kind.isStore)
    && lines.all (fun l => !s.hidden core slot l.1 l.2)

/-- The lines of some places. -/
def placeLines (go : List (Nat × Place)) : List (Space × Nat) := go.map (fun e => (e.2.space, e.2.addr / 128))

/-- A load that reads as it issues may: the earlier loads let it, and no ATOM or RED.M is pending where it would read (R208,
R228). -/
def State.canReadNow (s : State) (p : Path) (go : List (Nat × Place)) : Bool :=
  s.readsInOrder p.core p.slot (placeLines go)
    && go.all (fun e => !s.rmwPending p.core p.slot s.nextId e.2.space (e.2.addr / 128))

/-- A load with an acquire, or an ATOM with one, is outstanding: no later access is performed before it (R231). -/
def State.acquiring (s : State) (core slot : Nat) : Bool :=
  s.loads.any (fun l => l.core = core && l.slot = slot && l.acq)

/-- Whether the group's open transaction reads at its snapshot (R244, R245). -/
def Group.txnSnap (g : Group) : Option Txn := g.txn.bind (fun t => if t.snap = 0 then none else some t)

/-- The bytes that overlay a transactional read: a doomed transaction holds none. -/
def Group.buffered (g : Group) : List (Nat × Byte) :=
  match g.txn with
  | some t => if t.doomed then [] else t.bytes
  | none => []

/-- Whether a transactional read of a cameo line can be made: a snapshot that SNREL has released is not live (R241). -/
def State.txnLive (s : State) (g : Group) : Bool :=
  match g.txnSnap with
  | some t => s.snapLive (s.ctxOf g) t.snap
  | none => true

/-- A load's check of one lane: R248, then the snapshot of LD.C (R241), then the peer's cameo lines (R237). -/
def State.checkLoad (s : State) (x : Exts) (p : Path) (va : DWord) (n : Nat) : Checked :=
  let c := Exts.kind x = 2
  let acc : Access := { Access.load with kind := if c then 0x21 else 1 }
  s.lastCheck acc va (match s.check p va n n acc (Exts.kind x ≠ 1) false with
  | .go pl =>
    if c && !s.snapLive (s.ctxOf p.g) (p.g.rs (Exts.c x).toNat) then .trap (protect 5 acc va)
    else if pl.cameo && (match pl.space with | .peer _ => true | _ => false) && (c || p.g.txn.isSome) then
      .trap (protect 3 { acc with kind := acc.kind ||| (if c then 0 else 0x10) } va)
    else if pl.cameo && !c && !s.txnLive p.g then .trap (protect 5 { acc with kind := 0x31 } va)
    else .go pl
  | r => r)

/-- The lines of local memory among some places. -/
def memLines (go : List (Nat × Place)) : List Nat :=
  dedup ((go.filter (fun e => e.2.space = .mem)).map (fun e => e.2.addr / 128))

/-- The cameo lines of local memory that a read at a snapshot touches. -/
def snapPlaces (snap : Option DWord) (go : List (Nat × Place)) : List (Nat × Place) :=
  if snap.isSome then go.filter (fun e => e.2.cameo && e.2.space = .mem) else []

/-- LD (R250). Cameo lines under LD.C or in a transaction are read at their snapshot at once, where the arbiters of their
slices let them be (R218) and nothing there is yet to be hidden from the group (R228). -/
def execLd (x : Exts) (d a : BitVec 7) (i : BitVec 12) (s : State) : Outcome State Fault Refusal :=
  match s.path x with
  | none => .fault .noIssue
  | some p =>
    let w := Exts.width x
    let n := widthBytes w
    if p.L ≠ 0 ∧ !p.g.hasRegs (addrRegs x a ++ vuse false d (widthRegs w)) then .next (s.trapAll p noReg)
    else
      let va := p.g.address x a (memOff x i)
      let (s', traps, go, drop) := s.sift p (lanesOf p.L) n va (fun j => s.checkLoad x p (va j) n)
      let peer := go.any (fun e => p.g.peerPlace e.2)
      let snap := if Exts.kind x = 2 then some (p.g.rs (Exts.c x).toNat) else p.g.txnSnap.map Txn.snap
      let at' := snapPlaces snap go
      if s.acquiring p.core p.slot || (peer && !s.canReadNow p go)
          || at'.any (fun e => s.hidden p.core p.slot .mem (e.2.addr / 128)) then .next s
      else if go.isEmpty then .next (s'.finishMem p traps go drop)
      else if !s.issueServed p.core p.slot (memLines at') then .next (s.ask p.core p.slot)
      else
        let s' := (if at'.isEmpty then s' else s'.answered p.core p.slot).noteReads (at'.map (fun e => e.2.addr))
        let lanes : List LoadLane := go.map (fun e =>
          { lane := e.1, va := va e.1, space := e.2.space, addr := e.2.addr
            data := match snap with
              | some sn => if e.2.cameo && e.2.space = .mem then s.readAt sn p.g.buffered e.2.addr n else []
              | none => []
            way := { since := s.time } })
        let (s', lanes) := if peer then s'.sampleLanes p.core p.slot s'.nextId n lanes else (s', lanes)
        let ld : PendingLoad :=
          { id := s'.nextId, core := p.core, slot := p.slot, pc := s.cur.pc, after := p.next, bytes := n, width := w, dest := p.g.wbase + d.toNat
            lanes := lanes, acq := Exts.ord x = 1, ordered := peer, homed := peer, sampled := peer, tag := s.cur.tag
            born := s.time }
        .next ({ s' with loads := s'.loads ++ [ld], nextId := s'.nextId + 1 }.finishMem p traps go drop)

/-! ## Stores (R251) -/

/-- The scope at which a write of a group is a release: its own, or that of a fence which the group has made before it
(R231). -/
def State.releaseScope (s : State) (core slot ord scope : Nat) : Nat :=
  max (if ord = 2 ∨ ord = 3 then scope else 0) (match s.group? core slot with | some g => g.relScope | none => 0)

/-- The release order of a write that issues now (R231): of GANG scope as of DEVICE scope (log 31). -/
def State.releaseOf (s : State) (core slot ord scope : Nat) : Release :=
  let n := s.releaseScope core slot ord scope
  { scope := n, first := s.nextId, deps := if 2 ≤ n then s.outstanding core slot else [] }

/-- Posts bytes as one write request for each line (R234). -/
def State.postBytes (s : State) (p : Path) (rel : Release) (l : List (Space × Nat × Byte × Bool)) : State :=
  (dedup (l.map (fun c => (c.1, c.2.1 / 128)))).foldl (fun s key =>
    let mine := l.filter (fun c => c.1 = key.1 ∧ c.2.1 / 128 = key.2)
    s.post
      { id := 0, core := p.core, slot := p.slot, team := p.g.team, ctx := s.ctxOf p.g, space := key.1, line := key.2
        kind := .store (mine.map (fun c => (c.2.1, c.2.2.1))), cameo := mine.any (fun c => c.2.2.2), rel := rel }) s

/-- A store to a cameo line under the full condition (R243). -/
def State.full (s : State) (p : Path) (pl : Place) : Bool :=
  pl.cameo && pl.space = .mem && (s.context (s.ctxOf p.g)).full

/-- The check of a store's lane: R248, then the open transaction (R245), then the full condition (R243). -/
def State.checkStore (s : State) (p : Path) (va : DWord) (n : Nat) (parks : Bool) : Checked :=
  s.lastCheck .store va (match s.check p va n n .store parks true with
  | .go pl =>
    let win := match pl.space with | .scratch _ => true | _ => false
    if p.g.txn.isSome && !win then
      if !pl.cameo then .trap { code := 0x0D, kind := 0x12, addr := va }
      else if pl.space ≠ .mem then .trap (protect 3 { Access.store with kind := 0x12 } va)
      else .go pl
    else if s.full p pl then .trap { code := 0x0E, kind := 2, addr := va }
    else .go pl
  | r => r)

/-- Buffers bytes in M lines; a 65th line dooms the transaction, which discards every buffered byte (R245). -/
def Txn.write (t : Txn) (l : List (Nat × Byte)) : Txn :=
  if t.doomed then t
  else
    let t' := { t with bytes := l.foldl (fun bs e => (bs.filter (fun b => b.1 ≠ e.1)) ++ [e]) t.bytes }
    if 64 < t'.lines.length then { t with doomed := true, bytes := [] } else t'

/-- The bytes of store data in a lane: the low n bytes of D, low register first (R251). -/
def Group.storeBytes (g : Group) (d : BitVec 7) (n j : Nat) : List Byte :=
  (List.range n).map (fun k => (g.rv (g.wbase + d.toNat + k / 4) j).extractLsb' (8 * (k % 4)) 8)

/-- Stores some bytes for each lane: buffered in the transaction where the line is cameo, else posted (R245, R251). -/
def State.storeLanes (s : State) (p : Path) (rel : Release) (l : List (Place × List Byte)) : State :=
  let buf := fun (pl : Place) => p.g.txn.isSome && pl.cameo && pl.space = .mem
  let cells := l.flatMap (fun e => if buf e.1 then [] else (number e.1.addr e.2).map (fun c => (e.1.space, c.1, c.2, e.1.cameo)))
  let tx := l.flatMap (fun e => if buf e.1 then number e.1.addr e.2 else [])
  let s := s.postBytes p rel cells
  if tx.isEmpty then s
  else
    let new := match p.g.txn with
      | some t => if t.doomed then 0 else (t.write tx).lines.length - t.lines.length
      | none => 0
    (s.l1Make (s.l1Of p.core) new new).modGroup p.core p.slot (fun g => { g with txn := g.txn.map (fun t => t.write tx) })

/-- ST (R251). -/
def execSt (x : Exts) (d a : BitVec 7) (i : BitVec 12) (s : State) : Outcome State Fault Refusal :=
  match s.path x with
  | none => .fault .noIssue
  | some p =>
    let w := Exts.width x
    let n := widthBytes w
    if p.L ≠ 0 ∧ !p.g.hasRegs (addrRegs x a ++ vuse false d (widthRegs w)) then .next (s.trapAll p noReg)
    else
      let va := p.g.address x a (memOff x i)
      let (s', traps, go, drop) := s.sift p (lanesOf p.L) n va (fun j => s.checkStore p (va j) n (Exts.kind x ≠ 1))
      if s.acquiring p.core p.slot then .next s
      else
        let rel := s.releaseOf p.core p.slot (Exts.ord x) (Exts.scope x)
        let s' := s'.storeLanes p rel (go.map (fun e => (e.2, p.g.storeBytes d n e.1)))
        .next (s'.finishMem p traps go drop)

/-! ## Atomics and reductions (R252, R253) -/

/-- The check of an ATOM or RED.M lane; both raise TXNEST in a transaction (R245). -/
def State.checkRmw (s : State) (p : Path) (va : DWord) (acc : Access) (red : Bool) : Checked :=
  s.lastCheck acc va (match s.check p va 4 4 acc true false with
  | .go pl =>
    if p.g.txn.isSome then .trap { code := 0x0D, kind := acc.kind ||| 0x10, addr := va }
    else if red && s.full p pl then .trap { code := 0x0E, kind := acc.kind, addr := va }
    else .go pl
  | r => r)

/-- Groups lane operations by line, in lane order. -/
def rmwLines (l : List (Place × AtomLane)) : List (Space × Nat × Bool × List AtomLane) :=
  (dedup (l.map (fun e => (e.1.space, e.1.addr / 128)))).map (fun key =>
    let mine := l.filter (fun e => e.1.space = key.1 ∧ e.1.addr / 128 = key.2)
    (key.1, key.2, mine.any (fun e => e.1.cameo), mine.map Prod.snd))

/-- Whether every earlier write that the group sees on these lines has been applied, so the owning core can perform the
access at once (R208). -/
def State.noneVisible (s : State) (p : Path) (go : List (Nat × Place)) : Bool :=
  s.readsInOrder p.core p.slot (placeLines go)
    && go.all (fun e => !(s.visible p.core p.slot s.nextId).any (fun w => w.space = e.2.space && w.line = e.2.addr / 128))

/-- Whether an ATOM or RED.M on a peer's window can be performed at its owning core as it issues: what its core's order and
its release put before it is performed (R208, R228, R231). -/
def State.atOwner (s : State) (p : Path) (rel : Release) (go : List (Nat × Place)) : Bool :=
  s.noneVisible p go && rel.deps.isEmpty
    && s.writes.all (fun w => w.core ≠ p.core
        || ((w.slot ≠ p.slot || w.entered) && !(w.entered && (w.space.isScratch || 2 ≤ rel.scope))))
    && go.all (fun e => !s.lateLoad p.core e.2.space (e.2.addr / 128))

/-- ATOM and RED.M: one write request for each line. An access to a peer's window is decided and performed at its owning
core at once (R208). `regs`: the destination registers of an ATOM, 0 for RED.M. -/
def State.rmw (s : State) (x : Exts) (a b : BitVec 7) (op : AtomOp) (dest : Option (BitVec 7)) (regs : Nat) :
    Outcome State Fault Refusal :=
  match s.path x with
  | none => .fault .noIssue
  | some p =>
    let dregs := match dest with | some d => vuse false d regs | none => []
    if p.L ≠ 0 ∧ !p.g.hasRegs (addrRegs x a ++ vuse false b 1 ++ dregs) then .next (s.trapAll p noReg)
    else
      let va := p.g.address x a 0
      let acc := if dest.isSome then Access.rmw else Access.store
      let (s', traps, go, drop) := s.sift p (lanesOf p.L) 4 va (fun j => s.checkRmw p (va j) acc dest.isNone)
      let peer := go.any (fun e => p.g.peerPlace e.2)
      let rel := s.releaseOf p.core p.slot (Exts.ord x) (Exts.scope x)
      if s.acquiring p.core p.slot || (peer && !s.atOwner p rel go) then .next s
      else
        let ops := go.map (fun e => (e.2, ({ lane := e.1, addr := e.2.addr, b := p.g.srcV false (Exts.fb x) b e.1
                                             d := match dest with
                                               | some d => p.g.rv (p.g.wbase + d.toNat) e.1
                                               | none => 0 } : AtomLane)))
        let id := s'.nextId
        let s' := { s' with nextId := id + 1 }
        let (s', old) := (rmwLines ops).foldl (fun (acc : State × List (Nat × Word)) e =>
          let (s', old) := acc
          if peer && e.1.isScratch then
            let (o, s') := s'.applyLanes e.1 op e.2.2.2
            (s'.fire.dropEarly p.core (fun x => x.space = e.1 && x.addr / 128 = e.2.1), old ++ o)
          else
            (s'.post
              { id := 0, core := p.core, slot := p.slot, team := p.g.team, ctx := s.ctxOf p.g, space := e.1, line := e.2.1
                kind := if dest.isSome then .atom op e.2.2.2 id else .reduce op e.2.2.2
                cameo := e.2.2.1, rel := rel }, old)) (s', [])
        let s' := match dest with
          | none => s'
          | some d =>
            if go.isEmpty then s'
            else
              let mkLane := fun (e : Nat × Place) => ({ lane := e.1, va := va e.1, space := e.2.space, addr := e.2.addr
                                                        data := match old.find? (fun (o : Nat × Word) => o.1 = e.1) with
                                                          | some o => leBytes (4 * regs) o.2.toNat
                                                          | none => [] } : LoadLane)
              let ld : PendingLoad :=
                { id := id, core := p.core, slot := p.slot, pc := s.cur.pc, after := p.next, atom := true, bytes := 4 * regs
                  width := if regs = 2 then 5 else 0, dest := p.g.wbase + d.toNat
                  lanes := go.map mkLane
                  acq := Exts.ord x = 1 || Exts.ord x = 3, sampled := go.all (fun e => old.any (fun (o : Nat × Word) => o.1 = e.1))
                  tag := s.cur.tag, born := s.time }
              { s' with loads := s'.loads ++ [ld] }
        .next (s'.finishMem p traps go drop)

/-- The operation that a TYPE code selects: signed integer, unsigned, FP32 (R249). -/
def typed (x : Exts) (i u f : AtomOp) : AtomOp :=
  match Exts.type x with
  | 1 => u
  | 2 => f
  | _ => i

def execAtomAdd (x : Exts) (d a b : BitVec 7) (s : State) : Outcome State Fault Refusal :=
  s.rmw x a b (typed x .add .add .addF) (some d) 1
def execAtomMin (x : Exts) (d a b : BitVec 7) (s : State) : Outcome State Fault Refusal :=
  s.rmw x a b (typed x .min .minU .minF) (some d) 1
def execAtomMax (x : Exts) (d a b : BitVec 7) (s : State) : Outcome State Fault Refusal :=
  s.rmw x a b (typed x .max .maxU .maxF) (some d) 1
def execAtomAnd (x : Exts) (d a b : BitVec 7) (s : State) : Outcome State Fault Refusal := s.rmw x a b .and (some d) 1
def execAtomOr (x : Exts) (d a b : BitVec 7) (s : State) : Outcome State Fault Refusal := s.rmw x a b .or (some d) 1
def execAtomXor (x : Exts) (d a b : BitVec 7) (s : State) : Outcome State Fault Refusal := s.rmw x a b .xor (some d) 1
def execAtomXchg (x : Exts) (d a b : BitVec 7) (s : State) : Outcome State Fault Refusal := s.rmw x a b .xchg (some d) 1
def execAtomCas (x : Exts) (d a b : BitVec 7) (s : State) : Outcome State Fault Refusal := s.rmw x a b .cas (some d) 1
def execAtomInc (x : Exts) (d a b : BitVec 7) (s : State) : Outcome State Fault Refusal := s.rmw x a b .inc (some d) 1
def execAtomDec (x : Exts) (d a b : BitVec 7) (s : State) : Outcome State Fault Refusal := s.rmw x a b .dec (some d) 1
def execAtomXchgT (x : Exts) (d a b : BitVec 7) (s : State) : Outcome State Fault Refusal := s.rmw x a b .xchg (some d) 2
def execRedMAdd (x : Exts) (a b : BitVec 7) (s : State) : Outcome State Fault Refusal :=
  s.rmw x a b (typed x .add .add .addF) none 0
def execRedMMin (x : Exts) (a b : BitVec 7) (s : State) : Outcome State Fault Refusal :=
  s.rmw x a b (typed x .min .minU .minF) none 0
def execRedMMax (x : Exts) (a b : BitVec 7) (s : State) : Outcome State Fault Refusal :=
  s.rmw x a b (typed x .max .maxU .maxF) none 0
def execRedMAnd (x : Exts) (a b : BitVec 7) (s : State) : Outcome State Fault Refusal := s.rmw x a b .and none 0
def execRedMOr (x : Exts) (a b : BitVec 7) (s : State) : Outcome State Fault Refusal := s.rmw x a b .or none 0
def execRedMXor (x : Exts) (a b : BitVec 7) (s : State) : Outcome State Fault Refusal := s.rmw x a b .xor none 0

/-! ## MWAIT (R254) -/

/-- The table that a watch takes its place in: a home slice of this device or of a domain device, or a core for window
addresses (R254, R373). -/
def State.watchHome (s : State) (w : Watch) : Nat × Nat :=
  match w.space with
  | .mem => (0, s.sliceOf w.addr)
  | .scratch t => (1, match s.team? t with | some t => t.core | none => 0)
  | .peer d => (2, 256 * d + (Config.peerSlice d (w.addr / 128)).toNat)

/-- The queues whose slot watch stands in a home slice's table (R334). -/
def State.rowWatches (s : State) (slice : Nat) : List (Nat × Row) :=
  (number 0 s.rows).filter (fun r => r.2.watch && !r.2.watchEnded && s.sliceOf (s.wakeAddr r.2.qdesc.toNat) = slice)

/-- Makes room for one more watch in a table: a full one, 1,024 in a slice and 256 in a core, ends its oldest watch, of a
lane, of a queue or of a domain device (R254, R334, R373). -/
def State.watchRoom (s : State) (home : Nat × Nat) : State :=
  let live := s.watches.filter (fun v => !v.fired && s.watchHome v = home)
  let rows := if home.1 = 0 then s.rowWatches home.2 else []
  let peers := s.peerWatches.filter (fun v => !v.fired && home = (0, s.sliceOf v.addr))
  let ages := live.map Watch.age ++ rows.map (fun r => r.2.watchAge) ++ peers.map PeerWatch.age
  if ages.length < (if home.1 = 1 then 256 else 1024) then s
  else
    let oldest := fun (a : Nat) => ages.all (fun b => a ≤ b)
    match live.find? (fun v => oldest v.age), rows.find? (fun r => oldest r.2.watchAge), peers.find? (fun v => oldest v.age) with
    | some v, _, _ => { s with watches := s.watches.map (fun u => if u = v then { u with fired := true } else u) }
    | none, some r, _ => s.modRow r.1 (fun r => { r with watchEnded := true })
    | none, none, some v => { s with peerWatches := s.peerWatches.map (fun u => if u = v then { u with fired := true } else u) }
    | none, none, none => s

/-- Registers a watch. -/
def State.addWatch (s : State) (w : Watch) : State :=
  let s := s.watchRoom (s.watchHome w)
  { s with watches := s.watches ++ [{ w with age := s.nextId }], nextId := s.nextId + 1 }

/-- The check of an MWAIT's lane: R248; TXNEST in a transaction (R245). -/
def State.checkWait (s : State) (p : Path) (va : DWord) : Checked :=
  s.lastCheck .load va (match s.check p va 4 4 .load true false with
  | .go pl => if p.g.txn.isSome then .trap { code := 0x0D, kind := 0x11, addr := va } else .go pl
  | r => r)

/-- MWAIT: the check and the watch are made together at the home, with every earlier access of the group to the line
performed (R254). -/
def execMwait (x : Exts) (a b : BitVec 7) (s : State) : Outcome State Fault Refusal :=
  match s.path x with
  | none => .fault .noIssue
  | some p =>
    if p.L ≠ 0 ∧ !p.g.hasRegs (addrRegs x a ++ vuse false b 1) then .next (s.trapAll p noReg)
    else
      let va := p.g.address x a 0
      let (s', traps, go, drop) := s.sift p (lanesOf p.L) 4 va (fun j => s.checkWait p (va j))
      if s.acquiring p.core p.slot || !s.noneVisible p go then .next s
      else if !s.issueServed p.core p.slot (memLines go) then .next (s.ask p.core p.slot)
      else
        let here := (go.filter (fun e => e.2.space = .mem)).map (fun e => e.2.addr)
        let s' := (memLines go).foldl State.recall (s'.answered p.core p.slot)
        let mk := fun (e : Nat × Place) => ({ core := p.core, slot := p.slot, lane := e.1, va := va e.1, space := e.2.space
                                              addr := e.2.addr, acq := Exts.ord x = 1, b := p.g.srcV false (Exts.fb x) b e.1
                                              ne := (Exts.fam x).getLsbD 5, born := s.time } : Watch)
        let wait := go.filter (fun e => s'.holds (mk e))
        let done := go.filter (fun e => !s'.holds (mk e))
        let s' := wait.foldl (fun s e => s.addWatch (mk e)) s'
        let s' := if Exts.ord x = 1 && !done.isEmpty then s'.dropEarly p.core (fun _ => true) else s'
        let s' := s'.park p.core p.slot (maskList (wait.map Prod.fst)) p.next (fun _ => .memWait .watch)
        .next ((s'.noteReads here).finishMem p traps done drop)

/-! ## Fences (R232, R235, R255, R258) -/

/-- Whether a fence of a kind (0 ACQ, 1 REL, 2 SC) at a scope can complete. Within TEAM scope, on one core, a write is
performed once every group of the core sees it (R223, R228). -/
def State.fenceReady (s : State) (core slot kind scope : Nat) : Bool :=
  s.loadsDone core slot && (kind = 0 || !s.veiled core slot &&
    (if scope ≤ 1 then !s.writes.any (fun w => w.core = core && w.slot = slot && !s.coreDone w)
     else s.writesDone core slot))

/-- An instruction that issues only once a condition holds, and then has no effect but its ordering. -/
def State.waitFor (s : State) (x : Exts) (ready : Path → Bool) : Outcome State Fault Refusal :=
  match s.path x with
  | none => .fault .noIssue
  | some p => if p.L ≠ 0 ∧ !ready p then .next s else .next (s.complete p.core p.slot p.I p.next)

/-- A fence; one with an acquire ends what the loads of its core have read before their turn, and one with a release makes
the group's later writes releases at its scope (R231). -/
def State.fence (s : State) (x : Exts) (kind scope : Nat) : Outcome State Fault Refusal :=
  match s.path x with
  | none => .fault .noIssue
  | some p =>
    if p.L ≠ 0 ∧ !s.fenceReady p.core p.slot kind scope then .next s
    else
      let s := if p.L ≠ 0 ∧ kind ≠ 1 then s.dropEarly p.core (fun _ => true) else s
      let s := if p.L ≠ 0 ∧ kind ≠ 0 then s.modGroup p.core p.slot (fun g => { g with relScope := max g.relScope scope }) else s
      .next (s.complete p.core p.slot p.I p.next)

def execFenceAcq (x : Exts) (c : BitVec 3) (s : State) : Outcome State Fault Refusal := s.fence x 0 c.toNat
def execFenceRel (x : Exts) (c : BitVec 3) (s : State) : Outcome State Fault Refusal := s.fence x 1 c.toNat
def execFenceSc (x : Exts) (c : BitVec 3) (s : State) : Outcome State Fault Refusal := s.fence x 2 c.toNat

/-- A job that has completed its reads: a media job reads until it completes. -/
def Job.readsDone (j : Job) : Bool :=
  match j.kind with
  | .media .. => false
  | _ => j.units.isEmpty

/-- FENCE.ENGINE: the group's writes are performed, and its jobs have completed their reads (R235). -/
def State.engineReady (s : State) (p : Path) : Bool :=
  s.fenceReady p.core p.slot 1 3 && !s.jobs.any (fun j => j.core = p.core && j.slot = p.slot && !j.readsDone)

def execFenceEngine (x : Exts) (s : State) : Outcome State Fault Refusal := s.waitFor x (fun p => s.engineReady p)

/-- FENCE.CODE: every ICINV completes when it issues; what the group has fetched ahead is discarded (R258). -/
def execFenceCode (x : Exts) (s : State) : Outcome State Fault Refusal :=
  match s.path x with
  | none => .fault .noIssue
  | some p =>
    let s := if p.L = 0 then s else s.modCore p.core (fun b => { b with text := b.text.filter (fun c => c.ahead ≠ some p.slot) })
    .next (s.complete p.core p.slot p.I p.next)

/-! ## Cache control (R256) -/

/-- The local line that a cache-control instruction acts on in a lane, where its address passes its checks; it asks for no
right of the page (log 69). -/
def State.cacheLine (s : State) (p : Path) (va : DWord) : Option Nat :=
  match s.lastCheck {} va (s.check p va 1 1 {} false false) with
  | .go pl => if pl.space = .mem then some (pl.addr / 128) else none
  | _ => none

/-- The lines of the lanes of L. -/
def State.cacheLines (s : State) (x : Exts) (p : Path) (a : BitVec 7) : List Nat :=
  dedup ((lanesOf p.L).filterMap (fun j => s.cacheLine p (p.g.address x a 0 j)))

/-- A cache-control instruction: it never faults, but for an operand register that does not exist (R54, log 69). -/
def State.cacheOp (s : State) (x : Exts) (a : BitVec 7) (f : State → Path → Nat → State) : Outcome State Fault Refusal :=
  match s.path x with
  | none => .fault .noIssue
  | some p =>
    if p.L ≠ 0 ∧ !p.g.hasRegs (addrRegs x a) then .next (s.trapAll p noReg)
    else
      let s' := (s.cacheLines x p a).foldl (fun s line => f s p line) (s.walkLanes p (lanesOf p.L) 1 (p.g.address x a 0))
      .next (s'.complete p.core p.slot p.I p.next)

/-- The physical lines on which an ICINV acts: text may stand in local memory or on a domain device (R256, R373). -/
def State.icLines (s : State) (x : Exts) (p : Path) (a : BitVec 7) : List (Space × Nat) :=
  dedup ((lanesOf p.L).filterMap (fun j =>
    match s.lastCheck {} (p.g.address x a 0 j) (s.check p (p.g.address x a 0 j) 1 1 {} false false) with
    | .go pl => if pl.space.isScratch then none else some (pl.space, pl.addr / 128)
    | _ => none))

/-- Every core's fetch and loop buffers drop their copies of some lines; of the issuing core, what the issuing group has
fetched ahead stays until its FENCE.CODE (R256, R258). -/
def State.icDrop (s : State) (p : Path) (lines : List (Space × Nat)) : State :=
  let ahead := ((s.coreBlock p.core).text.filter (fun c => c.ahead = none && lines.contains (c.space, c.line))).map
    (fun c => { c with ahead := some p.slot })
  let old := (s.coreBlock p.core).text.filter (fun c => c.ahead = some p.slot)
  (s.dropText lines).modCore p.core (fun b => { b with
    text := b.text.filter (fun c => c.ahead ≠ some p.slot) ++ old
      ++ ahead.filter (fun c => !old.any (fun d => d.space = c.space && d.line = c.line)) })

/-- ICINV drops fetched copies of a line once the group's stores to it are acknowledged (R256). -/
def execIcinv (x : Exts) (a : BitVec 7) (s : State) : Outcome State Fault Refusal :=
  match s.path x with
  | none => .fault .noIssue
  | some p =>
    let ls := s.icLines x p a
    if p.L ≠ 0 ∧ !p.g.hasRegs (addrRegs x a) then .next (s.trapAll p noReg)
    else if s.writes.any (fun w => w.core = p.core && w.slot = p.slot && ls.contains (w.space, w.line))
        || s.acks.any (fun k => k.core = p.core && k.slot = p.slot && ls.contains (k.space, k.line)) then .next s
    else
      let s := s.walkLanes p (lanesOf p.L) 1 (p.g.address x a 0)
      .next ((if p.L = 0 then s else s.icDrop p ls).complete p.core p.slot p.I p.next)

/-- DCFLUSH recalls every U copy of the line and drops the core's L1 copy. -/
def execDcflush (x : Exts) (a : BitVec 7) (s : State) : Outcome State Fault Refusal :=
  s.cacheOp x a (fun s p line =>
    let s := s.recall line
    { s with l1 := s.l1.filter (fun c => !(c.l1 = s.l1Of p.core && c.line = line)) })

/-- DCINV drops the core's S or E copy and sends its U partial home. -/
def execDcinv (x : Exts) (a : BitVec 7) (s : State) : Outcome State Fault Refusal :=
  s.cacheOp x a (fun s p line =>
    let s := s.recallOf (s.l1Of p.core) line
    { s with l1 := s.l1.filter (fun c => !(c.l1 = s.l1Of p.core && c.line = line)) })

/-- PREF starts a fill of the core's L1. -/
def execPref (x : Exts) (a : BitVec 7) (s : State) : Outcome State Fault Refusal :=
  s.cacheOp x a (fun s p line => (s.recall line).l1Fill (s.l1Of p.core) line)

/-! ## HPROBE (R257) -/

/-- The page-cache descriptor of a group. -/
def State.pcDesc (s : State) (g : Group) : DWord × DWord :=
  match s.teamOf g with
  | some t => (t.ctx.pc0, t.ctx.pc1)
  | none => ((s.coreBlock g.core).kpcd0, (s.coreBlock g.core).kpcd1)

/-- The hash of R257. -/
def probeHash (block : DWord) (object : Word) (nb : Nat) : Nat :=
  ((block.setWidth 32 : Word) ^^^ ((block >>> 32).setWidth 32) ^^^ (object * 0x9E3779B1)).toNat % 2 ^ nb

/-- What a lane's probes come to: a result, a trap, or a wait for absent lines. -/
inductive Probed where
  | val (v : Word)
  | trap (r : SvcRecord)
  | park (lines : List (Nat × Nat))
  deriving DecidableEq, Repr

/-- The place of the k-th entry that a probe reads: bucket h + k ÷ 4, entry k mod 4. -/
def probeAddr (table : DWord) (h nb k : Nat) : DWord :=
  table + BitVec.ofNat 64 (64 * ((h + k / 4) % 2 ^ nb) + 16 * (k % 4))

/-- What a matching entry's state word makes of a probe: its frame, or 0xFFFFFFFE while it is being filled; none where the
entry does not match. -/
def probeEntry (bs : List Byte) (block : DWord) (object : Word) : Option Word :=
  let st := field bs 12 4
  if bitN st 31 ∧ field bs 0 8 = block.toNat ∧ field bs 8 4 = object.toNat then
    some (if bitN st 30 then 0xFFFFFFFE else BitVec.ofNat 32 (bits st 29 0))
  else none

/-- Probes the entries from the k-th on, 16 in all: a record where an entry's read faults, else the result; and the places
that they have read. An entry on an absent line of a window parks the lane as a load (R210). -/
def State.probe (s : State) (p : Path) (table : DWord) (block : DWord) (object : Word) (h nb : Nat) :
    Nat → Nat → Probed × List Place
  | 0, _ => (.val 0xFFFFFFFF, [])
  | fuel + 1, k =>
    match s.lastCheck .load (probeAddr table h nb k) (s.check p (probeAddr table h nb k) 16 16 .load true false) with
    | .trap r => (.trap r, [])
    | .park l => (.park l, [])
    | .dropped => (.val 0xFFFFFFFF, [])
    | .go pl =>
      let s' := if pl.space = .mem then s.recall (pl.addr / 128) else s
      match probeEntry (s'.seen p.core p.slot s.nextId pl.space pl.addr 16) block object with
      | some v => (.val v, [pl])
      | none =>
        let (r, l) := s.probe p table block object h nb fuel (k + 1)
        (r, pl :: l)

/-- HPROBE. Its reads are acquires, performed when it issues; the writes of other groups that they have seen stand before
the group's later releases (R231, R257). -/
def execHprobe (x : Exts) (d a b : BitVec 7) (s : State) : Outcome State Fault Refusal :=
  match s.path x with
  | none => .fault .noIssue
  | some p =>
    let w0 := (s.pcDesc p.g).1
    let nb := bits w0.toNat 4 0
    if !p.g.keeper && !bitN w0.toNat 5 then .next (s.priv p)
    else if p.L ≠ 0 ∧ !p.g.hasRegs (vuse (Exts.uniA x) a 2 ++ vuse (Exts.uniB x) b 1 ++ vuse false d 1) then
      .next (s.trapAll p noReg)
    else if p.L ≠ 0 ∧ (nb < 4 ∨ 28 < nb) then .next (s.trapAll p { code := 0x05, sub := 4 })
    else
      let table : DWord := w0 &&& 0x01FFFFFFFFFFFFC0
      let res := fun j =>
        let blk := p.g.srcA2 x a j
        let obj := p.g.srcB x b j
        s.probe p table blk obj (probeHash blk obj nb) nb 16 0
      let ls := lanesOf p.L
      let reads := dedup (ls.flatMap (fun j => (res j).2))
      let places := reads.map (fun pl => (0, pl))
      if s.acquiring p.core p.slot || !s.canReadNow p places then .next s
      else if !s.issueServed p.core p.slot (memLines places) then .next (s.ask p.core p.slot)
      else
      let traps := ls.filterMap (fun j => match (res j).1 with | .trap r => some (j, r) | _ => none)
      let parks := ls.filterMap (fun j => match (res j).1 with | .park l => some (j, l) | _ => none)
      let vals := ls.filterMap (fun j => match (res j).1 with | .val v => some (j, v) | _ => none)
      let ok := maskList (vals.map Prod.fst)
      let here := (reads.filter (fun pl => pl.space = .mem)).map Place.addr
      let saw := (dedup (reads.map (fun pl => (pl.space, pl.addr / 128)))).flatMap (fun e =>
        s.sawIds p.core p.slot s.nextId e.1 e.2)
      let walks := ls.flatMap (fun j =>
        let h := probeHash (p.g.srcA2 x a j) (p.g.srcB x b j) nb
        (List.range ((res j).2.length + (match (res j).1 with | .val _ => 0 | _ => 1))).map (probeAddr table h nb))
      let s' := ((s.walkedAt p.core (s.teamOf p.g) (dedup walks)).answered p.core p.slot).recallLines (memLines places)
      let s' := parks.foldl (fun s e => s.park p.core p.slot (maskOf (· = e.1)) p.next (fun _ => .presence e.2)) s'
      let s' := s'.modGroup p.core p.slot (fun g => { g with saw := dedup (g.saw ++ saw) })
      let s' := s'.modGroup p.core p.slot (fun g => g.eachV d ok (fun j =>
        match vals.find? (fun e => e.1 = j) with | some e => e.2 | none => 0))
      let s' := ((if p.L = 0 then s' else s'.dropEarly p.core (fun _ => true)).noteReads here)
      .next ((s'.finishIssue p.core p.slot p.next traps (ok ||| p.off) p.next).retireFor traps)

end Sys2Proof.Machine
end

