-- ==== Sys2Proof/Machine/Cameo.lean ====
section
/-! DEFINITION. Cameo: SNAP, SNREL, TXB, TXC and TXA (R239, R244 to R247, R259). They are path instructions. -/

namespace Sys2Proof.Machine

open Host (Outcome)

/-- A path instruction on memory that takes effect when L is not empty; `none`: it cannot issue yet. -/
def State.pathOp (s : State) (x : Exts) (f : State → Path → Option State) : Outcome State Fault Refusal :=
  match s.path x with
  | none => .fault .noIssue
  | some p =>
    if p.L = 0 then .next (s.complete p.core p.slot p.I p.next)
    else match f s p with
      | none => .next s
      | some s' => .next s'

/-- The path completes. -/
def State.pathDone (s : State) (p : Path) : State := s.complete p.core p.slot p.I p.next

/-- SNAP (R239). -/
def execSnap (x : Exts) (d : BitVec 7) (s : State) : Outcome State Fault Refusal :=
  s.pathOp x (fun s p =>
    let (n, s) := (s.takeSnap (s.ctxOf p.g) false).getD (0, s)
    some ((s.modGroup p.core p.slot (fun g => g.ws d.toNat n)).pathDone p))

/-- SNREL. -/
def execSnrel (x : Exts) (a : BitVec 7) (s : State) : Outcome State Fault Refusal :=
  s.pathOp x (fun s p => some ((s.releaseSnap (s.ctxOf p.g) (p.g.rs a.toNat)).pathDone p))

/-- The groups of a core that hold open transactions (R244). -/
def State.openTxns (s : State) (core : Nat) : Nat := (s.groups.filter (fun g => g.core = core && g.txn.isSome)).length

/-- TXB (R244, R245). -/
def execTxb (x : Exts) (d : BitVec 7) (s : State) : Outcome State Fault Refusal :=
  s.pathOp x (fun s p =>
    if p.g.txn.isSome then some (s.trapAll p { code := 0x0D, kind := 0x10 })
    else if s.writes.any (fun w => w.core = p.core && w.slot = p.slot) then none
    else if 8 ≤ s.openTxns p.core then
      some ((s.park p.core p.slot p.L p.next (fun _ => .memWait .txn)).complete p.core p.slot p.off p.next)
    else
      let (n, s) := (s.takeSnap (s.ctxOf p.g) false).getD (0, s)
      let s := s.dropEarly p.core (fun _ => true)
      some ((s.modGroup p.core p.slot (fun g =>
        { g.ws d.toNat n with txn := some { snap := n, doomed := n = 0 } })).pathDone p))

/-- The bytes of a transaction that lie in a line. -/
def Txn.inLine (t : Txn) (line : Nat) : List (Nat × Byte) := t.bytes.filter (fun b => b.1 / 128 = line)

/-- The written lines in ascending physical address (R246). -/
def Txn.sorted (t : Txn) : List Nat := sortBy (fun a b => a ≤ b) t.lines

/-- Installs the lines of a commit at the raised clock (R246). -/
def State.install (s : State) (core : Nat) (ctx : Word) (t : Txn) : State :=
  t.sorted.foldl (fun s line =>
    ((((s.preserve ctx line).homeWriteLine (some (s.l1Of core)) line (t.inLine line)).stampLine line).dropEarly core
      (fun x => x.space = .mem && x.addr / 128 = line)))
    { s with clock := s.clock + 1 }

/-- Whether a version store has room for n more versions (R243). -/
def Context.roomFor (c : Context) (n : Nat) : Bool := c.used + 160 * n ≤ c.vsSize + 2 ^ 20

/-- TXC (R246). A commit whose versions find no room waits, as a held write does; it waits behind a write that is held on
one of its lines (R243). A successful one is a release at DEVICE scope: every write before it in its core's order is applied
(R231). -/
def execTxc (x : Exts) (d : BitVec 7) (s : State) : Outcome State Fault Refusal :=
  s.pathOp x (fun s p =>
    let ctx := s.ctxOf p.g
    let close := fun (s : State) (r : Bool) =>
      some ((((s.answered p.core p.slot).closeTxn p.core p.slot).modGroup p.core p.slot (fun g => g.eachPred d p.L (fun _ => r))).pathDone p)
    match p.g.txn with
    | none => close s false
    | some t =>
      if t.doomed then close s false
      else if !s.fenceReady p.core p.slot 1 3 || t.lines.any (fun l => s.lateLoad p.core .mem l || s.heldAt l) then none
      else if !s.issueServed p.core p.slot t.lines then some (s.ask p.core p.slot)
      else if t.lines.any (fun l => t.snap < s.stamp l) then close s false
      else
        let n := (t.lines.filter (fun l => s.mustPreserve ctx l)).length
        if n ≠ 0 ∧ (s.context ctx).full then some ((s.answered p.core p.slot).trapAll p { code := 0x0E, kind := 0x12 })
        else if n ≠ 0 ∧ !(s.context ctx).roomFor n then none
        else if s.writes.any (fun w => w.entered && w.core = p.core) then none
        else close (s.install p.core ctx t) true)

/-- TXA. -/
def execTxa (x : Exts) (s : State) : Outcome State Fault Refusal :=
  s.pathOp x (fun s p => some ((s.closeTxn p.core p.slot).pathDone p))

end Sys2Proof.Machine
end

