-- ==== Sys2Proof/Machine/Matrix.lean ====
section
/-! DEFINITION. Matrix: the matrix instructions and the reservation tables of their engines (R112, R113, R123 to R133,
R262 to R277). A matrix instruction takes effect whole at its issue (R263); its engine only holds the entry. -/

namespace Sys2Proof.Machine

open Host (Outcome)

/-! ## Element formats (R127 to R129) -/

/-- What a valid format-table entry describes: a float of some width, an I8 scaled by 2^−MW, or tagged blocks. -/
inductive Elem where
  | float (f : Fmt)
  | fixed (mw : Nat)
  | tagged
  deriving DecidableEq, Repr

/-- The special-encoding kind of a SPEC field. -/
def specKind (n : Nat) : Option FKind :=
  match n with
  | 0 => some .finite
  | 1 => some .nanonly
  | 2 => some .ieee
  | _ => none

/-- A format-table entry as an element format; none where it is invalid or not of an element kind. -/
def elemOf (w : Word) : Option Elem :=
  let v := w.toNat
  let kind := bits v 31 28
  let spec := bits v 26 24
  let ew := bits v 23 20
  let mw := bits v 19 16
  let bias := bits v 15 8
  let width := bits v 7 0
  if w = ftPreset.getD 8 0 then some .tagged
  else if w = ftPreset.getD 5 0 ∨ w = ftPreset.getD 6 0 then (specKind spec).map (fun k => .float ⟨ew, mw, bias, k⟩)
  else if kind = 1 ∧ (width = 4 ∨ width = 6 ∨ width = 8) ∧ 1 ≤ ew ∧ 1 + ew + mw = width then
    (specKind spec).map (fun k => .float ⟨ew, mw, bias, k⟩)
  else if kind = 2 ∧ width = 8 ∧ mw ≤ 7 ∧ spec = 0 ∧ ew = 0 ∧ bias = 0 then some (.fixed mw)
  else none

/-- The element width; TAGGED counts as 8 (R267). -/
def Elem.width : Elem → Nat
  | .float f => f.width
  | .fixed _ => 8
  | .tagged => 8

/-- Whether an MX bit may be set with the format (R268, R274). -/
def Elem.mxOk : Elem → Bool
  | .float f => f.width = 4 || f.width = 6 || f.width = 8
  | .fixed _ => true
  | .tagged => false

/-- The value of an element (R120, R124). -/
def Elem.val (e : Elem) (v : Nat) : FVal :=
  match e with
  | .float f => f.val v
  | .fixed mw => let i := intVal true 8 v; .fin (i < 0) i.natAbs (-(mw : Int))
  | .tagged => .nan false

/-- n packed elements of a width, lowest bits first (R123). -/
def unpack (w : Nat) : Nat → Nat → List Nat
  | 0, _ => []
  | n + 1, v => v % 2 ^ w :: unpack w n (v / 2 ^ w)

/-- A run of packed elements as a number. -/
def pack (w : Nat) : List Nat → Nat
  | [] => 0
  | v :: r => v % 2 ^ w + 2 ^ w * pack w r

/-- A list cut into parts of n. -/
def chunksOf {α : Type} (n : Nat) : Nat → List α → List (List α)
  | 0, _ => []
  | k + 1, l => l.take n :: chunksOf n k (l.drop n)

/-! ## One accumulation step (R133) -/

/-- A chunk of one operand: its values and its E8M0 scale, 127 without MX. -/
abbrev Chunk := List FVal × Nat

/-- The exact product of two elements. -/
def prodVal (a b : FVal) : FVal :=
  if a.isNan || b.isNan || (a.isInf && b.isZero) || (a.isZero && b.isInf) then .nan false
  else if a.isInf || b.isInf then .inf (a.neg != b.neg)
  else
    let x := exMul a.ex b.ex
    .fin x.neg x.m x.e

/-- The exact sum of a chunk's products; an exact zero is −0 only when every product is −0. -/
def sumVals (l : List FVal) : FVal :=
  if l.any FVal.isNan || (l.any (fun v => v = .inf true) && l.any (fun v => v = .inf false)) then .nan false
  else if l.any (fun v => v = .inf true) then .inf true
  else if l.any (fun v => v = .inf false) then .inf false
  else
    let x := l.foldl (fun acc v => exAdd .rn acc v.ex) (exFin (l.all FVal.neg) 0 0)
    if x.m = 0 then .fin (l.all (fun v => v.neg && v.isZero)) 0 0 else .fin x.neg x.m x.e

/-- The chunk sum s of R133 under its scales. -/
def chunkSum (a b : Chunk) : FVal :=
  if a.2 = 255 ∨ b.2 = 255 then .nan false
  else match sumVals (List.zipWith prodVal a.1 b.1) with
    | .fin n m e => .fin n m (e + a.2 + b.2 - 254)
    | v => v

/-- acc + s, rounded to FP32. -/
def accStep (acc : Nat) (a b : Chunk) : Nat := (addVal fp32 .rn false (fp32.val acc) (chunkSum a b)).1

/-- An accumulator element after all chunks of a row and a column, in ascending k. -/
def accElem (acc : Word) (a b : List Chunk) : Word :=
  BitVec.ofNat 32 ((a.zip b).foldl (fun acc c => accStep acc c.1 c.2) acc.toNat)

/-! ## Operand maps (R113) and the shape of a pass (R267, R268) -/

/-- An operand map without its reserved bits [37:32]. -/
def mapMask (m : DWord) : DWord := m &&& 0xFFFFFFC0FFFFFFFF

def mapFta (m : DWord) : Nat := bits m.toNat 63 60
def mapFtb (m : DWord) : Nat := bits m.toNat 59 56
def mapScale (m : DWord) : Nat := 16 * bits m.toNat 55 40
def mapMxa (m : DWord) : Bool := m.getLsbD 39
def mapMxb (m : DWord) : Bool := m.getLsbD 38
def mapStride (m : DWord) : Nat := bits m.toNat 31 20
def mapBase (m : DWord) : Nat := bits m.toNat 19 0

/-- K of a pass. -/
def passK (wa wb : Nat) : Nat := if wa = 4 ∧ wb = 4 then 128 else if wa = 16 ∨ wb = 16 then 32 else 64

/-- The chunk of a pass. -/
def passChunk (wa wb : Nat) : Nat := if wa = 16 ∨ wb = 16 then 4 else 8

/-- The element format and the size of a tagged block (R126). -/
def taggedElem (tag : Nat) : Option Elem :=
  match tag with
  | 0 => some (.float e4m3)
  | 1 => some (.float e5m2)
  | 2 => some (.float e3m2)
  | 3 => some (.float e2m3)
  | 4 => some (.float e2m1)
  | 5 => some (.fixed 6)
  | _ => none

def taggedSize (tag : Nat) : Nat :=
  match taggedElem tag with
  | some e => 2 + 4 * e.width
  | none => 34

/-- The operand values of a row or column: n elements packed in bytes, in chunks, with the scales of its blocks. -/
def operand (e : Elem) (bs : List Byte) (n ch : Nat) (scales : List Byte) : List Chunk :=
  let vals := chunksOf ch (n / ch) ((unpack e.width n (leNat bs)).map e.val)
  (number 0 vals).map (fun c => (c.2, match scales[c.1 * ch / 32]? with | some b => b.toNat | none => 127))

/-- The values of one tagged block. -/
def taggedBlock (tag scale : Nat) (bs : List Byte) (ch : Nat) : List Chunk :=
  match taggedElem tag with
  | some e => operand e bs 32 ch [BitVec.ofNat 8 scale]
  | none => List.replicate (32 / ch) (List.replicate ch (.nan false), scale)

/-! ## Windows, presence and engines -/

/-- What stands in the way of a path instruction's accesses: nothing, a trap in every lane of L, absent lines, or
earlier accesses of the group or its core (R113, R263, R264). -/
inductive MatGate where
  | pass
  | trap (r : SvcRecord)
  | park (lines : List (Nat × Nat))
  | hold
  deriving DecidableEq, Repr

/-- The bytes of a team's scratchpad. -/
def Team.size (t : Team) : Nat := 65536 * t.granules

/-- The gate of an access to parts of the own scratchpad: the group's earlier accesses, on which the extent of tagged blocks
depends (R263); presence, before the instruction issues (R264); then the range (R113). -/
def State.windowGate (s : State) (p : Path) (t : Team) (l : List (Nat × Nat)) : MatGate :=
  let lines := dedup (l.flatMap (fun r => linesOf r.1 r.2))
  let ab := t.absent.filter (fun a => lines.contains a.line)
  if s.acquiring p.core p.slot
      || !s.noneVisible p (lines.map (fun n => (0, { space := .scratch t.id, addr := 128 * n }))) then .hold
  else if ab.any AbsentLine.left then .trap { code := 0x0A }
  else if !ab.isEmpty then .park (ab.map (fun a => (t.id, a.line)))
  else if l.any (fun r => t.size < r.1 + r.2) then .trap { code := 0x05, sub := 1 }
  else .pass

/-- Passes a gate, or traps, parks or holds the path. -/
def State.gated (s : State) (p : Path) (g : MatGate) (f : State → State) : Option State :=
  match g with
  | .pass => some (f s)
  | .trap r => some ((s.trapAll p r).retireFor [(0, r)])
  | .park lines =>
    some ((s.park p.core p.slot p.L p.next (fun _ => .presence lines)).complete p.core p.slot p.off p.next)
  | .hold => none

/-- The engine of a core's quad. -/
def quadOf (core : Nat) : Nat := core / 4

/-- The entries that a core holds (R265). -/
def State.entriesHeld (s : State) (core : Nat) : Nat :=
  ((s.engines.getD (quadOf core) {}).entries.filter (fun e => e.core = core)).length

/-- Takes a reservation entry. -/
def State.takeEntry (s : State) (core slot : Nat) : State :=
  { s with
    nextId := s.nextId + 1
    engines := upd s.engines (quadOf core) (fun e =>
      { e with entries := e.entries ++ [({ id := s.nextId, core := core, slot := slot } : MatEntry)] }) }

/-- A matrix instruction that takes an entry: it waits while its core's four are held. -/
def State.matOp (s : State) (x : Exts) (tiles accs : List (BitVec 7)) (f : State → Path → Option State) :
    Outcome State Fault Refusal :=
  s.pathOp x (fun s p =>
    if tiles.any (fun t => p.g.ntiles ≤ t.toNat) || accs.any (fun m => p.g.naccs ≤ m.toNat) then
      some (s.trapAll p noReg)
    else if 4 ≤ s.entriesHeld p.core then none
    else f s p)

/-- The operation completes for its path, holding an entry. -/
def State.matDone (s : State) (p : Path) : State := (s.takeEntry p.core p.slot).pathDone p

/-- The same for an operation that has posted writes after the first `n`: they are its entry's. -/
def State.matPosted (s : State) (p : Path) (n : Nat) : State :=
  State.matDone { s with writes := s.writes.take n ++ (s.writes.drop n).map (fun (w : Write) => { w with mat := some s.nextId }) } p

/-- Whether a reservation entry is yet to be granted. -/
def State.ungranted (s : State) (id : Nat) : Bool :=
  s.engines.any (fun e => e.entries.any (fun m => m.id = id && !m.granted))

/-- ENGINE_GRANT (R265): a free engine takes the next core in ascending order with wrap that holds an entry, and that
core's oldest. -/
def execEngineGrant (engine : Nat) (s : State) : Outcome State Fault Refusal :=
  let e := s.engines.getD engine {}
  if e.entries.any MatEntry.granted then .next s
  else
    let next := (List.range 4).find? (fun k => e.entries.any (fun m => m.core % 4 = (e.last + 1 + k) % 4))
    match next with
    | none => .next s
    | some k =>
      let c := (e.last + 1 + k) % 4
      match e.entries.find? (fun m => m.core % 4 = c) with
      | none => .next s
      | some m => .next { s with engines := upd s.engines engine (fun e =>
          { e with last := c, entries := e.entries.map (fun n => if n.id = m.id then { n with granted := true } else n) }) }

/-- MATRIX_OP_COMPLETE: the granted operation completes and leaves its entry. -/
def execMatrixOpComplete (engine : Nat) (s : State) : Outcome State Fault Refusal :=
  .next { s with engines := upd s.engines engine (fun e => { e with entries := e.entries.filter (fun m => !m.granted) }) }

/-! ## MMA (R267 to R269) -/

/-- The element formats of a map; none where an entry is not an element format. -/
def State.mapElem (s : State) (g : Group) (n : Nat) : Option Elem :=
  elemOf (((s.teamOf g).getD { id := 0, launch := 0, core := 0, lin := 0 }).ctx.fte n)

/-- The SHAPE of an operand map. -/
def shapeMap (m : DWord) : SvcRecord := { code := 0x0C, sub := 2, auxa := m }

/-- The MISALIGN of a map's BASE (R113). -/
def mapMisalign : SvcRecord := { code := 0x03, auxa := 16 }

/-- The tagged blocks of one column from an offset: place, tag, scale, and the bytes they take. At a tag on an absent line,
which cannot be read yet, the walk ends with the tag alone. -/
def taggedWalk (t : Team) : Nat → Nat → List (Nat × Nat × Nat × Nat)
  | 0, _ => []
  | n + 1, off =>
    if !(t.absentOf off 1).isEmpty then [(off, 0, 0, 1)]
    else
      let tag := (sget t.scratch off).toNat
      (off, tag, (sget t.scratch (off + 1)).toNat, taggedSize tag) :: taggedWalk t n (off + taggedSize tag)

/-- The parts of scratchpad that a pass reads. -/
def mmaRanges (t : Team) (m : DWord) (fb : Elem) (k wb nb : Nat) : List (Nat × Nat) :=
  let col := fun c => mapBase m + 16 * mapStride m * c
  let cols := match fb with
    | .tagged => (List.range 128).flatMap (fun c => (taggedWalk t nb (col c)).map (fun b => (b.1, b.2.2.2)))
    | _ => (List.range 128).map (fun c => (col c, k * wb / 8))
  let mxa := if mapMxa m then 32 * nb else 0
  cols ++ (if mapMxa m then [(mapScale m, 32 * nb)] else [])
    ++ (if mapMxb m then [(mapScale m + mxa, 128 * nb)] else [])

/-- The rows of A and the columns of B. -/
def mmaRows (t : Team) (tile : List Byte) (m : DWord) (fa : Elem) (k ch nb : Nat) : List (List Chunk) :=
  (List.range 32).map (fun r => operand fa (slice tile (64 * r) (k * fa.width / 8)) k ch
    (if mapMxa m then sbytes t.scratch (mapScale m + nb * r) nb else []))

def mmaCols (t : Team) (m : DWord) (fb : Elem) (k ch nb : Nat) : List (List Chunk) :=
  (List.range 128).map (fun c =>
    let off := mapBase m + 16 * mapStride m * c
    match fb with
    | .tagged => (taggedWalk t nb off).flatMap (fun b =>
        taggedBlock b.2.1 b.2.2.1 (sbytes t.scratch (b.1 + 2) (b.2.2.2 - 2)) ch)
    | _ => operand fb (sbytes t.scratch off (k * fb.width / 8)) k ch
        (if mapMxb m then sbytes t.scratch (mapScale m + (if mapMxa m then 32 * nb else 0) + nb * c) nb else []))

/-- The accumulator after a pass: rows with a clear bit keep their values. -/
def mmaAcc (acc : Nat → Word) (rows : Word) (a b : List (List Chunk)) : List Word :=
  (number 0 a).flatMap (fun ra => (number 0 b).map (fun cb =>
    let old := acc (128 * ra.1 + cb.1)
    if rows.getLsbD ra.1 then accElem old ra.2 cb.2 else old))

/-- MMA (R269). -/
def execMma (x : Exts) (d a b : BitVec 7) (s : State) : Outcome State Fault Refusal :=
  s.matOp x [a] [d] (fun s p =>
    let m := sget p.g.g b.toNat
    let t := (s.teamOf p.g).getD { id := 0, launch := 0, core := 0, lin := 0 }
    if mapBase m % 16 ≠ 0 then some (s.trapAll p mapMisalign)
    else match s.mapElem p.g (mapFta m), s.mapElem p.g (mapFtb m) with
      | some fa, some fb =>
        if fa = .tagged ∨ (mapMxa m ∧ !fa.mxOk) ∨ (mapMxb m ∧ !fb.mxOk) then some (s.trapAll p (shapeMap m))
        else
          let k := passK fa.width fb.width
          let ch := passChunk fa.width fb.width
          let nb := k / 32
          s.gated p (s.windowGate p t (mmaRanges t m fb k fb.width nb)) (fun s =>
            let rows : Word := if (Exts.fam x).getLsbD 1 then (p.g.rs (Exts.c x).toNat).setWidth 32 else 0xFFFFFFFF
            let new := mmaAcc (fun i => sget p.g.m (4096 * d.toNat + i)) rows
              (mmaRows t (sbytes p.g.t (2048 * a.toNat) 2048) m fa k ch nb) (mmaCols t m fb k ch nb)
            (s.modGroup p.core p.slot (fun g => { g with m := sblock g.m (4096 * d.toNat) new })).matDone p)
      | _, _ => some (s.trapAll p (shapeMap m)))

/-! ## MZERO, MMAP, MBURST, TMOV (R270, R272, R273, R277) -/

/-- MZERO. -/
def execMzero (x : Exts) (d : BitVec 7) (s : State) : Outcome State Fault Refusal :=
  s.matOp x [] [d] (fun s p => some ((s.modGroup p.core p.slot (fun g =>
    { g with m := skeep g.m (fun k => k / 4096 ≠ d.toNat) })).matDone p))

/-- MMAP: the map's reserved bits [37:32] are ignored and hold zero (R3, R113, log 75). -/
def execMmap (x : Exts) (d a : BitVec 7) (s : State) : Outcome State Fault Refusal :=
  s.plain x [] (fun g _ => { g with g := sset g.g d.toNat (mapMask (g.rs a.toNat)) })

/-- MBURST: FILL and RAMP; the other bits are ignored. -/
def execMburst (x : Exts) (a : BitVec 7) (s : State) : Outcome State Fault Refusal :=
  s.plain x [] (fun g _ => { g with burst := g.rs a.toNat &&& 0xFF0F })

/-- The byte of a tile at which a lane's word of a segment starts. -/
def segByte (x : Exts) (t : BitVec 7) (j : Nat) : Nat := 2048 * t.toNat + 128 * ((Exts.fam x).toNat % 16) + 4 * j

/-- A TMOV: PROTECT where the tile is not declared. -/
def State.tmov (s : State) (x : Exts) (t : BitVec 7) (regs : List (Nat × Nat)) (f : Group → Word → Group) :
    Outcome State Fault Refusal :=
  match s.path x with
  | none => .fault .noIssue
  | some p => if p.L ≠ 0 ∧ p.g.ntiles ≤ t.toNat then .next (s.trapAll p noReg) else s.plain x regs f

/-- TMOV Td, Va. -/
def execTmovTv (x : Exts) (d a : BitVec 7) (s : State) : Outcome State Fault Refusal :=
  s.tmov x d (vuse (Exts.uniA x) a 1) (fun g L =>
    { g with t := ssets g.t ((lanesOf L).flatMap (fun j => wordBytes (segByte x d j) (g.srcA x a j))) })

/-- TMOV Vd, Ta. -/
def execTmovVt (x : Exts) (d a : BitVec 7) (s : State) : Outcome State Fault Refusal :=
  s.tmov x a (vuse false d 1) (fun g L =>
    g.eachV d L (fun j => BitVec.ofNat 32 (leNat (sbytes g.t (segByte x a j) 4))))

/-! ## MLD, MST, TLD (R271, R272) -/

/-- The checks of R248 for a whole MLD, MST or TLD of n bytes: the 128-byte pieces it acts on, or what stops it. -/
inductive MatSpan where
  | go (l : List Place)
  | gone
  | stop (r : SvcRecord)
  | park (lines : List (Nat × Nat))
  deriving DecidableEq, Repr

/-- The check of one 128-byte piece of global memory, with the rules of R245 and R243. -/
def State.matPiece (s : State) (p : Path) (va : DWord) (acc : Access) : Except SvcRecord Place :=
  let txa : Access := { acc with kind := acc.kind ||| 0x10 }
  match s.translate p.core (s.teamOf p.g) va acc with
  | .error r => .error r
  | .ok pl =>
    let txn := p.g.txn.isSome
    let bad := if pl.space ≠ .mem then none
      else if acc.r then s.badSector pl.addr 128
      else if s.retiredAt pl.addr then some pl.addr else none
    if txn && acc.w && !pl.cameo then .error { code := 0x0D, kind := 0x12, addr := va }
    else if txn && pl.cameo && pl.space ≠ .mem then .error (protect 3 txa va)
    else if txn && acc.r && pl.cameo && !s.txnLive p.g then .error (protect 5 { acc with kind := 0x31 } va)
    else if !txn && acc.w && s.full p pl then .error { code := 0x0E, kind := 2, addr := va }
    else if let some a := bad then .error (memErr acc (va + BitVec.ofNat 64 (a - pl.addr)) a)
    else if let some r := s.noRoute acc va pl.space then .error r
    else .ok pl

/-- All pieces, or the first failure. -/
def allOk {α ε : Type} : List (Except ε α) → Except ε (List α)
  | [] => .ok []
  | .error e :: _ => .error e
  | .ok a :: r =>
    match allOk r with
    | .ok l => .ok (a :: l)
    | .error e => .error e

def State.matSpan (s : State) (p : Path) (va : DWord) (n : Nat) (acc : Access) : MatSpan :=
  match s.range (s.teamOf p.g) va n acc with
  | .error r => .stop r
  | .ok rg =>
    if va.toNat % 128 ≠ 0 then .stop { code := 0x03, kind := acc.kind, addr := va, auxa := 128 }
    else match rg with
      | .gone => if acc.w then .gone else .stop (protect 3 acc va)
      | .window tm off =>
        match s.team? tm with
        | none => .gone
        | some u =>
          let ab := u.absentOf off n
          if ab.any AbsentLine.left then .stop { code := 0x0A, kind := acc.kind, addr := va }
          else if !ab.isEmpty then .park (ab.map (fun a => (tm, a.line)))
          else .go ((List.range (n / 128)).map (fun k => { space := .scratch tm, addr := off + 128 * k }))
      | .global =>
        match allOk ((List.range (n / 128)).map (fun k => s.matPiece p (va + BitVec.ofNat 64 (128 * k)) acc)) with
        | .ok l => .go l
        | .error r => .stop r

/-- The walks of a span of n bytes (R224, R328). -/
def State.walkSpan (s : State) (p : Path) (va : DWord) (n : Nat) : State :=
  s.walkLanes p (List.range (n / 128)) 128 (fun k => va + BitVec.ofNat 64 (128 * k))

/-- Runs a path instruction over its span of n bytes at an address. -/
def State.spanned (s : State) (p : Path) (va : DWord) (n : Nat) (acc : Access) (f : List Place → Option State) : Option State :=
  match s.matSpan p va n acc with
  | .go l => f l
  | .gone => f []
  | .stop r => (s.walkSpan p va n).gated p (.trap r) id
  | .park lines => s.gated p (.park lines) id

/-- The bytes that MLD and TLD read: at the snapshot of an open transaction for cameo lines, else as they stand. -/
def State.matRead (s : State) (p : Path) (l : List Place) : List Byte :=
  l.flatMap (fun pl =>
    match p.g.txnSnap with
    | some t => if pl.cameo && pl.space = .mem then s.readAt t.snap p.g.buffered pl.addr 128 else s.bytes pl.space pl.addr 128
    | none => s.bytes pl.space pl.addr 128)

/-- Whether the reads and writes of a span can be made now, in the group's issue order (R263). -/
def State.spanReady (s : State) (p : Path) (l : List Place) : Bool :=
  !s.acquiring p.core p.slot && s.noneVisible p (l.map (fun pl => (0, pl)))

/-- Whether the arbiters let the reads of a span be served in this step (R218). -/
def State.spanServed (s : State) (p : Path) (l : List Place) : Bool :=
  s.issueServed p.core p.slot (memLines (l.map (fun pl => (0, pl))))

/-- The homes serve a span at an address, after the walks for it: they recall the U copies of the lines that it reads (R224),
and log the errors that the reading meets and corrects (R328). -/
def State.recallSpan (s : State) (p : Path) (va : DWord) (l : List Place) : State :=
  let here := (l.filter (fun pl => pl.space = .mem)).map Place.addr
  let s := s.walkSpan p va (128 * l.length)
  (here.foldl (fun s a => s.recall (a / 128)) (s.answered p.core p.slot)).noteReads (here.flatMap (fun a => (List.range 4).map (fun k => a + 32 * k)))

/-- MLD. -/
def execMld (x : Exts) (d a : BitVec 7) (s : State) : Outcome State Fault Refusal :=
  s.matOp x [] [d] (fun s p =>
    s.spanned p (p.g.rs a.toNat) 16384 .load (fun l =>
      if !s.spanReady p l then none
      else if !s.spanServed p l then some (s.ask p.core p.slot)
      else
        let s := s.recallSpan p (p.g.rs a.toNat) l
        let ws := (chunksOf 4 4096 (s.matRead p l)).map (fun b => (BitVec.ofNat 32 (leNat b) : Word))
        some ((s.modGroup p.core p.slot (fun g => { g with m := sblock g.m (4096 * d.toNat) ws })).matDone p)))

/-- TLD: it takes no reservation entry. -/
def execTld (x : Exts) (d a : BitVec 7) (s : State) : Outcome State Fault Refusal :=
  s.pathOp x (fun s p =>
    if p.g.ntiles ≤ d.toNat then some (s.trapAll p noReg)
    else s.spanned p (p.g.rs a.toNat) 2048 .load (fun l =>
      if !s.spanReady p l then none
      else if !s.spanServed p l then some (s.ask p.core p.slot)
      else
        let s := s.recallSpan p (p.g.rs a.toNat) l
        some ((s.modGroup p.core p.slot (fun g =>
          { g with t := sblock g.t (2048 * d.toNat) (s.matRead p l) })).pathDone p)))

/-- MST: the stores of the group, posted line by line, or buffered in an open transaction. -/
def execMst (x : Exts) (d a : BitVec 7) (s : State) : Outcome State Fault Refusal :=
  s.matOp x [] [d] (fun s p =>
    s.spanned p (p.g.rs a.toNat) 16384 .store (fun l =>
      if s.acquiring p.core p.slot then none
      else
        let bytes := fun (k : Nat) => (List.range 32).flatMap (fun i =>
          leBytes 4 (sget p.g.m (4096 * d.toNat + 32 * k + i)).toNat)
        some (((s.walkSpan p (p.g.rs a.toNat) 16384).storeLanes p (s.releaseOf p.core p.slot 0 0) ((number 0 l).map (fun e => (e.2, bytes e.1)))).matPosted p s.writes.length)))

/-! ## MDRAIN (R274 to R276) -/

/-- The exponent of an element format's largest finite value (R275). -/
def Elem.emax : Elem → Int
  | .float f => (2 ^ f.ew : Int) - (if f.kind = .ieee then 2 else 1) - f.bias
  | .fixed mw => 6 - (mw : Int)
  | .tagged => 0

/-- A finite value rounded into an element format, nearest even, saturating; a fixed value is clamped to ±127 and
multiplied by 2^MW. -/
def Elem.fit (e : Elem) (x : Ex) : Nat :=
  match e with
  | .float f => (cvtFin f .rn true false x).1
  | .fixed mw =>
    let n := min 127 (roundAt .rn { x with e := x.e + mw } 0).1
    if x.neg then (256 - n) % 256 else n
  | .tagged => 0

/-- The encoding of a zero with a sign. -/
def Elem.zero (e : Elem) (neg : Bool) : Nat :=
  match e with
  | .float f => f.zero neg
  | _ => 0

/-- One value without MX (R276). -/
def Elem.drain (e : Elem) (v : FVal) : Nat :=
  match v, e with
  | .nan _, .float f => f.nan
  | .inf n, .float f => if f.hasInf then f.inf n else f.maxFin n
  | .inf n, .fixed _ => if n then 129 else 127
  | .fin .., _ => e.fit v.ex
  | _, _ => 0

/-- floor(log2) of the largest magnitude among finite values; none when all are zero. -/
def maxLog (l : List FVal) : Option Int :=
  l.foldl (fun acc v => match v with
    | .fin _ m e =>
      if m = 0 then acc
      else match acc with
        | none => some (e + m.log2)
        | some a => some (max a (e + m.log2))
    | _ => acc) none

/-- A block of 32 values requantised: its scale byte and its elements (R275). -/
def Elem.requant (f : Elem) (l : List FVal) : Byte × List Nat :=
  if l.any (fun v => v.isNan || v.isInf) then (0xFF, l.map (fun _ => 0))
  else match maxLog l with
    | none => (0, l.map (fun v => f.zero v.neg))
    | some lg =>
      let e := min (max (lg - f.emax) (-127)) 127
      (BitVec.ofNat 8 (e + 127).toNat, l.map (fun v => f.fit { v.ex with e := v.ex.e - e }))

/-- The parts of scratchpad that a drain writes. -/
def drainRanges (ga gb : DWord) (w : Nat) : List (Nat × Nat) :=
  (List.range 32).map (fun r => (mapBase ga + 16 * mapStride ga * r, 16 * w))
    ++ (if mapMxb ga then [(mapScale gb, 128)] else [])

/-- The bytes of one row: its place and its packed elements, and its scales. -/
def drainRow (f : Elem) (ga gb : DWord) (r : Nat) (vals : List FVal) : List (Nat × Byte) :=
  let blocks := (chunksOf 32 4 vals).map f.requant
  let els := if mapMxb ga then blocks.flatMap Prod.snd else vals.map f.drain
  number (mapBase ga + 16 * mapStride ga * r) (leBytes (16 * f.width) (pack f.width els))
    ++ (if mapMxb ga then number (mapScale gb + 4 * r) (blocks.map Prod.fst) else [])

/-- MDRAIN. -/
def execMdrain (x : Exts) (d a b : BitVec 7) (s : State) : Outcome State Fault Refusal :=
  s.matOp x [] [d] (fun s p =>
    let ga := sget p.g.g a.toNat
    let gb := sget p.g.g b.toNat
    let t := (s.teamOf p.g).getD { id := 0, launch := 0, core := 0, lin := 0 }
    if mapBase ga % 16 ≠ 0 then some (s.trapAll p mapMisalign)
    else match s.mapElem p.g (mapFtb ga) with
      | none => some (s.trapAll p (shapeMap ga))
      | some f =>
        if f = .tagged ∨ (mapMxb ga ∧ !f.mxOk) ∨ mapStride ga < f.width then some (s.trapAll p (shapeMap ga))
        else s.gated p (s.windowGate p t (drainRanges ga gb f.width)) (fun s =>
          let cells := (List.range 32).flatMap (fun r => drainRow f ga gb r
            ((List.range 128).map (fun c => fp32.val (sget p.g.m (4096 * d.toNat + 128 * r + c)).toNat)))
          (s.postBytes p (s.releaseOf p.core p.slot 0 0) (cells.map (fun c => (Space.scratch t.id, c.1, c.2, false)))).matPosted p s.writes.length))

end Sys2Proof.Machine
end

