-- ==== Sys2Proof/Machine/Clasp.lean ====
section
/-! DEFINITION. Clasp: clasps and their instructions (R289 to R296). -/

namespace Sys2Proof.Machine

open Host (Outcome)

/-! ## Clasps by reference -/

/-- The clasp that a K field names for a group (R77, R289). -/
def State.claspRef (s : State) (g : Group) (k : BitVec 7) : Option ClaspRef :=
  let i := k.toNat % 16
  match k.toNat / 16, s.teamOf g with
  | 0, _ => some (.group g.core g.slot i)
  | 1, some t => some (.team t.id i)
  | 2, some t => some (.gang t.launch t.gang i)
  | 3, some t => some (.grid t.launch i)
  | _, _ => none

/-- The clasp of a reference, while its level stands. -/
def State.clasp? (s : State) (r : ClaspRef) : Option Clasp :=
  match r with
  | .group c sl i => (s.group? c sl).bind (fun g => g.clasps[i]?)
  | .team t i => (s.team? t).bind (fun t => t.clasps[i]?)
  | .gang l n i => (s.gangs.find? (fun g => g.launch = l && g.idx = n)).bind (fun g => g.clasps[i]?)
  | .grid l i => (s.launch? l).bind (fun l => l.grid[i]?)

/-- Changes a clasp. -/
def State.modClasp (s : State) (r : ClaspRef) (f : Clasp → Clasp) : State :=
  match r with
  | .group c sl i => s.modGroup c sl (fun g => { g with clasps := upd g.clasps i f })
  | .team t i => s.modTeam t (fun t => { t with clasps := upd t.clasps i f })
  | .gang l n i => { s with gangs := s.gangs.map (fun g =>
      if g.launch = l ∧ g.idx = n then { g with clasps := upd g.clasps i f } else g) }
  | .grid l i => s.modLaunch l (fun l => { l with grid := upd l.grid i f })

/-- The place of a clasp among a lane's wait bits (R290). -/
def waitBit (k : BitVec 7) : Nat :=
  let i := k.toNat % 16
  match k.toNat / 16 with
  | 0 => i
  | 1 => 4 + i
  | 2 => 20 + i
  | _ => 36 + i

/-- The two words of R289. -/
def Clasp.word0 (c : Clasp) : DWord := c.exp ++ c.arr
def Clasp.word1 (c : Clasp) : DWord :=
  BitVec.ofNat 64 (c.fcode % 8 * 2 ^ 40 + (if c.failed then 2 ^ 37 else 0) + (if c.phase then 2 ^ 36 else 0))
    ||| (BitVec.ofInt 36 c.pend).setWidth 64

/-! ## Events (R291) -/

/-- Fails a clasp that has not failed. -/
def Clasp.fail (c : Clasp) (code : Nat) : Clasp := if c.failed then c else { c with failed := true, fcode := code }

/-- The test after each event: a completed phase flips PHASE, zeroes ARR and restarts the timer. -/
def Clasp.test (c : Clasp) : Clasp :=
  if !c.failed && c.arr = c.exp && c.pend = 0 then { c with phase := !c.phase, arr := 0, timer := 0 } else c

/-- An event on a clasp that has not failed; the timer restarts. -/
def Clasp.event (c : Clasp) (f : Clasp → Clasp) : Clasp := if c.failed then c else { f c with timer := 0 }.test

def Clasp.arrive (c : Clasp) : Clasp :=
  c.event (fun c => if c.arr = c.exp then c.fail 3 else { c with arr := c.arr + 1 })
def Clasp.credit (c : Clasp) (n : Nat) : Clasp :=
  c.event (fun c => if c.pend - n < -(2 ^ 35) then c.fail 3 else { c with pend := c.pend - n })
def Clasp.expect (c : Clasp) (n : Nat) : Clasp :=
  c.event (fun c => if 2 ^ 35 ≤ n ∨ 2 ^ 35 ≤ c.pend + n then c.fail 3 else { c with pend := c.pend + n })

/-! ## Presence (R209 to R211) -/

/-- Whether a line is absent, and whether a failed copy left it so. -/
def State.lineAbsent (s : State) (e : Nat × Nat) (left : Bool) : Bool :=
  match s.team? e.1 with
  | some t => t.absent.any (fun a => a.line = e.2 && (!left || a.left))
  | none => false

/-- The lanes of a group parked on presence whose lines are all present, or one of which a failed copy has left: they
run again at their instruction, which then makes its access or takes COPYFAULT. -/
def State.presenceReady (s : State) (g : Group) : Word :=
  g.mask (fun l => match l.st with
    | .park (.presence ls) => ls.all (fun e => !s.lineAbsent e false) || ls.any (fun e => s.lineAbsent e true)
    | _ => false)

/-- Resumes every lane whose presence wait has ended; a stopped group's lanes stay parked (R61). -/
def State.wakePresence (s : State) : State :=
  s.groups.foldl (fun s g => if s.isStopped g then s else s.actRetry g.core g.slot (s.presenceReady g)) s

/-- The scratchpad lines that units write. -/
def unitLines (l : List JobUnit) : List (Nat × Nat) :=
  dedup (l.filterMap (fun u => match u.dst with | .win t o => some (t, o / 128) | .va _ => none))

/-- The lines of a part of a window. -/
def footLines (f : Footprint) : List (Nat × Nat) :=
  match f.win with
  | some t => (linesOf f.lo (f.hi - f.lo)).map (fun n => (t, n))
  | none => []

/-- The lines of some runs. -/
def runLines (l : List (JobAddr × Nat)) : List (Nat × Nat) :=
  dedup (l.flatMap (fun r => match r.1 with
    | .win t o => (linesOf o r.2).map (fun n => (t, n))
    | .va _ => []))

/-- The line of a job's address, where it lies in a window. -/
def JobAddr.line : JobAddr → List (Nat × Nat)
  | .win t o => [(t, o / 128)]
  | .va _ => []

/-- The lines that a job has left to write: of its words and of its signal word; of a media job, of the runs of its
destination and of its control block, its second write (R281, R286). -/
def Job.linesLeft (j : Job) : List (Nat × Nat) :=
  match j.kind with
  | .media .. => runLines j.dstRuns ++ (j.writes.drop 1).flatMap footLines
  | _ => unitLines j.units ++ (match j.signal with | some a => a.line | none => [])

/-- The clasps bound to a job: of every destination team for a COPY.MC with a team clasp (R283). -/
def Job.bound (j : Job) : List ClaspRef :=
  match j.clasp, j.kind with
  | some (.team _ i), .mc => j.writes.filterMap (fun f => f.win.map (fun t => .team t i))
  | some r, _ => [r]
  | none, _ => []

/-- The lines that a job has left to write in reach of one of its clasps: of a COPY.MC with a team clasp, those of that
team. -/
def Job.linesOf (j : Job) (r : ClaspRef) : List (Nat × Nat) :=
  match r, j.kind with
  | .team t _, .mc => j.linesLeft.filter (fun e => e.1 = t)
  | _, _ => j.linesLeft

/-- Changes the absent lines of every team. -/
def State.mapAbsent (s : State) (f : Nat → List AbsentLine → List AbsentLine) : State :=
  { s with teams := s.teams.map (fun t => { t with absent := f t.id t.absent }) }

/-- Lines that a job has cleared stay absent until a later copy (R211). -/
def State.leaveLines (s : State) (job : Nat) (lines : List (Nat × Nat)) : State :=
  s.mapAbsent (fun t l => l.map (fun a => if a.entry = job ∧ lines.contains (t, a.line) then { a with left := true } else a))

/-- A clasp has entered FAILED: what stopped jobs that are bound to it have not delivered is left absent, and the lanes
parked on it take COPYFAULT (R211). -/
def State.failBound (s : State) (r : ClaspRef) : State :=
  ((s.jobs.filter (fun j => j.stopped && j.bound.contains r)).foldl (fun s j => s.leaveLines j.id (j.linesOf r)) s).wakePresence

/-- The jobs that a clasp's gate holds may start once it completes a phase (R286). -/
def openGates (r : ClaspRef) (l : List Job) : List Job :=
  l.map (fun j => if j.gate && j.clasp = some r then { j with gate := false } else j)

/-! ## Waiting lanes -/

/-- The lanes of a group that are parked on a clasp, with the K field and the destination of each. -/
def State.parkedOn (s : State) (g : Group) (r : ClaspRef) : List (Nat × BitVec 7 × BitVec 7) :=
  (List.range 32).filterMap (fun j =>
    match (g.lane j).st with
    | .park (.clasp k d) => if s.claspRef g k = some r then some (j, k, d) else none
    | _ => none)

/-- S62 of finish: FCODE + 256 × the K field (R292). -/
def finishValue (c : Clasp) (k : BitVec 7) : DWord := BitVec.ofNat 64 (c.fcode + 256 * k.toNat)

/-- CLASPTO with both words of the clasp (R295). -/
def claspto (c : Clasp) : SvcRecord := { code := 0x08, auxa := c.word0, auxb := c.word1 }

/-- What lanes of a core that observe a completed phase acquire: its loads' early readings are made again (R231, R293). -/
def State.acquired (s : State) (core : Nat) (m : Word) : State := if m = 0 then s else s.dropEarly core (fun _ => true)

/-- Sets the wait bit of a lane, and its predicate. -/
def Lane.observe (l : Lane) (k d : BitVec 7) (phase : Bool) : Lane :=
  ({ l with wbits := setBit l.wbits (waitBit k) phase }).setPred d.toNat true

/-- Releases the lanes of one group that are parked on a clasp which has completed a phase or failed, path by path. A wait
that observes a phase is an acquire (R293). -/
def State.releaseGroup (s : State) (c : Clasp) (g : Group) (ls : List (Nat × BitVec 7 × BitVec 7)) : State :=
  let m := maskOf (fun j => ls.any (fun e => e.1 = j))
  let at' := fun (j : Nat) => ls.find? (fun e => e.1 = j)
  if !c.failed then
    (s.acquired g.core m).modGroup g.core g.slot (fun h => h.modLanes m (fun j l => match at' j with
      | some e => l.observe e.2.1 e.2.2 c.phase
      | none => l)) |>.completeParked g.core g.slot m
  else if c.fcode = 2 then
    s.raiseParked g (ls.map (fun x => (x.1, claspto c)))
  else
    (s.modGroup g.core g.slot (fun h =>
      (h.modLanes m (fun j l => match at' j with
        | some e => l.setPred e.2.2.toNat false
        | none => l)).ws 62 (finishValue c (match ls with | e :: _ => e.2.1 | [] => 0)))).completeParked g.core g.slot m

/-- Releases every lane of the device that is parked on a clasp; a stopped group's lanes stay parked (R61). -/
def State.releaseLanes (s : State) (r : ClaspRef) (c : Clasp) : State :=
  s.groups.foldl (fun s g =>
    let ls := s.parkedOn g r
    if ls.isEmpty || s.isStopped g then s else s.releaseGroup c g ls) s

/-- Applies an event to a clasp, and releases its parked lanes when it completes a phase or fails. -/
def State.claspEvent (s : State) (r : ClaspRef) (f : Clasp → Clasp) : State :=
  match s.clasp? r with
  | none => s
  | some c =>
    let c' := f c
    let s := s.modClasp r (fun _ => c')
    if c'.phase ≠ c.phase then
      State.releaseLanes { s with
        jobs := openGates r s.jobs
        savedTeams := s.savedTeams.map (fun (t : SavedTeam) => { t with jobs := openGates r t.jobs }) } r c'
    else if c'.failed ≠ c.failed then (s.releaseLanes r c').failBound r
    else s

/-- One lane's arrival: the wait bit takes PHASE, then the event (R291). -/
def State.arriveLane (s : State) (p : Path) (r : ClaspRef) (k : BitVec 7) (j : Nat) : State :=
  match s.clasp? r with
  | none => s
  | some c =>
    let s := if c.failed ∨ c.arr = c.exp then s
      else s.modGroup p.core p.slot (fun g => g.modLane j (fun l => { l with wbits := setBit l.wbits (waitBit k) c.phase }))
    s.claspEvent r Clasp.arrive

/-- The ordering scope of a K field (R289, R293). -/
def claspScope (k : BitVec 7) : Nat := k.toNat / 16

/-! ## The instructions (R292) -/

/-- An instruction on a declared clasp; PROTECT where the launch does not declare it (R280). -/
def State.onClasp (s : State) (x : Exts) (k : BitVec 7) (f : State → Path → ClaspRef → Clasp → Option State) :
    Outcome State Fault Refusal :=
  s.pathOp x (fun s p =>
    match (s.claspRef p.g k).bind (fun r => (s.clasp? r).map (fun c => (r, c))) with
    | some (r, c) => if c.declared then f s p r c else some (s.trapAll p { code := 0x05, sub := 4 })
    | none => some (s.trapAll p { code := 0x05, sub := 4 }))

/-- ARRIVE: a release at the clasp's scope. -/
def execArrive (x : Exts) (a : BitVec 7) (s : State) : Outcome State Fault Refusal :=
  s.onClasp x a (fun s p r _ =>
    if !s.fenceReady p.core p.slot 1 (claspScope a) then none
    else some (((lanesOf p.L).foldl (fun s j => s.arriveLane p r a j) s).pathDone p))

/-- EXPECT: one expect of S[B]. -/
def execExpect (x : Exts) (a b : BitVec 7) (s : State) : Outcome State Fault Refusal :=
  s.onClasp x a (fun s p r _ => some ((s.claspEvent r (fun c => c.expect (p.g.rs b.toNat).toNat)).pathDone p))

/-- finish(j, 0) in lanes of one path (R292): CLASPTO after a timeout, else the predicate is cleared and S62 is written
once. -/
def finishTraps (c : Clasp) (m : Word) : List (Nat × SvcRecord) := if c.fcode = 2 then allLanes m (claspto c) else []

def State.finishLanes (s : State) (p : Path) (c : Clasp) (k d : BitVec 7) (m : Word) : State :=
  if m = 0 ∨ c.fcode = 2 then s
  else s.modGroup p.core p.slot (fun g => (g.eachPred d m (fun _ => false)).ws 62 (finishValue c k))

/-- The lanes that a finish completes. -/
def finished (c : Clasp) (m : Word) : Word := if c.fcode = 2 then 0 else m

/-- WAIT. -/
def execWait (x : Exts) (d a : BitVec 7) (s : State) : Outcome State Fault Refusal :=
  s.onClasp x a (fun s p _ c =>
    if c.failed then
      some ((s.finishLanes p c a d p.L).finishIssue p.core p.slot p.next (finishTraps c p.L) (finished c p.L ||| p.off) p.next)
    else
      let seen := maskOf (fun j => p.L.getLsbD j && (p.g.lane j).wbits.getLsbD (waitBit a) != c.phase)
      let s := (s.acquired p.core seen).modGroup p.core p.slot (fun g => g.modLanes seen (fun _ l => l.observe a d c.phase))
      let s := s.park p.core p.slot (p.L &&& ~~~seen) p.next (fun _ => .clasp a d)
      some (s.complete p.core p.slot (seen ||| p.off) p.next))

/-- The lanes of an ARWAIT in ascending order: each arrives and then waits. `pend`: those that wait; `done`: those that
have seen a completion. -/
def State.arwaitLanes (s : State) (p : Path) (r : ClaspRef) (k : BitVec 7) :
    List Nat → List Nat → List Nat → State × List Nat × List Nat
  | [], pend, done => (s, pend, done)
  | j :: rest, pend, done =>
    let before := (s.clasp? r).getD {}
    let s := s.arriveLane p r k j
    let c := (s.clasp? r).getD {}
    if !c.failed && c.phase != before.phase then
      let s := s.modGroup p.core p.slot (fun g => g.modLanes (maskList (j :: pend)) (fun _ l =>
        { l with wbits := setBit l.wbits (waitBit k) c.phase }))
      s.arwaitLanes p r k rest [] (done ++ pend ++ [j])
    else s.arwaitLanes p r k rest (pend ++ [j]) done

/-- ARWAIT. -/
def execArwait (x : Exts) (d a : BitVec 7) (s : State) : Outcome State Fault Refusal :=
  s.onClasp x a (fun s p r _ =>
    if !s.fenceReady p.core p.slot 1 (claspScope a) then none
    else
      let (s, pend, done) := s.arwaitLanes p r a (lanesOf p.L) [] []
      let c := (s.clasp? r).getD {}
      let dm := maskList done
      let pm := maskList pend
      let s := (s.acquired p.core dm).modGroup p.core p.slot (fun g => g.eachPred d dm (fun _ => true))
      if c.failed then
        some ((s.finishLanes p c a d pm).finishIssue p.core p.slot p.next (finishTraps c pm) (dm ||| finished c pm ||| p.off)
          p.next)
      else
        some ((s.park p.core p.slot pm p.next (fun _ => .clasp a d)).complete p.core p.slot (dm ||| p.off) p.next))

/-- CLTEST. -/
def execCltest (x : Exts) (d a : BitVec 7) (s : State) : Outcome State Fault Refusal :=
  s.onClasp x a (fun s p _ c =>
    if c.failed then
      some ((s.finishLanes p c a d p.L).finishIssue p.core p.slot p.next (finishTraps c p.L) (finished c p.L ||| p.off) p.next)
    else
      let seen := maskOf (fun j => p.L.getLsbD j && (p.g.lane j).wbits.getLsbD (waitBit a) != c.phase)
      some (((s.acquired p.core seen).modGroup p.core p.slot (fun g =>
        (g.modLanes seen (fun _ l => l.observe a d c.phase)).eachPred d (p.L &&& ~~~seen) (fun _ => false))).pathDone p))

/-! ## The timer (R295) -/

/-- The context of a clasp's level; of a gang or a grid, as the descriptor was read when the latest of its resident teams
started or was restored. -/
def State.claspCtx (s : State) (r : ClaspRef) : Option CtxDesc :=
  match r with
  | .group c sl _ => (s.group? c sl).bind (fun g => (s.teamOf g).map Team.ctx)
  | .team t _ => (s.team? t).map Team.ctx
  | .gang l i _ => ((s.teams.filter (fun t => t.launch = l && t.gang = i)).getLast?.map Team.ctx).or ((s.launch? l).map Launch.ctx)
  | .grid l _ => ((s.teams.filter (fun t => t.launch = l)).getLast?.map Team.ctx).or ((s.launch? l).map Launch.ctx)

/-- Whether a lane is parked on a clasp. -/
def State.hasWaiter (s : State) (r : ClaspRef) : Bool := s.groups.any (fun g => !(s.parkedOn g r).isEmpty)

/-- CLASP_TIMEOUT (R295): a timer that has reached the context's value fails the clasp with code 2. -/
def execClaspTimeout (r : ClaspRef) (s : State) : Outcome State Fault Refusal :=
  match s.clasp? r, s.claspCtx r with
  | some c, some x =>
    if x.claspTmo ≠ 0 ∧ x.claspTmo ≤ c.timer ∧ !c.failed ∧ s.hasWaiter r then
      .next (s.claspEvent r (fun c => c.fail 2))
    else .next s
  | _, _ => .next s

end Sys2Proof.Machine
end

