-- ==== Sys2Proof/Machine/EngineOps.lean ====
section
/-! DEFINITION. EngineOps: COPY, COPY.MC, GATHER, COLL and MEDIA as a path issues them: shape records, the checks of
R280, and the acceptance of a job (R278 to R286). What the job does afterwards is in Jobs.lean. -/

namespace Sys2Proof.Machine

open Host (Outcome)

/-! ## Shape records (R278, R279) -/

/-- A usable shape record: index, BASE, LIMIT, ESIZE, extents and the strides of dimensions 1 to 3. -/
structure BoxRec where
  idx : Nat
  base : Nat
  limit : Nat
  esize : Nat
  d0 : Nat
  d1 : Nat
  d2 : Nat
  d3 : Nat
  s1 : Int
  s2 : Int
  s3 : Int
  deriving DecidableEq, Repr

/-- SHAPE at a record. -/
def shapeTrap (sub : Byte) (v : Nat) : SvcRecord := { code := 0x0C, sub := sub, auxa := BitVec.ofNat 64 v }

/-- A signed 64-bit number. -/
def sint (v : Nat) : Int := (BitVec.ofNat 64 v).toInt

/-- An extent is legal: 1 or more below NDIM, exactly 1 from NDIM up. -/
def extentOk (ndim k d : Nat) : Bool := if k < ndim then 1 ≤ d else d = 1

/-- The record of an index with a right: READ (bit 0) or WRITE (bit 1); MEMERR where its reading meets a lasting error (R328,
log 35). -/
def State.boxRec (s : State) (c : CtxDesc) (idx right : Nat) : Except SvcRecord BoxRec :=
  if c.shapeCnt ≤ idx then .error (shapeTrap 0 idx)
  else
  match s.badSector (c.shapeBase + 64 * idx) 64 with
  | some a => .error (memErr { kind := 9 } 0 a)
  | none =>
    let b := (s.homeRead (c.shapeBase + 64 * idx) 64).1
    let rights := field b 58 1
    let ndim := field b 57 1
    let es := field b 56 1
    let r : BoxRec :=
      { idx := idx, base := field b 0 8, limit := field b 8 8, esize := es
        d0 := field b 16 4, d1 := field b 20 4, d2 := field b 24 4, d3 := field b 28 4
        s1 := sint (field b 32 8), s2 := sint (field b 40 8), s3 := sint (field b 48 8) }
    let ok := bitN rights 7 && 1 ≤ ndim && ndim ≤ 4 && [4, 6, 8, 16, 32, 64].contains es
      && extentOk ndim 0 r.d0 && extentOk ndim 1 r.d1 && extentOk ndim 2 r.d2 && extentOk ndim 3 r.d3
      && r.base % 4 = 0 && r.s1 % 4 = 0 && r.s2 % 4 = 0 && r.s3 % 4 = 0 && r.d0 * es % 32 = 0
    if !ok then .error (shapeTrap 0 idx)
    else if !bitN rights right then .error (shapeTrap 1 idx)
    else .ok r

/-- The home has read a record for a path (R224, R328). -/
def State.readShape (s : State) (c : CtxDesc) (idx : Nat) : State :=
  if c.shapeCnt ≤ idx then s else s.readRange (c.shapeBase + 64 * idx) 64

/-- The bytes of a run. -/
def BoxRec.run (r : BoxRec) : Nat := r.d0 * r.esize / 8

/-- The starts of a box's runs: the extents of `d` with the strides of `r`, from an offset. -/
def boxRuns (d r : BoxRec) (off : Int) : List Int :=
  (List.range d.d3).flatMap (fun (k : Nat) => (List.range d.d2).flatMap (fun (j : Nat) => (List.range d.d1).map (fun (i : Nat) =>
    off + (i : Int) * r.s1 + (j : Int) * r.s2 + (k : Int) * r.s3)))

/-- The hull of runs of n bytes, as offsets from BASE; SHAPE where it leaves 0 to LIMIT. -/
def BoxRec.hull (r : BoxRec) (starts : List Int) (n : Nat) : Except SvcRecord (Nat × Nat) :=
  match starts with
  | [] => .ok (r.base, r.base)
  | a :: l =>
    let lo := l.foldl min a
    let hi := l.foldl max a + n
    if lo < 0 ∨ (r.limit : Int) < hi - 1 then .error (shapeTrap 0 r.idx) else .ok (r.base + lo.toNat, r.base + hi.toNat)

/-! ## Where a job's addresses lie (R204, R280) -/

/-- The start of the own window and of the peer windows. -/
def winBase : Nat := 0x01F0000000000000
def peerBase : Nat := 0x01F0000001000000

/-- The resolution of the bytes from lo up to hi for a job: check 5 of R280. -/
def State.jobRange (s : State) (t : Team) (lo hi : Nat) (kind : Byte) : Except SvcRecord JobAddr :=
  let va := BitVec.ofNat 64 lo
  let acc : Access := { kind := kind }
  if peerBase ≤ lo ∧ lo < peerBase + 32 * 0x100000 ∧ t.gs ≤ (lo - peerBase) / 0x100000 then .error (protect 3 acc va)
  else match s.range (some t) va (hi - lo) acc with
    | .error r => .error r
    | .ok .global => .ok (.va va)
    | .ok (.window tm off) => .ok (.win tm off)
    | .ok .gone => .error (protect 3 acc va)

/-- An address a number of bytes further on. -/
def JobAddr.plus (a : JobAddr) (n : Nat) : JobAddr :=
  match a with
  | .va v => .va (v + BitVec.ofNat 64 n)
  | .win t o => .win t (o + n)

/-- The footprint of n bytes at an address. -/
def JobAddr.foot (a : JobAddr) (n : Nat) : Footprint :=
  match a with
  | .va v => { win := none, lo := v.toNat, hi := v.toNat + n }
  | .win t o => { win := some t, lo := o, hi := o + n }

/-! ## Building a job -/

/-- What the operands of an engine instruction ask for, once its records and hulls are checked: the source and the
destinations with their hulls' starts, the pairs of runs, and the bytes of a run. -/
structure Plan where
  src : JobAddr
  srcLo : Nat
  srcLen : Nat
  dsts : List (JobAddr × Option ClaspRef)
  dstLo : Nat
  dstLen : Nat
  /-- Absolute starts of the runs: source and destination. -/
  rows : List (Nat × Nat)
  run : Nat
  deriving DecidableEq, Repr

/-- The words of a plan for one destination. -/
def Plan.unitsFor (p : Plan) (dst : JobAddr) (credit : Option ClaspRef) : List JobUnit :=
  p.rows.flatMap (fun r => (List.range (p.run / 4)).map (fun i =>
    { src := p.src.plus (r.1 + 4 * i - p.srcLo), dst := dst.plus (r.2 + 4 * i - p.dstLo), credit := credit }))

def Plan.units (p : Plan) : List JobUnit := p.dsts.flatMap (fun d => p.unitsFor d.1 d.2)

/-- Clears presence bits for a job (R209). -/
def State.clearLines (s : State) (job : Nat) (l : List (Nat × Nat)) : State :=
  l.foldl (fun s e => s.modTeam e.1 (fun t =>
    { t with absent := t.absent.filter (fun a => a.line ≠ e.2) ++ [({ line := e.2, entry := job } : AbsentLine)] })) s

/-- The least copy-queue entry of a core that no job holds. -/
def State.freeEntry (s : State) (core : Nat) : Nat :=
  ((List.range 32).find? (fun e => !s.jobs.any (fun j => j.core = core && j.entry = e))).getD 0

/-- Whether the group has an access under way to some scratchpad lines, which must be performed first (R281). -/
def State.touching (s : State) (core slot : Nat) (l : List (Nat × Nat)) : Bool :=
  let hit := fun (sp : Space) (line : Nat) => match sp with | .scratch t => l.contains (t, line) | _ => false
  s.writes.any (fun w => w.core = core && w.slot = slot && hit w.space w.line)
    || s.loads.any (fun d => d.core = core && d.slot = slot && !d.sampled && d.lanes.any (fun x => hit x.space (x.addr / 128)))

/-- The fields of a job that its instruction gives; the rest stands in the state. -/
structure JobAsk where
  kind : JobKind
  clasp : Option ClaspRef
  kfield : BitVec 7
  snap : Option DWord := none
  units : List JobUnit
  reads : List Footprint
  writes : List Footprint
  lines : List (Nat × Nat)
  signal : Option JobAddr := none
  gate : Bool := false
  srcRuns : List (JobAddr × Nat) := []
  dstRuns : List (JobAddr × Nat) := []
  esize : Nat := 0
  deriving DecidableEq, Repr

/-- Accepts a job (R280, R281). -/
def State.accept (s : State) (p : Path) (t : Team) (a : JobAsk) : State :=
  let id := s.nextId
  let j : Job :=
    { id := id, core := p.core, slot := p.slot, gen := s.gen p.core p.slot, team := t.id, ctx := t.ctx
      entry := s.freeEntry p.core, kind := a.kind, clasp := a.clasp, kfield := a.kfield, snap := a.snap, units := a.units
      reads := a.reads, writes := a.writes, signal := a.signal, gate := a.gate, srcRuns := a.srcRuns, dstRuns := a.dstRuns
      esize := a.esize }
  { (s.clearLines id a.lines) with jobs := s.jobs ++ [j], nextId := id + 1 }

/-- The team of a path as a producer, with checks 2 and 3 of R280, and the clasp that the job binds. -/
def State.producer (s : State) (x : Exts) (p : Path) (absentUnit : Bool) : Except SvcRecord (Team × Option ClaspRef) :=
  match s.teamOf p.g with
  | none => .error { code := 0x06 }
  | some t =>
    if p.g.roleId ≠ t.producer then .error { code := 0x06 }
    else if t.copyq = 0 then .error { code := 0x05, sub := 4 }
    else if (Exts.fam x).getLsbD 0 then
      if absentUnit then .error { code := 0x05, sub := 4 } else .ok (t, none)
    else match (s.claspRef p.g (Exts.c x)).bind (fun r => (s.clasp? r).map (fun c => (r, c))) with
      | some (r, c) =>
        if !c.declared || absentUnit then .error { code := 0x05, sub := 4 } else .ok (t, some r)
      | none => .error { code := 0x05, sub := 4 }

/-- The source and destination records of a job, of equal ESIZE (R282 to R285). -/
def State.records (s : State) (t : Team) (a : DWord) : Except SvcRecord (BoxRec × BoxRec) :=
  match s.boxRec t.ctx (bits a.toNat 15 0) 0 with
  | .error r => .error r
  | .ok src =>
    match s.boxRec t.ctx (bits a.toNat 31 16) 1 with
    | .error r => .error r
    | .ok dst => if src.esize ≠ dst.esize then .error (shapeTrap 0 dst.idx) else .ok (src, dst)

/-- The records that an engine instruction has read, once its first checks have passed: the source's, and the destination's
where that is usable (R224, R280). -/
def State.readShapes (s : State) (x : Exts) (p : Path) (a : DWord) (absent : Bool := false) : State :=
  match s.producer x p absent with
  | .error _ => s
  | .ok (t, _) =>
    let src := bits a.toNat 15 0
    match s.boxRec t.ctx src 0 with
    | .error _ => s.readShape t.ctx src
    | .ok _ => (s.readShape t.ctx src).readShape t.ctx (bits a.toNat 31 16)

/-- Pairs a list of offsets with the absolute addresses of two records. -/
def rowsOf (src dst : BoxRec) (a b : List Int) : List (Nat × Nat) :=
  List.zipWith (fun x y => (((src.base : Int) + x).toNat, ((dst.base : Int) + y).toNat)) a b

/-- A plan over the box of the destination record. -/
def State.boxPlan (s : State) (t : Team) (src dst : BoxRec) (soff doff : Int) (clasp : Option ClaspRef)
    (live : Bool) : Except SvcRecord Plan :=
  let a := boxRuns dst src soff
  let b := boxRuns dst dst doff
  match src.hull a dst.run, dst.hull b dst.run with
  | .error r, _ => .error r
  | _, .error r => .error r
  | .ok (slo, shi), .ok (dlo, dhi) =>
    match s.jobRange t slo shi 9, s.jobRange t dlo dhi 0x0A with
    | .error r, _ => .error r
    | _, .error r => .error r
    | .ok sa, .ok da =>
      if !live then .error { code := 0x05, sub := 5, kind := 0x29 }
      else .ok { src := sa, srcLo := slo, srcLen := shi - slo, dsts := [(da, clasp)], dstLo := dlo, dstLen := dhi - dlo
                 rows := rowsOf src dst a b, run := dst.run }

/-- The request of a plan. -/
def Plan.ask (pl : Plan) (kind : JobKind) (clasp : Option ClaspRef) (k : BitVec 7) : JobAsk :=
  { kind := kind, clasp := clasp, kfield := k, units := pl.units
    reads := [pl.src.foot pl.srcLen], writes := pl.dsts.map (fun d => d.1.foot pl.dstLen), lines := unitLines pl.units }

/-- Issues a job: the first failure traps in every lane of L; the path waits while the team's entries are held or an
earlier access of the group to the lines is not performed. `lanes`: the lanes that complete with the job, beside those that
trap alone. -/
def State.issueJob (s : State) (p : Path) (lanes : Word) (r : Except SvcRecord (Team × JobAsk))
    (traps : List (Nat × SvcRecord) := []) : Option State :=
  match r with
  | .error e => some ((s.trapAll p e).retireFor [(0, e)])
  | .ok (t, a) =>
    if t.copyq ≤ (s.jobs.filter (fun j => j.team = t.id)).length || s.touching p.core p.slot a.lines then none
    else some ((s.accept p t a).finishIssue p.core p.slot p.next traps (lanes ||| p.off) p.next)

/-- Chains checks. -/
def andThen {α β : Type} (r : Except SvcRecord α) (f : α → Except SvcRecord β) : Except SvcRecord β :=
  match r with
  | .ok a => f a
  | .error e => .error e

/-- COPY (R282). -/
def execCopy (x : Exts) (a b : BitVec 7) (s : State) : Outcome State Fault Refusal :=
  s.pathOp x (fun s p =>
    let sa := p.g.rs a.toNat
    let sb := p.g.rs b.toNat
    let atSnap := (Exts.fam x).getLsbD 1
    let soff : Int := if atSnap then 0 else sb.toInt
    let doff : Int := (bits sa.toNat 63 32 : Nat)
    (s.readShapes x p sa).issueJob p p.L (andThen (s.producer x p false) (fun tc =>
      andThen (s.records tc.1 sa) (fun sd =>
        if soff % 4 ≠ 0 then .error (shapeTrap 0 sd.1.idx)
        else if doff % 4 ≠ 0 then .error (shapeTrap 0 sd.2.idx)
        else andThen (s.boxPlan tc.1 sd.1 sd.2 soff doff tc.2 (!atSnap || s.snapLive (s.ctxOf p.g) sb)) (fun pl =>
          .ok (tc.1, { pl.ask .copy tc.2 (Exts.c x) with snap := if atSnap then some sb else none }))))))

/-- The destinations of a COPY.MC: the window of each selected peer, with the clasp it credits (R283). -/
def State.mcDsts (s : State) (t : Team) (off len : Nat) (clasp : Option ClaspRef) :
    List Nat → Except SvcRecord (List (JobAddr × Option ClaspRef))
  | [] => .ok []
  | k :: r =>
    andThen (s.jobRange t (peerBase + 0x100000 * k + off) (peerBase + 0x100000 * k + off + len) 0x0A) (fun d =>
      andThen (s.mcDsts t off len clasp r) (fun l =>
        let c := match clasp, d with
          | some (.team _ i), .win tm _ => some (.team tm i)
          | c, _ => c
        .ok ((d, c) :: l)))

/-- COPY.MC (R283). -/
def execCopyMc (x : Exts) (a b : BitVec 7) (s : State) : Outcome State Fault Refusal :=
  s.pathOp x (fun s p =>
    let sa := p.g.rs a.toNat
    let soff := (p.g.rs b.toNat).toInt
    let peers := lanesOf ((sa >>> 32).setWidth 32)
    (s.readShapes x p sa).issueJob p p.L (andThen (s.producer x p false) (fun tc =>
      andThen (s.records tc.1 sa) (fun sd =>
        if soff % 4 ≠ 0 then .error (shapeTrap 0 sd.1.idx)
        else if peers.isEmpty ∨ sd.2.base < winBase ∨ winBase + tc.1.size ≤ sd.2.base then .error (shapeTrap 0 sd.2.idx)
        else
          let ra := boxRuns sd.2 sd.1 soff
          let rb := boxRuns sd.2 sd.2 0
          andThen (sd.1.hull ra sd.2.run) (fun sh =>
            andThen (sd.2.hull rb sd.2.run) (fun dh =>
              andThen (s.jobRange tc.1 sh.1 sh.2 9) (fun src =>
                if peers.any (fun k => tc.1.gs ≤ k) then .error { code := 0x05, sub := 3, kind := 0x0A }
                else andThen (s.mcDsts tc.1 (dh.1 - winBase) (dh.2 - dh.1) tc.2 peers) (fun dsts =>
                  let pl : Plan := { src := src, srcLo := sh.1, srcLen := sh.2 - sh.1, dsts := dsts, dstLo := dh.1
                                     dstLen := dh.2 - dh.1, rows := rowsOf sd.1 sd.2 ra rb, run := sd.2.run }
                  .ok (tc.1, pl.ask .mc tc.2 (Exts.c x))))))))))

/-- GATHER (R284): the checks of R280 up to its step 4; then each lane's index, whose failure is that lane's SHAPE alone;
then step 5 for the others, and the job of the lanes that remain. A DOFF that is not a multiple of 4 is SHAPE, as COPY has it
(R282, log 70). -/
def execGather (x : Exts) (a b : BitVec 7) (s : State) : Outcome State Fault Refusal :=
  s.pathOp x (fun s p =>
    if !p.g.hasRegs (vuse (Exts.uniB x) b 1) then some (s.trapAll p noReg)
    else
      let sa := p.g.rs a.toNat
      let doff : Int := (bits sa.toNat 63 32 : Nat)
      let idx := fun (j : Nat) => (p.g.srcB x b j).toNat
      let goodOf := fun (src : BoxRec) => (lanesOf p.L).filter (fun j => idx j < src.d1)
      let shapes := andThen (s.producer x p false) (fun tc =>
        andThen (s.records tc.1 sa) (fun sd =>
          if sd.1.d0 ≠ sd.2.d0 ∨ doff % 4 ≠ 0 then .error (shapeTrap 0 sd.2.idx)
          else
            andThen (sd.1.hull ((List.range sd.1.d1).map (fun (k : Nat) => (k : Int) * sd.1.s1)) sd.2.run) (fun sh =>
              andThen (sd.2.hull ((goodOf sd.1).map (fun (j : Nat) => doff + (j : Int) * sd.2.s1)) sd.2.run) (fun dh =>
                .ok (tc, sd, sh, dh)))))
      match shapes with
      | .error r => some (((s.readShapes x p sa).trapAll p r).retireFor [(0, r)])
      | .ok (tc, sd, sh, dh) =>
        let s := s.readShapes x p sa
        let good := goodOf sd.1
        let gm := maskList good
        let fail := fun (l : List (Nat × SvcRecord)) => some (s.finishIssue p.core p.slot p.next l p.off p.next)
        let bad := allLanes (p.L &&& ~~~gm) (shapeTrap 3 sd.1.idx)
        if gm = 0 then fail bad
        else match s.jobRange tc.1 sh.1 sh.2 9, s.jobRange tc.1 dh.1 dh.2 0x0A with
          | .ok src, .ok dst =>
            let pl : Plan := { src := src, srcLo := sh.1, srcLen := sh.2 - sh.1, dsts := [(dst, tc.2)], dstLo := dh.1
                               dstLen := dh.2 - dh.1
                               rows := rowsOf sd.1 sd.2 (good.map (fun j => (idx j : Int) * sd.1.s1))
                                 (good.map (fun (j : Nat) => doff + (j : Int) * sd.2.s1))
                               run := sd.2.run }
            s.issueJob p gm (.ok (tc.1, pl.ask .gather tc.2 (Exts.c x))) bad
          | .error r, _ | _, .error r =>
            fail ((lanesOf p.L).map (fun j => (j, if gm.getLsbD j then r else shapeTrap 3 sd.1.idx))))

/-- The combining operation of a COLL; none where OP is above 4 (R285). -/
def collOp (n : Nat) : Option (Option AtomOp) :=
  match n with
  | 0 => some none
  | 1 => some (some .addF)
  | 2 => some (some .add)
  | 3 => some (some .minF)
  | 4 => some (some .maxF)
  | _ => none

/-- COLL (R285). -/
def execColl (x : Exts) (a b : BitVec 7) (s : State) : Outcome State Fault Refusal :=
  s.pathOp x (fun s p =>
    let sa := p.g.rs a.toNat
    let sig := (p.g.rs b.toNat).toNat
    (s.readShapes x p sa).issueJob p p.L (andThen (s.producer x p false) (fun tc =>
      andThen (s.records tc.1 sa) (fun sd =>
        match collOp (bits sa.toNat 35 32) with
        | none => .error (shapeTrap 0 sd.2.idx)
        | some op =>
          if op.isSome ∧ sd.2.esize ≠ 32 then .error (shapeTrap 0 sd.2.idx)
          else andThen (s.boxPlan tc.1 sd.1 sd.2 0 0 tc.2 true) (fun pl =>
            let ask := pl.ask (.coll op) tc.2 (Exts.c x)
            if sig = 0 then .ok (tc.1, ask)
            else andThen (s.jobRange tc.1 sig (sig + 4) 0x0A) (fun w =>
              if sig % 4 ≠ 0 then
                .error { code := 0x03, kind := 0x0A, addr := BitVec.ofNat 64 sig, auxa := 4 }
              else .ok (tc.1, { ask with
                signal := some w, writes := ask.writes ++ [w.foot 4], lines := dedup (ask.lines ++ w.line) })))))))

/-- The media die is present: on the GKZ9-X alone (R1, R24). -/
def State.mediaDie (s : State) : Bool := s.boot.variant = .x && s.boot.media

/-- The media units present (R33): all 8 encoders or 4 decoders of the media die. -/
def State.mediaMask (s : State) (dec : Bool) : Nat := if !s.mediaDie then 0 else if dec then 0x0F else 0xFF

/-- Whether a gate holds a media job: of a grid clasp that the launch packet binds to a media port (R286, R336). -/
def State.mediaGate (s : State) (t : Team) (clasp : Option ClaspRef) : Bool :=
  match clasp, s.launch? t.launch with
  | some (.grid l i), some la => la.medmask.getLsbD i && (s.clasp? (.grid l i)).isSome
  | _, _ => false

/-- The runs of a record's box, as addresses behind the start of its hull (R279). -/
def BoxRec.runs (r : BoxRec) (hull : JobAddr) (lo : Nat) : List (JobAddr × Nat) :=
  (boxRuns r r 0).map (fun o => (hull.plus (((r.base : Int) + o).toNat - lo), r.run))

/-- The bytes that a record spans. -/
def BoxRec.span (r : BoxRec) : Except SvcRecord (Nat × Nat) := r.hull (boxRuns r r 0) r.run

/-- MEDIA (R286). ILLEGAL without a media die, in every issuing lane (R24). The frame record has ESIZE 8 or 16. -/
def execMedia (x : Exts) (a b : BitVec 7) (s : State) : Outcome State Fault Refusal :=
  if !s.mediaDie then
    match s.path x with
    | none => .fault .noIssue
    | some p => .next (s.illegal p)
  else s.pathOp x (fun s p =>
    let sa := p.g.rs a.toNat
    let blk := p.g.rs b.toNat
    let dec := bitN sa.toNat 35
    let unit := bits sa.toNat 34 32
    (s.readShapes x p sa (!bitN (s.mediaMask dec) unit)).issueJob p p.L (andThen (s.producer x p (!bitN (s.mediaMask dec) unit)) (fun tc =>
      andThen (s.boxRec tc.1.ctx (bits sa.toNat 15 0) 0) (fun src =>
        andThen (s.boxRec tc.1.ctx (bits sa.toNat 31 16) 1) (fun dst =>
          let fr := if dec then dst else src
          if fr.esize ≠ 8 ∧ fr.esize ≠ 16 then .error (shapeTrap 4 fr.idx)
          else andThen src.span (fun sh => andThen dst.span (fun dh =>
            andThen (s.jobRange tc.1 sh.1 sh.2 9) (fun sw => andThen (s.jobRange tc.1 dh.1 dh.2 0x0A) (fun dw =>
              andThen (s.jobRange tc.1 blk.toNat (blk.toNat + 64) 0x0B) (fun bw =>
                if blk.toNat % 64 ≠ 0 then .error { code := 0x03, kind := 0x0B, addr := blk, auxa := 64 }
                else
                  let rf := sw.foot (sh.2 - sh.1)
                  let wf := dw.foot (dh.2 - dh.1)
                  .ok (tc.1, { kind := .media dec unit blk, clasp := tc.2, kfield := Exts.c x, units := []
                               reads := [rf, bw.foot 64], writes := [wf, bw.foot 64]
                               lines := dedup (runLines (dst.runs dw dh.1) ++ footLines (bw.foot 64))
                               srcRuns := src.runs sw sh.1, dstRuns := dst.runs dw dh.1, esize := fr.esize
                               gate := s.mediaGate tc.1 tc.2 })))))))))))

end Sys2Proof.Machine
end

