-- ==== Sys2Proof/Machine/Jobs.lean ====
section
/-! DEFINITION. Jobs: what an accepted engine job does: its start, its deliveries, its completion and its faults (R209 to R212, R235, R281 to R288). -/

namespace Sys2Proof.Machine

open Host (Outcome)

/-! ## Presence (R209 to R211) -/

/-- The lines whose clearing job is `id` and on which it has nothing left to deliver become present. -/
def State.settle (s : State) (id : Nat) (left : List (Nat × Nat)) : State :=
  (s.mapAbsent (fun t l => l.filter (fun a => !(a.entry = id && !a.left && !left.contains (t, a.line))))).wakePresence

/-! ## One transfer -/

/-- What a transfer of a job meets. -/
inductive Transfer where
  | done (s : State)
  /-- The job stops (R287). -/
  | stop (r : SvcRecord)
  /-- The job fails with a clasp code (R287). -/
  | fatal (code : Nat)
  /-- No route to the device (R374). -/
  | unreachable (dev : Nat)
  /-- The home holds the write for want of version space (R243). -/
  | held
  deriving DecidableEq, Repr

/-- A place that a job reads or writes. -/
inductive JobPlace where
  | at (p : Place)
  | gone
  | stop (r : SvcRecord)
  | unreachable (dev : Nat)
  deriving DecidableEq, Repr

/-- The rights of a job's accesses. -/
def Access.jobRead : Access := { r := true, kind := 9 }
def Access.jobWrite : Access := { w := true, kind := 0x0A }

/-- Resolves an address of a job (R205, R281, R371). -/
def State.jobPlace (s : State) (j : Job) (a : JobAddr) (acc : Access) : JobPlace :=
  match a with
  | .win t o => if (s.team? t).isSome then .at { space := .scratch t, addr := o } else .gone
  | .va v =>
    match s.translateCtx (.cluster (j.core / 32)) j.ctx v acc with
    | .error r => .stop r
    | .ok p =>
      match p.space with
      | .peer d =>
        if !s.routeTo d then .unreachable d
        else if j.snap.isSome && p.cameo then .stop (protect 3 acc v)
        else .at p
      | .mem => if (if acc.r then s.readFails p.addr else s.retiredAt p.addr) then .stop (memErr acc v p.addr) else .at p
      | .scratch _ => .at p

/-- Whether a write to a line must be held at its home: it finds no room for the version it needs, or stands behind one
that is held (R243). -/
def State.mustHold (s : State) (ctx : Word) (p : Place) : Bool :=
  p.space = .mem && (s.heldAt (p.addr / 128)
    || (p.cameo && s.mustPreserve ctx (p.addr / 128) && !(s.context ctx).room))

/-- A write by a unit of the device into a place, stamping a cameo line of a context (R238, R240), or held (R243). -/
def State.unitWrite (s : State) (ctx : Word) (p : Place) (l : List Byte) : State :=
  match p.space with
  | .mem =>
    let line := p.addr / 128
    if s.mustHold ctx p then s.holdWrite ctx line p.cameo (number p.addr l)
    else if p.cameo then ((s.preserve ctx line).homeWriteLine none line (number p.addr l)).stampLine line
    else s.homeWriteLine none line (number p.addr l)
  | sp => (s.put sp (number p.addr l)).fire

/-- A write of a job into a place: what stands in its way, or its effect. -/
def State.jobWrite (s : State) (j : Job) (p : JobPlace) (f : Word → Word) : Transfer :=
  match p with
  | .stop r => .stop r
  | .unreachable d => .unreachable d
  | .gone => .done s
  | .at p =>
    let ctx := j.ctx.ctxid
    if p.cameo && p.space = .mem && (s.context ctx).full then .fatal 4
    else if s.mustHold ctx p then .held
    else
      let s := if p.space = .mem then s.recall (p.addr / 128) else s
      .done (s.unitWrite ctx p (leBytes 4 (f (s.word p.space p.addr)).toNat))

/-- The word that a job reads at a place; at its snapshot for COPY.C (R241, R282). -/
def State.jobWord (s : State) (j : Job) (p : Place) : Word :=
  match j.snap with
  | some n => if p.cameo && p.space = .mem then BitVec.ofNat 32 (leNat (s.readAt n [] p.addr 4)) else s.word p.space p.addr
  | none => s.word p.space p.addr

/-- The combining operation of a job's writes. -/
def Job.op (j : Job) : Option AtomOp :=
  match j.kind with
  | .coll op => op
  | _ => none

/-- Whether a job reads a scratchpad line that a failed copy has left absent: it fails (R287). -/
def State.leftAt (s : State) (p : Place) : Bool :=
  match p.space with
  | .scratch t => s.lineAbsent (t, p.addr / 128) true
  | _ => false

/-- Moves one word (R281). -/
def State.transfer (s : State) (j : Job) (u : JobUnit) : Transfer :=
  match s.jobPlace j u.src .jobRead with
  | .stop r => .stop r
  | .unreachable d => .unreachable d
  | .gone => .fatal 1
  | .at p =>
    if s.leftAt p then .fatal 1
    else
      let s := if p.space = .mem then (s.recall (p.addr / 128)).noteReads [p.addr] else s
      let v := s.jobWord j p
      s.jobWrite j (s.jobPlace j u.dst .jobWrite) (fun old => match j.op with
        | some op => atomNew op old v 0
        | none => v)

/-- The signal of a COLL: RED.M.ADD of 1 (R285). -/
def State.signalWrite (s : State) (j : Job) (a : JobAddr) : Transfer :=
  s.jobWrite j (s.jobPlace j a .jobWrite) (fun old => old + 1)

/-- The next transfer of a job: its first word left, or its signal. -/
def State.nextTransfer (s : State) (j : Job) : Transfer :=
  match j.units, j.signal with
  | u :: _, _ => s.transfer j u
  | [], some a => s.signalWrite j a
  | [], none => .done s

/-! ## Credits -/

/-- Credits bytes to a clasp; a group clasp whose group has retired takes none (R288). -/
def State.creditClasp (s : State) (j : Job) (c : Option ClaspRef) (n : Nat) : State :=
  match c with
  | none => s
  | some r =>
    let stale := match r with
      | .group co sl _ => s.gen co sl ≠ j.gen || (s.group? co sl).isNone
      | _ => false
    if stale then s else s.claspEvent r (fun c => c.credit n)

/-- The job of an id. -/
def State.job? (s : State) (id : Nat) : Option Job := s.jobs.find? (fun j => j.id = id)

/-- Changes a job. -/
def State.modJob (s : State) (id : Nat) (f : Job → Job) : State :=
  { s with jobs := s.jobs.map (fun j => if j.id = id then f j else j) }

/-! ## Order between jobs (R235) -/

/-- Whether two footprints share a byte. -/
def Footprint.meets (a b : Footprint) : Bool := a.win = b.win && a.lo < b.hi && b.lo < a.hi

/-- Whether a later job must wait for an earlier one: overlapping footprints of one context, one of them written. -/
def Job.after (j e : Job) : Bool :=
  j.ctx.ctxid = e.ctx.ctxid
    && (e.writes.any (fun a => (j.reads ++ j.writes).any a.meets) || e.reads.any (fun a => j.writes.any a.meets))

/-- Whether the gate of a media job is open (R286). -/
def State.gateOpen (s : State) (j : Job) : Bool :=
  !j.gate || (match j.clasp.bind s.clasp? with | some c => c.failed | none => true)

/-- Whether a team whose window a job reads or writes stands saved: the job waits for its return (R288). -/
def State.windowSaved (s : State) (j : Job) : Bool :=
  (j.reads ++ j.writes).any (fun f => match f.win with
    | some t => s.savedTeams.any (fun u => u.team.id = t)
    | none => false)

/-- The accepted jobs, those of saved teams among them (R288), that are not complete. -/
def State.allJobs (s : State) : List Job := s.savedTeams.flatMap SavedTeam.jobs ++ s.jobs

/-- Whether a job may start: every job accepted before it whose footprint it overlaps is complete (R235). -/
def State.canStart (s : State) (j : Job) : Bool :=
  !j.started && s.gateOpen j && !s.windowSaved j && s.allJobs.all (fun e => j.id ≤ e.id || !j.after e)

/-- The jobs that are held unstarted, in the order of their acceptance: a MEDIA job by its gate (R288), and a job by one that
is held before it, or by a window that stands saved (log 76). -/
def State.heldJobs (s : State) : List Job :=
  (sortBy (fun (a b : Job) => a.id ≤ b.id) s.allJobs).foldl (fun l j =>
    if !j.started && (!s.gateOpen j || s.windowSaved j || l.any j.after || !s.jobs.any (fun e => e.id = j.id))
    then l ++ [j] else l) []

/-- Whether a job is held unstarted: it is saved so (R288). -/
def State.jobHeld (s : State) (j : Job) : Bool := s.heldJobs.any (fun e => e.id = j.id)

/-- JOB_START (R235). -/
def execJobStart (job : Nat) (s : State) : Outcome State Fault Refusal :=
  match s.job? job with
  | some j => if s.canStart j then .next (s.modJob job (fun j => { j with started := true, born := s.time })) else .next s
  | none => .next s

/-- The local lines that a job reaches by some addresses. -/
def State.jobLines (s : State) (j : Job) (l : List (JobAddr × Access)) : List Nat :=
  dedup (l.filterMap (fun e => match s.jobPlace j e.1 e.2 with
    | .at p => if p.space = .mem then some (p.addr / 128) else none
    | _ => none))

/-- Whether the arbiters let a job's accesses be served in this step (R218). -/
def State.jobServed (s : State) (j : Job) (l : List (JobAddr × Access)) : Bool :=
  s.askServed (jobSrc j.core) 8 j.born j.id (s.jobLines j l)

/-- What a job's step leaves when other requests come first: its own wait in the queues of their slices. -/
def State.jobAsks (s : State) (j : Job) (l : List (JobAddr × Access)) : State :=
  if s.jobServed j l then s else s.modJob j.id (fun j => { j with asked := s.jobLines j l })

/-- The walks of a job's accesses through its cluster's TLB (R224, R328). -/
def State.jobWalked (s : State) (j : Job) (l : List (JobAddr × Access)) : State :=
  l.foldl (fun s e => match e.1 with
    | .va v => s.walked (.cluster (j.core / 32)) j.ctx v
    | .win .. => s) s

/-- The accesses of one word. -/
def JobUnit.accesses (u : JobUnit) : List (JobAddr × Access) := [(u.src, Access.jobRead), (u.dst, Access.jobWrite)]

/-- COPY_DELIVERY: a started job delivers one of the words it has left, in no promised order (R209, R281). -/
def execCopyDelivery (job unit : Nat) (s : State) : Outcome State Fault Refusal :=
  match s.job? job with
  | none => .next s
  | some j =>
    match j.units[unit]? with
    | none => .next s
    | some u =>
      if !j.started || j.stopped then .next s
      else if !s.jobServed j u.accesses then .next (s.jobAsks j u.accesses)
      else match (s.jobWalked j u.accesses).transfer j u with
        | .done s' =>
          let rest := j.units.eraseIdx unit
          let s' := s'.modJob job (fun j => { j with units := rest, born := s.time, asked := [] })
          .next ((s'.settle job { j with units := rest }.linesLeft).creditClasp j u.credit 4)
        | _ => .next s

/-! ## Media (R286) -/

/-- A control block is valid for a frame record's ESIZE: 16 goes with HEVC Main 10, 8 with the rest. -/
def mediaBlockOk (b : List Byte) (esize : Nat) : Bool :=
  let codec := field b 0 2
  let profile := field b 2 2
  let w := field b 4 2
  let h := field b 6 2
  (codec = 1 && profile ≤ 1 || codec = 2 && (profile = 1 || profile = 2) && field b 9 1 ≤ 51)
    && 64 ≤ w && w ≤ 4096 && w % 8 = 0 && 64 ≤ h && h ≤ 4096 && h % 8 = 0 && field b 8 1 ≤ 1 && field b 10 2 ≤ 15
    && (esize = 16) == (codec = 2 && profile = 2)

/-- A footprint as an address. -/
def Footprint.addr (f : Footprint) : JobAddr :=
  match f.win with
  | some t => .win t f.lo
  | none => .va (BitVec.ofNat 64 f.lo)

/-- The words of a run, as addresses, and of a record's runs. -/
def runWords (r : JobAddr × Nat) : List JobAddr := (List.range ((r.2 + 3) / 4)).map (fun i => r.1.plus (4 * i))
def runsWords (l : List (JobAddr × Nat)) : List JobAddr := l.flatMap runWords

/-- Reads some words of a job; none where one cannot be read now. -/
def State.readWords (s : State) (j : Job) : List JobAddr → Option (List Byte)
  | [] => some []
  | a :: r =>
    match s.jobPlace j a .jobRead with
    | .at p =>
      if s.leftAt p then none else
      let s' := if p.space = .mem then s.recall (p.addr / 128) else s
      match s.readWords j r with
      | some l => some (leBytes 4 (s'.jobWord j p).toNat ++ l)
      | none => none
    | _ => none

/-- Writes some words of a job, or says what stands in the way. -/
def State.writeWords (s : State) (j : Job) : List (JobAddr × Word) → Transfer
  | [] => .done s
  | (a, v) :: r =>
    match s.jobWrite j (s.jobPlace j a .jobWrite) (fun _ => v) with
    | .done s => s.writeWords j r
    | t => t

/-- Bytes as words; zero bytes fill the last one (log 15). -/
def bytesWords (l : List Byte) : List Word :=
  (chunksOf 4 ((l.length + 3) / 4) l).map (fun b => BitVec.ofNat 32 (leNat b))

/-- The result of a media job: STATUS, the output that fits its destination, and OUTBYTES. What a unit computes is
Config.mediaResult (log 15), of a control block whose reserved bytes are ignored (R3). -/
def mediaOutcome (block src : List Byte) (esize room : Nat) : Nat × List Byte :=
  if !mediaBlockOk block esize then (4, [])
  else
    let (st, out) := Config.mediaResult (block.take 24 ++ List.replicate 40 0) src
    if room < out.length then (3, out.take room) else (st.toNat, out)

/-- The words that a media job reads: its source record's, and its control block's. -/
def Job.mediaReads (j : Job) (block : JobAddr) : List JobAddr := runsWords j.srcRuns ++ runWords (block, 64)

/-- The homes have read some words for a job: their lines are recalled, and the errors of that logged (R224, R328). -/
def State.recallJob (s : State) (j : Job) (l : List JobAddr) : State :=
  let here := l.filterMap (fun a => match s.jobPlace j a .jobRead with
    | .at p => if p.space = .mem then some p.addr else none
    | _ => none)
  (s.recallLines (dedup (here.map (· / 128)))).noteReads here

/-- A media job's reads and writes along the runs of its records, STATUS and OUTBYTES written last, and its credit. -/
def State.mediaRun (s : State) (j : Job) (block : JobAddr) : Transfer × Nat :=
  let s := s.recallJob j (j.mediaReads block)
  let words := runsWords j.srcRuns
  match s.readWords j words, s.readWords j (runWords (block, 64)) with
  | some src, some blk =>
    let dst := runsWords j.dstRuns
    let (st, out) := mediaOutcome blk src j.esize (4 * dst.length)
    let last := [(block.plus 16, BitVec.ofNat 32 out.length), (block.plus 20, BitVec.ofNat 32 st)]
    (s.writeWords j (dst.zip (bytesWords out) ++ last), if st = 4 then 0 else out.length)
  | _, _ =>
    let bad := (j.mediaReads block).findSome? (fun a => match s.jobPlace j a .jobRead with
      | .stop r => some (Transfer.stop r)
      | .unreachable d => some (.unreachable d)
      | .gone => some (.fatal 1)
      | .at p => if s.leftAt p then some (.fatal 1) else none)
    (bad.getD (.done s), 0)

/-- The control block of a media job: its second write (R286). -/
def Job.block (j : Job) : JobAddr := match j.writes with | _ :: b :: _ => b.addr | _ => .va 0

/-! ## The end of a job -/

/-- What the end of a job meets: its media run, its signal, or nothing. -/
def State.finale (s : State) (j : Job) : Transfer × Nat :=
  match j.kind with
  | .media .. => s.mediaRun j j.block
  | _ => (s.nextTransfer { j with units := [] }, 0)

/-- The accesses of a job's next step: of its first word left, of its media run, of its signal. -/
def Job.nextAccesses (j : Job) : List (JobAddr × Access) :=
  match j.kind, j.units, j.signal with
  | .media .., _, _ => (j.mediaReads j.block).map (fun a => (a, Access.jobRead))
      ++ (runsWords j.dstRuns).map (fun a => (a, Access.jobWrite))
  | _, u :: _, _ => u.accesses
  | _, [], some a => [(a, Access.jobWrite)]
  | _, [], none => []

/-- Removes a job. -/
def State.dropJob (s : State) (id : Nat) : State := { s with jobs := s.jobs.filter (fun j => j.id ≠ id) }

/-- JOB_COMPLETE: a started job that has delivered everything makes its signal, and ends (R281, R285, R286). -/
def execJobComplete (job : Nat) (s : State) : Outcome State Fault Refusal :=
  match s.job? job with
  | none => .next s
  | some j =>
    if !j.started || j.stopped || !j.units.isEmpty then .next s
    else if !s.jobServed j j.nextAccesses then .next (s.jobAsks j j.nextAccesses)
    else match (s.jobWalked j j.nextAccesses).finale j with
      | (.done s', n) =>
        let s' := (s'.dropJob job).settle job []
        .next (if n = 0 then s' else s'.creditClasp j j.clasp n)
      | _ => .next s

/-- The record of a stopped or failed job at its copy-queue entry (R306, R314). -/
def State.jobRecord (s : State) (j : Job) (sub : Byte) (addr : DWord) (kind : Byte) : State :=
  let cl := j.core / 32
  let i := 16384 + 32 * (j.core % 32) + j.entry
  let lin := match s.team? j.team with | some t => t.lin | none => 0
  let r : SvcRecord :=
    { code := 0x0A, sub := sub, kind := kind, addr := addr, teamLin := BitVec.ofNat 32 lin, ctxid := j.ctx.ctxid
      auxa := BitVec.ofNat 64 j.entry, auxb := j.kfield.setWidth 64 }
  let s := s.deviceWrite ((s.tu cl).sqBase.toNat + 64 * i) (recordBytes j.core j.slot 0 j.gen r)
  s.modTu cl (fun t => { t with sqCount := t.sqCount + 1, unread := t.unread.filter (· ≠ i) ++ [i] })

/-- A job stops, and its fault goes to the signet core; lines in reach of a clasp of it that has failed already are left
absent (R211). -/
def State.stopJob (s : State) (j : Job) (addr : DWord) (kind : Byte) : State :=
  let s := (s.modJob j.id (fun j => { j with stopped := true, asked := [] })).jobRecord j 1 addr kind
  (j.bound.filter (fun r => match s.clasp? r with | some c => c.failed | none => false)).foldl State.failBound s

/-- A job fails (R287): it delivers nothing more, its clasps enter FAILED, the lines it has not delivered stay absent. -/
def State.failJob (s : State) (j : Job) (code : Nat) : State :=
  let s := (s.dropJob j.id).leaveLines j.id j.linesLeft
  let s := j.bound.foldl (fun s r => s.claspEvent r (fun c => c.fail code)) s
  s.wakePresence

/-- What a started job's next step meets. -/
def State.meets (s : State) (j : Job) : Transfer := if j.units.isEmpty then (s.finale j).1 else s.nextTransfer j

/-- Where a job reads local memory next, for a lasting error: a media job, at the first such word of its records. -/
def State.nextRead (s : State) (j : Job) : Option Place :=
  let reads := match j.kind, j.units with
    | .media .., _ => j.mediaReads j.block
    | _, u :: _ => [u.src]
    | _, [] => []
  reads.findSome? (fun a => match s.jobPlace j a .jobRead with
    | .at p => if p.space = .mem then some p else none
    | _ => none)

/-- The peer device that a job's next transfer reaches, where one does not acknowledge it (R374). -/
def State.nextPeer (s : State) (j : Job) : Option Nat :=
  j.nextAccesses.findSome? (fun e => match s.jobPlace j e.1 e.2 with
    | .at { space := .peer d, .. } => some d
    | .unreachable d => some d
    | _ => none)

/-- JOB_FAULT (R287, R328, R374). -/
def execJobFault (job : Nat) (why : JobTrouble) (s : State) : Outcome State Fault Refusal :=
  match s.job? job with
  | none => .next s
  | some j =>
    if !j.started || j.stopped then .next s
    else match why with
      | .translation => match s.meets j with
        | .stop r => .next (((s.jobWalked j j.nextAccesses).retireFor [(0, r)]).stopJob j r.addr r.kind)
        | _ => .next s
      | .memory => match s.nextRead j with
        | some p => .next ((s.retireFrame p.addr).stopJob j 0 9)
        | none => .next s
      | .unreachable => match s.meets j with
        | .stop _ | .fatal _ => .next s
        | _ => match s.nextPeer j with
          | some d => if !s.overdue d j.born then .next s else .next ((s.elog 5 noUnit 0).stopJob j (BitVec.ofNat 64 d) 8)
          | none => .next s
      | .fatal => match s.meets j with
        | .fatal code => .next ((s.failJob j code).jobRecord j 2 0 8)
        | _ => .next s

end Sys2Proof.Machine
end

