-- ==== Sys2Proof/Machine/Pools.lean ====
section
/-! DEFINITION. Pools: register pools and claims (R54 to R56, R297) and regrouping (R57, R298). -/

namespace Sys2Proof.Machine

open Host (Outcome)

/-! ## Claims -/

/-- Whether a lane is parked on a claim. -/
def Lane.claiming (l : Lane) : Bool :=
  match l.st with
  | .park (.claim _) => true
  | _ => false

/-- Whether a lane of the path that issued the RCLAIM. -/
def Lane.ownClaim (l : Lane) : Bool := l.st = .park (.claim true)

/-- PROTECT with SUB 4. -/
def protect4 : SvcRecord := { code := 0x05, sub := 4 }

/-- RCLAIM (R55): the issuing path parks at the RCLAIM, every other RUN lane of the group at its own PC. -/
def execRclaim (x : Exts) (n : BitVec 7) (s : State) : Outcome State Fault Refusal :=
  s.pathOp x (fun s p =>
    if 128 < p.g.alloc + n.toNat then some (s.trapAll p protect4)
    else
      let others := p.g.mask Lane.running &&& ~~~p.I
      let s := s.park p.core p.slot p.I p.next (fun _ => .claim true)
      let s := s.park p.core p.slot others p.next (fun _ => .claim false)
      match p.g.team with
      | some t => some (s.modTeam t (fun t => { t with claims := t.claims ++ [(p.slot, n.toNat)] }))
      | none => some s)

/-- A load of the group that is yet to write a register from `a` on (R55). -/
def State.loadsInto (s : State) (core slot a : Nat) : Bool :=
  s.loads.any (fun l => l.core = core && l.slot = slot && a < l.dest + widthRegs l.width)

/-- RREL (R55). -/
def execRrel (x : Exts) (n : BitVec 7) (s : State) : Outcome State Fault Refusal :=
  s.pathOp x (fun s p =>
    if p.g.alloc ≤ n.toNat then some (s.trapAll p protect4)
    else
      let keep := p.g.alloc - n.toNat
      if s.loadsInto p.core p.slot (4 * keep) then none
      else
        let s := s.modGroup p.core p.slot (fun g => { g with alloc := keep, v := skeep g.v (fun k => k < 128 * keep) })
        let s := match p.g.team with
          | some t => s.modTeam t (fun t => { t with pool := t.pool + n.toNat })
          | none => s
        some (s.pathDone p))

/-- CLAIM_GRANT (R55): the oldest pending claim of a team, once its pool holds enough; none while the core has stopped for
the team (R61). -/
def execClaimGrant (team : Nat) (s : State) : Outcome State Fault Refusal :=
  match s.team? team with
  | none => .next s
  | some t =>
    match t.claims with
    | [] => .next s
    | (slot, n) :: rest =>
      if t.pool < n then .next s
      else match s.group? t.core slot with
        | none => .next s
        | some g =>
          if s.isStopped g then .next s else
          let s := s.modTeam team (fun t => { t with claims := rest, pool := t.pool - n })
          let s := s.modGroup t.core slot (fun g => { g with alloc := g.alloc + n })
          let own := g.mask Lane.ownClaim
          let s := s.actRetry t.core slot (g.mask (fun l => l.claiming && !l.ownClaim))
          .next (s.completeParked t.core slot own)

/-- A group is parked on its pending claim (R56). -/
def Team.stuck (t : Team) (g : Group) : Bool :=
  t.claims.any (fun c => c.1 = g.slot) && g.lanes.all (fun l => !l.live || l.claiming)

/-- The groups of a team. -/
def State.groupsOf (s : State) (team : Nat) : List Group := s.groups.filter (fun g => g.team = some team)

/-- Whether the team's oldest claim can be granted (R55). -/
def Team.grantable (t : Team) : Bool := match t.claims with | c :: _ => decide (c.2 ≤ t.pool) | [] => false

/-- Claim deadlock (R56); a claim that can be granted is granted and makes none. -/
def State.claimDeadlock (s : State) (t : Team) : Bool :=
  let gs := s.groupsOf t.id
  !gs.isEmpty && gs.all t.stuck && !t.grantable && !gs.any s.isStopped

/-- The address after the instruction at a PC. -/
def State.afterAt (s : State) (g : Group) (pc : DWord) : DWord :=
  match s.peek g pc with
  | some (_, ws) => pc + BitVec.ofNat 64 (4 * ws.length)
  | none => pc + 4

/-- CLAIMDL (R56): every claim of the team is withdrawn; the lanes of the claiming paths trap at the RCLAIM (SUB 0), the
others at their own PCs (SUB 1). -/
def execClaimdl (team : Nat) (s : State) : Outcome State Fault Refusal :=
  match s.team? team with
  | none => .next s
  | some t =>
    if !s.claimDeadlock t then .next s
    else
      let gs := s.groupsOf team
      let s := s.modTeam team (fun t => { t with claims := [] })
      .next (gs.foldl (fun s g =>
        let n := match t.claims.find? (fun c => c.1 = g.slot) with | some c => c.2 | none => 0
        let rec' := fun (sub : Byte) => ({ code := 0x07, sub := sub, auxa := BitVec.ofNat 64 n
                                           auxb := BitVec.ofNat 64 t.pool } : SvcRecord)
        let own := g.mask Lane.ownClaim
        let others := lanesOf (g.mask (fun l => l.claiming && !l.ownClaim))
        let s := s.raiseParked g (allLanes own (rec' 0))
        others.foldl (fun s j => s.raise g.core g.slot (s.afterAt g (g.lane j).pc) [(j, rec' 1)]) s) s)

/-! ## Regrouping (R57) -/

/-- REGROUP: every issuing lane parks with its key, whatever its guard; one with a false guard whose Va does not exist takes
part with key 0 (log 67). The keeper group has no role, so its lanes stay parked (log 34). -/
def execRegroup (x : Exts) (a b : BitVec 7) (s : State) : Outcome State Fault Refusal :=
  match s.path x with
  | none => .fault .noIssue
  | some p =>
    let ok := p.g.hasRegs (vuse (Exts.uniA x) a 1)
    let s' := if ok then s else s.raise p.core p.slot p.next (allLanes p.L noReg)
    .next (s'.park p.core p.slot (if ok then p.I else p.off) p.next
      (fun j => .regroup ((p.g.srcA x a j).setWidth 16) b.toNat))

/-- A participating lane: its group, position, key and the register of the live mask. -/
structure Mover where
  g : Group
  j : Nat
  key : BitVec 16
  sreg : Nat
  deriving DecidableEq, Repr

/-- The lanes of a group parked at REGROUP. -/
def Group.movers (g : Group) : List Mover :=
  (List.range 32).filterMap (fun j => match (g.lane j).st with
    | .park (.regroup k r) => some { g := g, j := j, key := k, sreg := r }
    | _ => none)

/-- The groups of a role, in ascending GROUPID. -/
def State.roleGroups (s : State) (team role : Nat) : List Group :=
  sortBy (fun (a b : Group) => a.groupId ≤ b.groupId)
    ((s.groupsOf team).filter (fun g => g.roleId = role && !g.finished))

/-- Whether every live lane of a group is parked at REGROUP. -/
def Group.regrouping (g : Group) : Bool := g.lanes.all (fun l => !l.live || (match l.st with | .park (.regroup ..) => true | _ => false))

/-- The absolute registers that move with a lane. -/
def movedRegs (g : Group) (mask : DWord) : List Nat :=
  ((List.range 64).filter (fun i => mask.getLsbD i && g.wbase + i < 4 * g.alloc)).map (fun i => g.wbase + i)

/-- A role's groups after the lanes have been placed: group number k takes the lanes from 32k on. Those that one issue has
parked are marked as its class where they stand now (R305). -/
def placeLanes (regs : List Nat) (k : Nat) (g : Group) (ms : List Mover) : Group :=
  let mine := (ms.drop (32 * k)).take 32
  let lanes := (List.range 32).map (fun j => match mine[j]? with
    | some m => { m.g.lane m.j with
        wait := 0
        issue := maskOf (fun i => match mine[i]? with
          | some n => n.g.slot = m.g.slot && (n.g.lane n.j).issue = (m.g.lane m.j).issue
          | none => false) }
    | none => {})
  let cells := (number 0 mine).flatMap (fun e => regs.map (fun r => (32 * r + e.1, e.2.g.rv r e.2.j)))
  { g with lanes := lanes, v := ssets [] cells }

/-- REGROUP_EXECUTE (R57): once every group of the role has all its live lanes at REGROUP, the loads that write them have
returned, and no core has stopped for them (R61). The live mask is in the register that the lowest lane of the
lowest-numbered group names (log 67). -/
def execRegroupExecute (team role : Nat) (s : State) : Outcome State Fault Refusal :=
  let gs := s.roleGroups team role
  match gs with
  | [] => .next s
  | first :: _ =>
    if !gs.all Group.regrouping || gs.any (fun g => !s.loadsDone g.core g.slot || s.isStopped g) then .next s
    else
      let ms := gs.flatMap Group.movers
      let trapped := fun (r : SvcRecord) => gs.foldl (fun s g =>
        s.raiseParked g (g.movers.map (fun m => (m.j, r)))) s
      if gs.any (fun g => g.wbase ≠ first.wbase || g.alloc ≠ first.alloc) then .next (trapped protect4)
      else if gs.any (fun g => g.txn.isSome) then .next (trapped { code := 0x0D, kind := 0x10 })
      else
        let mask := match first.movers with | m :: _ => first.rs m.sreg | [] => 0
        let regs := movedRegs first mask
        let sorted := sortBy (fun (a b : Mover) => a.key ≤ b.key) ms
        let s := (number 0 gs).foldl (fun s e =>
          s.modGroup e.2.core e.2.slot (fun g => placeLanes regs e.1 g sorted)) s
        .next (gs.foldl (fun s g =>
          match s.group? g.core g.slot with
          | none => s
          | some h => (s.completeParked g.core g.slot (h.mask Lane.live)).retireGroup g.core g.slot) s)

end Sys2Proof.Machine
end

