-- ==== Sys2Proof/Machine/System.lean ====
section
/-! DEFINITION. System: SYSC, TRAP, BKPT, the keeper's MBXRD, LANERES, TLBINV and ERET, and the capability records
(R31 to R34, R134, R301, R308 to R312, R323, R329, R330). -/

namespace Sys2Proof.Machine

open Host (Outcome)

/-! ## System calls and breakpoints -/

/-- The checks of SYSC in one lane (R309): the physical address of the argument block, or the trap. Where the address lies
decides the first check alone; an aligned block leaves no range that its address lies in. -/
def State.syscCheck (s : State) (p : Path) (va : DWord) : Except SvcRecord Nat :=
  let t := s.teamOf p.g
  let acc : Access := { kind := 3 }
  match s.range t va 1 acc with
  | .error r => .error r
  | .ok .global =>
    let off : Bool := match s.translate p.core t va acc with
      | .ok pl => pl.cameo || decide (pl.space ≠ .mem)
      | .error _ => false
    if off then .error (protect 3 acc va)
    else if va.toNat % 64 ≠ 0 then .error { code := 0x03, kind := 3, addr := va, auxa := 64 }
    else match s.translate p.core t va .load with
      | .error r => .error { r with kind := 3 }
      | .ok _ =>
        match s.translate p.core t va .store with
        | .error r => .error { r with kind := 3 }
        | .ok pl => match s.badSector pl.addr 64 with
          | some a => .error (memErr acc (va + BitVec.ofNat 64 (a - pl.addr)) a)
          | none => .ok pl.addr
  | .ok _ => .error (protect 3 acc va)

/-- The record of one lane of a SYSC: its call number, its block, and the lanes of its class. -/
def syscRecord (areg : Nat) (arg : Word) (va : DWord) (blk : List Byte) (cls : Word) : SvcRecord :=
  { code := 0x11, areg := BitVec.ofNat 16 areg, arg := arg, addr := va, mates := cls
    auxa := BitVec.ofNat 64 (field blk 0 8), auxb := BitVec.ofNat 64 (field blk 8 8) }

/-- SYSC (R308, R309); PRIV in the keeper. -/
def execSysc (x : Exts) (a b : BitVec 7) (s : State) : Outcome State Fault Refusal :=
  match s.path x with
  | none => .fault .noIssue
  | some p =>
    if p.g.keeper then .next (s.priv p)
    else if p.L ≠ 0 ∧ !p.g.hasRegs (vuse false a 1 ++ vuse false b 2) then .next (s.trapAll p noReg)
    else
      let va := fun (j : Nat) => p.g.rv2 (p.g.wbase + b.toNat) j
      let num := fun (j : Nat) => p.g.rv (p.g.wbase + a.toNat) j
      let chk := fun (j : Nat) => s.syscCheck p (va j)
      let ok := (lanesOf p.L).filterMap (fun j => match chk j with | .ok pa => some (j, pa) | .error _ => none)
      let lines := dedup (ok.map (fun e => e.2 / 128))
      if (!ok.isEmpty && !s.fenceReady p.core p.slot 2 3) || lines.any (s.hidden p.core p.slot .mem) then .next s
      else if !s.issueServed p.core p.slot lines then .next (s.ask p.core p.slot)
      else
        let s := s.walkLanes p (lanesOf p.L) 1 va
        let s' := ((s.answered p.core p.slot).recallLines lines).noteReads (ok.flatMap (fun e => [e.2, e.2 + 32]))
        let calls := ok.map (fun e => (e.1, num e.1, s'.bytes .mem e.2 64))
        let recs := (lanesOf p.L).filterMap (fun j => match chk j with
          | .error r => some (j, r)
          | .ok _ => (calls.find? (fun c => c.1 = j)).map (fun c =>
              (j, syscRecord (p.g.wbase + a.toNat) c.2.1 (va j) c.2.2
                (maskOf (fun i => calls.any (fun o => o.1 = i && o.2.1 = c.2.1 && o.2.2 = c.2.2))))))
        .next ((s'.finishIssue p.core p.slot p.next recs p.off p.next).retireFor recs)

/-- TRAP n and BKPT n: each lane of L parks with its record (R330). -/
def State.software (s : State) (x : Exts) (code : Byte) (n : BitVec 7) : Outcome State Fault Refusal :=
  match s.path x with
  | none => .fault .noIssue
  | some p => .next (s.trapAll p { code := code, arg := n.setWidth 32 })

def execTrap (x : Exts) (n : BitVec 7) (s : State) : Outcome State Fault Refusal :=
  s.software x (0x80 ||| n.setWidth 8) n

def execBkpt (x : Exts) (n : BitVec 7) (s : State) : Outcome State Fault Refusal := s.software x 0x10 n

/-! ## The keeper's instructions -/

/-- A keeper instruction: PRIV at USER (R301). -/
def State.keeperOp (s : State) (x : Exts) (f : State → Path → Option State) : Outcome State Fault Refusal :=
  match s.path x with
  | none => .fault .noIssue
  | some p =>
    if !p.g.keeper then .next (s.priv p)
    else s.pathOp x f

/-- MBXRD (R310). -/
def execMbxrd (x : Exts) (d a : BitVec 7) (s : State) : Outcome State Fault Refusal :=
  s.keeperOp x (fun s p =>
    if !p.g.hasRegs (vuse false d 1) then some (s.trapAll p noReg)
    else
      let lanes := lanesOf p.L
      let c := min ((p.g.rs a.toNat).setWidth 32 : Word).toNat 32
      let taken := ((s.coreBlock p.core).unread.take c).take lanes.length
      let at' := fun (j : Nat) => match taken[(lanes.takeWhile (· ≠ j)).length]? with
        | some i => (BitVec.ofNat 32 i : Word)
        | none => 0xFFFFFFFF
      let s := s.modCore p.core (fun b => { b with unread := b.unread.drop taken.length })
      let base := s.mbxPa p.core + 0x8004
      let s := if taken.isEmpty then s else s.deviceWrite base (leBytes 4 (s.deviceNum base 4 + taken.length))
      some ((s.modGroup p.core p.slot (fun g => g.eachV d p.L at')).pathDone p))

/-- LANERES (R312): COMPLETE, KILL or FORWARD on lanes whose records stand in the mailbox; a release at DEVICE scope. -/
def execLaneres (x : Exts) (a b : BitVec 7) (s : State) : Outcome State Fault Refusal :=
  s.keeperOp x (fun s p =>
    let sel := p.g.rs a.toNat
    let slot := selSlot sel
    if !p.g.hasRegs (vuse (Exts.uniB x) b 1) then some (s.trapAll p noReg)
    else if selAct sel = 1 ∨ slot = 15 then some (s.trapAll p protect4)
    else if !s.fenceReady p.core p.slot 1 3 then none
    else
      let lanes := s.selected p.core sel true
      let s := match selAct sel with
        | 0 => s.actComplete p.core slot lanes (fun j => p.g.srcB x b j)
        | 2 => s.actKill p.core slot lanes
        | _ => s.actForward p.core slot lanes
      some (s.pathDone p))

/-- ERET (R312): RETRY by the selector in ESEL. -/
def execEret (x : Exts) (s : State) : Outcome State Fault Refusal :=
  s.keeperOp x (fun s p =>
    if !s.fenceReady p.core p.slot 1 3 then none
    else
      let sel := (s.coreBlock p.core).esel
      some ((s.actRetry p.core (selSlot sel) (s.selected p.core sel true)).pathDone p))

/-! ## Invalidation (R323) -/

/-- SCOPE of an invalidation, and whether the selector is one. -/
def invScope (v : DWord) : Nat := bits v.toNat 34 32
def invOk (v : DWord) : Bool := invScope v ≤ 2 && v.toNat < 2 ^ 35

/-- Drops the matching translations of every cluster translation unit and micro-TLB. -/
def State.dropTlb (s : State) (va v : DWord) : State :=
  let ctx : Word := v.setWidth 32
  let keep := fun (e : TlbEntry) => match invScope v with
    | 0 => !(e.ctx = ctx && e.page = va.toNat / 2 ^ e.log)
    | 1 => e.ctx ≠ ctx
    | _ => false
  { s with tlb := s.tlb.filter keep, utlb := s.utlb.filter keep }

/-- Every access with an id below a bound has been performed. -/
def State.performed (s : State) (upto : Nat) : Bool :=
  s.writes.all (fun w => upto ≤ w.id) && s.loads.all (fun l => l.sampled || upto ≤ l.id)

/-- TLBINV: the lanes of L park; MWAIT_WAKE carries out the rest. -/
def execTlbinv (x : Exts) (a b : BitVec 7) (s : State) : Outcome State Fault Refusal :=
  s.keeperOp x (fun s p =>
    let v := p.g.rs b.toNat
    if !invOk v then some (s.trapAll p protect4)
    else some ((s.park p.core p.slot p.L p.next (fun _ => .memWait (.tlbinv (p.g.rs a.toNat) v none))).complete
      p.core p.slot p.off p.next))

/-! ## Capability records -/

/-- The variant code, and the masks of present units (R29, R33). -/
def Variant.code : Variant → Nat
  | .x => 1
  | .s => 2
  | .h => 3

/-- FP8 to TAGGED behaviour records (R134): chunk, element bits, format number. -/
def numericRecord (chunk bits' fmt : Nat) : Nat := 0x0020007001010000 + chunk * 2 ^ 40 + bits' * 256 + fmt

/-- Element bits of the formats by number (R134). -/
def fmtBits : List Nat := [8, 8, 6, 6, 4, 16, 16, 8, 6, 4, 8, 0]

/-- A capability record (R33, R34); undefined numbers read zero. -/
def State.capRecord (s : State) (n : Nat) : Nat :=
  let h := s.boot.variant = .h
  let sv := s.boot.variant = .s
  match n with
  | 0x000 => 0x50592A0900000000 + s.boot.variant.code * 2 ^ 24 + 0x100000 + (if s.boot.attach then 256 else 0) + 0x4B
  | 0x001 => (if h then 0x0F else 0xFF) * 2 ^ 40 + (if h then 1 else 3) * 2 ^ 32 + 0x20082010
  | 0x002 => 0x0800400C0B200100
  | 0x003 => 0x000004101008200F
  | 0x004 => 0x0000084080000FFF
  | 0x005 => 0x0000060000804002
  | 0x006 => (if h then 0x0F else 0xFF) * 2 ^ 48 + 0x0000003008000064
  | 0x007 => 0x8006000010 + (if sv then 0x01 else 0xFF) * 2 ^ 16 + (if sv then 0 else 0xF) * 2 ^ 12
  | 0x008 => if s.boot.variant = .x && s.boot.media then 0xFFF010 else 0
  | 0x009 => (if h then 0x1FF else 0x3FFFF) * 2 ^ 28 + 0x012000E0
  | 0x00A => 0x09600A8C07D001F4
  | 0x00B => 0x000040804000391F
  | 0x00C => 0x10004040
  | 0x100 => s.boot.serial.toNat
  | 0x101 => s.boot.mfgDate.toNat * 2 ^ 32 + s.boot.mfgKey.toNat
  | n =>
    if 0x40 ≤ n ∧ n ≤ 0x4B then
      numericRecord (if n = 0x45 ∨ n = 0x46 then 4 else 8) (fmtBits.getD (n - 0x40) 0) (n - 0x40)
    else 0

/-- CAPR (R329). -/
def execCapr (x : Exts) (d : BitVec 7) (i : BitVec 12) (s : State) : Outcome State Fault Refusal :=
  match s.path x with
  | none => .fault .noIssue
  | some p =>
    if privNum i.toNat && !p.g.keeper then .next (s.priv p)
    else s.plain x [] (fun g _ => g.ws d.toNat (BitVec.ofNat 64 (s.capRecord i.toNat)))

end Sys2Proof.Machine
end

