-- ==== Sys2Proof/Machine/Home.lean ====
section
/-! DEFINITION. Home: what happens to the memory requests of groups: writes on their way to their homes, loads on their
way back, watches, page walks, the version collector, and requests to other devices that are given up (R216, R224,
R228, R234, R242, R243, R254, R321, R328, R374). -/

namespace Sys2Proof.Machine

open Host (Outcome)

/-! ## Writes (R216, R224, R228, R234) -/

/-- Whether a write may take its place in the core order: it is the group's next, the group's earlier loads have been
performed towards the core (R228), and the operation that makes it has been granted (R265). -/
def State.canEnter (s : State) (w : Write) : Bool :=
  !w.entered
    && s.writes.all (fun v => v.entered || v.core ≠ w.core || v.slot ≠ w.slot || w.id ≤ v.id)
    && s.loads.all (fun l => l.sampled || l.ordered || l.atom || l.core ≠ w.core || l.slot ≠ w.slot || w.id ≤ l.id)
    && (match w.mat with | some e => !s.ungranted e | none => true)

/-- Whether the version that a write needs finds no room (R243). -/
def State.noRoom (s : State) (w : Write) : Bool :=
  w.cameo && w.space = .mem && s.mustPreserve w.ctx w.line && !(s.context w.ctx).room

/-- Gives the old values of an ATOM to its load; XCHG.T takes the number of its write too (R234, R252). -/
def State.giveOld (s : State) (load : Nat) (old : List (Nat × Word)) (number : Word) : State :=
  { s with loads := s.loads.map (fun l =>
      if l.id = load then
        let lanes := l.lanes.map (fun (x : LoadLane) => match old.find? (fun (o : Nat × Word) => o.1 = x.lane) with
          | some o => { x with data := leBytes 4 o.2.toNat ++ (if l.width = 5 then leBytes 4 number.toNat else []) }
          | none => x)
        { l with lanes := lanes, sampled := lanes.all (fun x => !x.data.isEmpty) }
      else l) }

/-- The number of the write that a slice has just counted; 0 for a scratchpad; of a peer's slice it is not known here. -/
def State.numberOf (s : State) (w : Write) : Word × State :=
  match w.space with
  | .mem => (sget s.slices (s.sliceOf (128 * w.line)), s)
  | .scratch _ => (0, s)
  | .peer _ => s.draw 32

/-- What a write does where it is applied. -/
def State.perform (s : State) (w : Write) : State × List (Nat × Word) :=
  match w.kind with
  | .store cells =>
    match w.space with
    | .mem => (s.homeWriteLine (some (s.l1Of w.core)) w.line cells, [])
    | sp => ((s.put sp cells).fire, [])
  | .reduce op lanes | .atom op lanes _ =>
    let s := match w.space with
      | .mem => (((s.recall w.line).l1Invalidate (some (s.l1Of w.core)) w.line).numberWrite w.line).2
      | _ => s
    let (old, s) := s.applyLanes w.space op lanes
    (s.fire, old)

/-- Whether a write is discarded: a store to the window of a team that has retired (R208). -/
def State.discarded (s : State) (w : Write) : Bool :=
  match w.space with
  | .scratch t => (s.team? t).isNone
  | _ => false

/-- Removes a write and sends its acknowledgement; what the core's loads have read of the line before their turn goes, and
the core's other groups see it once they see what stands before it. -/
def State.acknowledge (s : State) (w : Write) (number : Word) : State :=
  { (s.noteEarly w).dropEarly w.core (fun x => x.space = w.space && x.addr / 128 = w.line) with
    writes := s.writes.filter (fun v => v.id ≠ w.id)
    acks := s.acks ++ [({ id := w.id, core := w.core, slot := w.slot, team := w.team, space := w.space, line := w.line
                          number := number, born := w.born
                          load := match w.kind with | .atom _ _ l => some l | _ => none } : Ack)] }

/-- The home applies a write: the version it must preserve, the bytes, the stamp, the number, the acknowledgement (R216,
R234, R238, R240). -/
def State.applyWrite (s : State) (w : Write) : State :=
  if s.discarded w then s.acknowledge w 0
  else
    let cam := w.cameo && w.space = .mem
    let s := if cam then s.preserve w.ctx w.line else s
    let (s, old) := s.perform w
    let s := if cam then s.stampLine w.line else s
    let (n, s) := s.numberOf w
    let s := match w.kind with
      | .atom _ _ load => s.giveOld load old n
      | _ => s
    s.acknowledge w n

/-- Collects one reduction in the U copy of an L1 (R224). -/
def collectOne (l1 : Nat) (op : AtomOp) (a : AtomLane) : List UPartial → List UPartial
  | [] => [({ l1 := l1, addr := a.addr, op := op, val := a.b } : UPartial)]
  | u :: r => if u.l1 = l1 ∧ u.addr = a.addr then { u with val := atomNew op u.val a.b 0 } :: r else u :: collectOne l1 op a r

/-- Whether a write is a RED.M that commutes with one of this operation on these lanes (R224). -/
def WriteKind.commutes (k : WriteKind) (op : AtomOp) (lanes : List AtomLane) : Bool :=
  match k with
  | .reduce o l => o = op || l.all (fun a => lanes.all (fun b => a.addr ≠ b.addr))
  | _ => false

/-- Whether a RED.M may collect in the U copy of its core's L1: a global line, not cameo, without a watch, not yet sent to
its home; no partial of another operation on its words; a line of the L1 that no transaction holds; and before it on the line
in its core's order only reductions whose order with it is free (R224). -/
def State.canCollect (s : State) (w : Write) (op : AtomOp) (lanes : List AtomLane) : Bool :=
  s.sent w && !w.held && w.way.stage = .source && w.space = .mem && !w.cameo && !s.watched w.line
    && (s.ahead w).all (fun v => !(v.space = w.space && v.line = w.line) || v.kind.commutes op lanes)
    && s.writes.all (fun v => !(v.held && v.space = w.space && v.line = w.line))
    && !s.lateLoad w.core w.space w.line
    && s.upartials.all (fun u => u.l1 ≠ s.l1Of w.core || u.op = op || lanes.all (fun a => a.addr ≠ u.addr))
    && ((s.uLines (s.l1Of w.core)).contains w.line || s.mLines (s.l1Of w.core) < s.l1Lines (s.l1Of w.core))

/-- Changes a write. -/
def State.modWrite (s : State) (id : Nat) (f : Write → Write) : State :=
  { s with writes := s.writes.map (fun v => if v.id = id then f v else v) }

/-- HOME_APPLY_WRITE. -/
def execHomeApplyWrite (id : Nat) (phase : WritePhase) (s : State) : Outcome State Fault Refusal :=
  match s.write? id with
  | none => .next s
  | some w =>
    match phase with
    | .enter =>
      if s.canEnter w then
        .next { s with writes := s.writes.filter (fun v => v.id ≠ id) ++ [{ w with entered := true, way := { since := s.time } }] }
      else .next s
    | .inject =>
      if w.space = .mem && s.mayGo w && s.canInject w.request then
        .next { s.modWrite id (fun w => { w with way := Way.injected s }) with nextId := s.nextId + 1 }
      else .next s
    | .arrive =>
      if w.space = .mem && s.canArrive w.request then .next (s.modWrite id (fun w => { w with way := w.way.arrived s }))
      else .next s
    | .collect =>
      match w.kind with
      | .reduce op lanes =>
        if s.canCollect w op lanes then
          let l1 := s.l1Of w.core
          let s := s.l1Invalidate none w.line
          let s := if (s.uLines l1).contains w.line then s else s.l1Make l1 1 1
          .next ({ s with upartials := lanes.foldl (fun us a => collectOne l1 op a us) s.upartials }.acknowledge w 0)
        else .next s
      | _ => .next s
    | .apply =>
      if !s.canApply w then .next s
      else if s.noRoom w && !s.discarded w then
        .next (s.modWrite id (fun v => { v with held := true }))
      else .next (s.applyWrite w)

/-- Whether a held write may be applied: no other is held before it on its line, and its version finds room (R243). -/
def State.canRelease (s : State) (w : Write) : Bool :=
  w.held && !s.noRoom w
    && (s.writes.takeWhile (fun v => v.id ≠ w.id)).all (fun v => !(v.held && v.space = w.space && v.line = w.line))

/-- HELD_WRITE_RELEASE (R243): reclamation or growth has freed room. -/
def execHeldWriteRelease (id : Nat) (s : State) : Outcome State Fault Refusal :=
  match s.write? id with
  | none => .next s
  | some w => if s.canRelease w then .next (s.applyWrite w) else .next s

/-- WRITE_ACK (R234). -/
def execWriteAck (id : Nat) (s : State) : Outcome State Fault Refusal :=
  .next { s with acks := s.acks.filter (fun a => a.id ≠ id) }

/-! ## Loads (R228, R250, R328) -/

/-- The load of an id. -/
def State.load? (s : State) (id : Nat) : Option PendingLoad := s.loads.find? (fun l => l.id = id)

/-- Changes a load, and drops it once it has no lane left. -/
def State.modLoad (s : State) (id : Nat) (f : PendingLoad → PendingLoad) : State :=
  { s with loads := (s.loads.map (fun l => if l.id = id then f l else l)).filter (fun l => !l.lanes.isEmpty) }

/-- Whether a load may take its place in the core order: the group's earlier loads have, its earlier ATOMs are in it, and
no ATOM or RED.M that it must see is pending on its lines, none of which is hidden from it (R227, R228). -/
def State.canOrder (s : State) (l : PendingLoad) : Bool :=
  !l.sampled && !l.atom && !l.ordered
    && s.loads.all (fun e => e.sampled || e.ordered || e.atom || e.core ≠ l.core || e.slot ≠ l.slot || l.id ≤ e.id)
    && s.writes.all (fun w => w.entered || w.core ≠ l.core || w.slot ≠ l.slot || l.id ≤ w.id || w.kind.isStore)
    && l.lanes.all (fun x => !x.data.isEmpty || (!s.rmwPending l.core l.slot l.id x.space (x.addr / 128)
        && (x.readHome || !s.hidden l.core l.slot x.space (x.addr / 128))))

/-- Whether a load may read all that it has left at its homes now: the ordering rules let each line be read, and the arbiter
of each slice takes the request for it (R218). -/
def State.canHome (s : State) (l : PendingLoad) : Bool :=
  !l.sampled && !l.atom && !l.homed
    && l.lanes.all (fun x => x.readHome || (s.mayRead l x.space (x.addr / 128)
        && (x.space ≠ .mem || s.served (l.request (x.addr / 128)))))

/-- Whether a load may be performed now: what it still has to read can be read. -/
def State.canSample (s : State) (l : PendingLoad) : Bool :=
  !l.sampled && (l.ordered || s.canOrder l) && (l.homed || s.canHome l)

/-- A load takes its place in the core order, and reads what that order holds for it. -/
def State.orderLoad (s : State) (l : PendingLoad) : State :=
  let (s, lanes) := s.readOrder l.core l.slot l.id l.bytes l.lanes
  s.modLoad l.id (fun e => { e with lanes := lanes, ordered := true, sampled := e.homed })

/-- A load reads at its homes. -/
def State.homeLoad (s : State) (l : PendingLoad) : State :=
  let (s, lanes) := s.readHome l.core l.bytes l.lanes
  s.modLoad l.id (fun e => { e with lanes := lanes, homed := true, sampled := e.ordered })

/-- A load reads one line of a space at its home; with the last it has read at all of them. -/
def State.spaceLoad (s : State) (l : PendingLoad) (sp : Space) (line : Nat) : State :=
  let mine := fun (x : LoadLane) => x.space = sp && x.addr / 128 = line && !x.readHome
  let (s, got) := s.readHome l.core l.bytes (l.lanes.filter mine)
  let lanes := l.lanes.map (fun x => (got.find? (fun y => y.lane = x.lane)).getD x)
  let all := lanes.all LoadLane.readHome
  s.modLoad l.id (fun e => { e with lanes := lanes, homed := all, sampled := all && e.ordered })

/-- The same of a line of local memory. -/
def State.lineLoad (s : State) (l : PendingLoad) (line : Nat) : State := s.spaceLoad l .mem line

/-- The request of a load for a line moves on its way. -/
def State.moveLoad (s : State) (id line : Nat) (f : Way → Way) : State :=
  s.modLoad id (fun e => { e with lanes := e.lanes.map (fun (x : LoadLane) =>
    if x.space = .mem ∧ x.addr / 128 = line then { x with way := f x.way } else x) })

/-- Performs a load: what it still has to read, in the core's order first. -/
def State.sampleLoad (s : State) (l : PendingLoad) : State :=
  let (s, lanes) := if l.ordered then (s, l.lanes) else s.readOrder l.core l.slot l.id l.bytes l.lanes
  let (s, lanes) := if l.homed then (s, lanes) else s.readHome l.core l.bytes lanes
  s.modLoad l.id (fun e => { e with lanes := lanes, ordered := true, homed := true, sampled := true })

/-- Whether a load's data may return: it has been performed, and the group's earlier loads have returned. -/
def State.canDeliver (s : State) (l : PendingLoad) : Bool :=
  l.sampled && s.loads.all (fun e => e.core ≠ l.core || e.slot ≠ l.slot || l.id ≤ e.id)

/-- The data of a load is written to its registers (R250). -/
def State.deliverLoad (s : State) (l : PendingLoad) : State :=
  let s := s.modGroup l.core l.slot (fun g =>
    l.lanes.foldl (fun g x => g.writeLoad l.dest l.width x.lane x.data) g)
  let s := { s with loads := s.loads.filter (fun d => d.id ≠ l.id) }
  if l.acq then s.dropEarly l.core (fun _ => true) else s

/-- An ATOM all of whose lanes have been given up. -/
def WriteKind.empty : WriteKind → Bool
  | .atom _ l _ => l.isEmpty
  | _ => false

/-- The lanes of a load fail: they take MEMERR at the load's instruction, whatever a back-edge check after it has counted
(log 37), and the load goes on without them (R303, R328, R374). Nothing happens unless each is running or no longer live. -/
def State.failLanes (s : State) (l : PendingLoad) (hit : LoadLane → Option SvcRecord) : Option State :=
  let bad := l.lanes.filterMap (fun x => (hit x).map (fun r => (x.lane, r)))
  match s.group? l.core l.slot with
  | none => none
  | some g =>
    if bad.isEmpty || !bad.all (fun e => (g.lane e.1).running || !(g.lane e.1).live) then none
    else
      let live := bad.filter (fun e => (g.lane e.1).running)
      let m := maskList (live.map Prod.fst)
      let gone := bad.map Prod.fst
      let s := s.modLoad l.id (fun l => { l with lanes := l.lanes.filter (fun x => !gone.contains x.lane) })
      let s := { s with writes := (s.writes.map (fun (w : Write) => match w.kind with
        | .atom op ls id => if id = l.id then { w with kind := .atom op (ls.filter (fun a => !gone.contains a.lane)) id } else w
        | _ => w)).filter (fun w => !w.kind.empty) }
      let s := s.modGroup l.core l.slot (fun g => g.modLanes m (fun _ x => { x with pc := l.pc }))
      some (s.raise l.core l.slot l.after live)

/-- KIND of a load or ATOM. -/
def PendingLoad.kind (l : PendingLoad) : Byte := if l.atom then 3 else 1

/-- The first local address that a load still has to read. -/
def PendingLoad.local? (l : PendingLoad) : Option Nat :=
  (l.lanes.find? (fun x => x.space = .mem && !x.readHome)).map LoadLane.addr

/-- LOAD_RETURN. -/
def execLoadReturn (id : Nat) (phase : ReadPhase) (s : State) : Outcome State Fault Refusal :=
  match s.load? id with
  | none => .next s
  | some l =>
    match phase with
    | .sample => if s.canSample l then .next (s.sampleLoad l) else .next s
    | .order => if s.canOrder l then .next (s.orderLoad l) else .next s
    | .home => if s.canHome l then .next (s.homeLoad l) else .next s
    | .inject line =>
      if l.linesLeft.contains line && s.mayRead l .mem line && s.canInject (l.request line) then
        .next { s.moveLoad id line (fun _ => Way.injected s) with nextId := s.nextId + 1 }
      else .next s
    | .arrive line =>
      if l.linesLeft.contains line && s.canArrive (l.request line) then .next (s.moveLoad id line (fun w => w.arrived s))
      else .next s
    | .line line =>
      if l.linesLeft.contains line && s.mayRead l .mem line && s.served (l.request line) then .next (s.lineLoad l line)
      else .next s
    | .corrected =>
      match l.local? with
      | some a => if s.canSample l then .next ((s.elog 1 (s.sliceOf a) a).sampleLoad l) else .next s
      | none => .next s
    | .deliver => if s.canDeliver l then .next (s.deliverLoad l) else .next s
    | .transient =>
      match l.local? with
      | some a =>
        if !s.canSample l then .next s
        else
          let s := (s.elog 2 (s.sliceOf a) a).sampleLoad l
          match s.load? id with
          | some l => .next (if s.canDeliver l then s.deliverLoad l else s)
          | none => .next s
      | none => .next s
    | .lasting =>
      match l.local? with
      | some a =>
        if !(s.canSample l || l.atom) then .next s
        else
          let hit := fun (x : LoadLane) =>
            if x.space = .mem ∧ x.addr / 4096 = a / 4096 then
              some (memErr { Access.load with kind := l.kind } x.va x.addr)
            else none
          match s.failLanes l hit with
          | some s => .next (s.retireFrame a)
          | none => .next s
      | none => .next s

/-! ## Requests that are given up (R374) -/

/-- A group's paths that stand at a fence which waits for acknowledgements: their PCs with the lanes of L. Within TEAM scope
a fence waits for the core order alone (R232). -/
def State.fencePaths (s : State) (g : Group) : List (DWord × Word) :=
  let pcs := dedup ((lanesOf (g.mask Lane.running)).map (fun j => (g.lane j).pc))
  pcs.filterMap (fun pc =>
    let lanes := fun (x : Exts) => maskOf (fun j =>
      (g.lane j).running && (g.lane j).pc = pc && guardTrue (g.lane j) (Exts.guard x))
    match s.peek g pc with
    | some (.fenceRel x c, _) | some (.fenceSc x c, _) => if 2 ≤ c.toNat then some (pc, lanes x) else none
    | some (.fenceEngine x, _) => some (pc, lanes x)
    | _ => none)

/-- MEMERR of a device that is not reached. -/
def unreachableRecord (d : Nat) (kind : Byte) (va : DWord) : SvcRecord :=
  { code := 0x0B, sub := 3, kind := kind, addr := va, auxa := BitVec.ofNat 64 d }

/-- A posted write to a peer is dropped and logged, or its acknowledgement is lost; every fence that waits on that raises
MEMERR: of its group, and, while the write is not performed, of the groups of its core that have read it (R231, R232,
R374). -/
def State.loseWrite (s : State) (core slot id d : Nat) : State :=
  let gs := s.groups.filter (fun g => g.core = core && (g.slot = slot || (g.saw.contains id && (s.write? id).isSome)))
  let waiting := gs.flatMap (fun g => (s.fencePaths g).map (fun e => (g, e)))
  let s := { s with
    writes := s.writes.filter (fun v => v.id ≠ id), acks := s.acks.filter (fun a => a.id ≠ id) }.elog 8 noUnit 0
  waiting.foldl (fun s e => s.raise e.1.core e.1.slot (s.afterAt e.1 e.2.1) (allLanes e.2.2 (unreachableRecord d 0 0))) s

/-- A load or an ATOM of a peer device is given up in the lanes that wait for that device. -/
def State.giveUpLoad (s : State) (l : PendingLoad) : State :=
  let hit := fun (x : LoadLane) => match x.space with
    | .peer d => if s.overdue d l.born then some (unreachableRecord d l.kind x.va) else none
    | _ => none
  match s.failLanes l hit with
  | some s => s.elog 5 noUnit 0
  | none => s

/-- A request to a peer device that finds no route or is not acknowledged: a load or an ATOM fails in its lanes, an ATOM too
whose answer alone is lost; a posted write is dropped. -/
def State.giveUpRequest (s : State) (id : Nat) : State :=
  match s.load? id, s.write? id, s.acks.find? (fun a => a.id = id) with
  | some l, _, _ => s.giveUpLoad l
  | none, some w, _ =>
    match w.space, w.kind with
    | .peer d, .atom _ _ l =>
      if s.overdue d w.born && (s.load? l).isNone then { s with writes := s.writes.filter (fun v => v.id ≠ id) }.elog 5 noUnit 0
      else s
    | .peer d, _ => if s.overdue d w.born then s.loseWrite w.core w.slot id d else s
    | _, _ => s
  | none, none, some a =>
    match a.space with
    | .peer d =>
      if !s.overdue d a.born then s
      else match a.load with
        | some l =>
          let s := { s with acks := s.acks.filter (fun k => k.id ≠ id) }
          (match s.load? l with | some l => s.giveUpLoad l | none => s)
        | none => s.loseWrite a.core a.slot id d
    | _ => s
  | none, none, none => s

/-- The watch of a lane's MWAIT on a peer's word is not acknowledged: MEMERR at the MWAIT (R374). -/
def State.giveUpWatch (s : State) (core slot lane : Nat) : State :=
  let mine := fun (w : Watch) => w.core = core && w.slot = slot && w.lane = lane
  match s.group? core slot, s.watches.find? mine with
  | some g, some w =>
    match (g.lane lane).st, w.space with
    | .park (.memWait .watch), .peer d =>
      if !s.overdue d w.born then s
      else
        ({ s with watches := s.watches.filter (fun v => !mine v) }.elog 5 noUnit 0).raiseParked g
          [(lane, unreachableRecord d 1 w.va)]
    | _, _ => s
  | _, _ => s

/-- REMOTE_GIVE_UP (R374); for a checkpoint job its outcome is 4 (R380). -/
def execRemoteGiveUp (what : GiveUp) (s : State) : Outcome State Fault Refusal :=
  .next (match what with
    | .request id => s.giveUpRequest id
    | .watch core slot lane => s.giveUpWatch core slot lane
    | .buddy => { s with ckpt := s.ckpt.map (fun c =>
        if c.outcome.isNone && s.overdue c.buddy c.born then { c with outcome := some 4 } else c) })

/-! ## Memory waits (R244, R254, R323) -/

/-- The lanes of a group that the issue of one of them has parked alike: its path (R244, R323). -/
def Group.parkedWith (g : Group) (lane : Nat) : Word :=
  let l := g.lane lane
  maskOf (fun j => (g.lane j).st = l.st && (g.lane j).issue = l.issue && (g.lane j).pc = l.pc && (g.lane j).after = l.after
    && l.issue.getLsbD j)

/-- MWAIT_WAKE: a memory wait has ended; none does while the core has stopped for the group (R61). A watch that was written,
or that a full table ended, completes its lane's MWAIT (log 62) once its group may see the word (R228); a lane whose watch is gone makes its MWAIT again; the path
of a TXB tries again; that of a TLBINV drops its entries once the group's writes are performed, and completes once every
access translated before is. -/
def execMwaitWake (core slot lane : Nat) (s : State) : Outcome State Fault Refusal :=
  match s.group? core slot with
  | none => .next s
  | some g =>
    if s.isStopped g then .next s else
    let m := maskOf (· = lane)
    let path := g.parkedWith lane
    match (g.lane lane).st with
    | .park (.memWait .watch) =>
      let mine := fun (w : Watch) => w.core = core && w.slot = slot && w.lane = lane
      match s.watches.find? mine with
      | none => .next (s.actRetry core slot m)
      | some w =>
        if w.fired && !s.hidden core slot w.space (w.addr / 128) then
          let s := { s with watches := s.watches.filter (fun v => !mine v) }
          .next ((if w.acq then s.dropEarly core (fun _ => true) else s).completeParked core slot m)
        else .next s
    | .park (.memWait .txn) => if s.openTxns core < 8 then .next (s.actRetry core slot path) else .next s
    | .park (.memWait (.tlbinv va sel none)) =>
      if s.fenceReady core slot 1 3 then
        let s := s.dropTlb va sel
        .next (s.modGroup core slot (fun g => g.modLanes path (fun _ l =>
          { l with st := .park (.memWait (.tlbinv va sel (some s.nextId))) })))
      else .next s
    | .park (.memWait (.tlbinv _ _ (some upto))) =>
      if s.performed upto then .next (s.completeParked core slot path) else .next s
    | _ => .next s

/-! ## Translation and versions -/

/-- A context descriptor in use. -/
def State.ctxDesc? (s : State) (ctx : Word) : Option CtxDesc :=
  match s.teams.find? (fun t => t.ctx.ctxid = ctx) with
  | some t => some t.ctx
  | none => match s.launches.find? (fun l => l.ctx.ctxid = ctx) with
    | some l => some l.ctx
    | none => (s.jobs.find? (fun j => j.ctx.ctxid = ctx)).map Job.ctx

/-- Entries of a cluster's TLB (R33, record 0x00B) and of a core's micro-TLB (R10). -/
def tlbSize : Nat := 16384
def utlbSize : Nat := 128

/-- A unit's entries take one more; a full unit loses its oldest. -/
def tlbTake (l : List TlbEntry) (e : TlbEntry) (size : Nat) : List TlbEntry :=
  (if size ≤ (l.filter (fun f => f.unit = e.unit)).length then l.eraseIdx (l.takeWhile (fun f => f.unit ≠ e.unit)).length
   else l) ++ [e]

/-- The entry of a unit's TLB for an address, from a leaf. -/
def tlbEntryOf (signet : Bool) (unit : Nat) (ctx : Word) (va : DWord) (l : Leaf) : TlbEntry :=
  { signet := signet, unit := unit, ctx := ctx, page := va.toNat / 2 ^ l.log, log := l.log, pte := l.pte }

/-- A walk of the tables of a cluster's signet core ends, and the cluster's TLB caches its valid leaf (R9, R10, R317). -/
def State.signetWalk (s : State) (cl : Nat) (va : DWord) : State :=
  if s.nclusters ≤ cl || (tlbFind s.tlb cl 0 va true).isSome then s
  else match s.walk {} va (s.tu cl).sigRoot.toNat 4 with
    | .error _ => s
    | .ok l =>
    let s := s.walkedFrom va (s.tu cl).sigRoot.toNat
    { s with tlb := tlbTake s.tlb (tlbEntryOf true cl 0 va l) tlbSize }

/-- PAGE_WALK_COMPLETE (R10, R321): a miss of a core's micro-TLB ends with the entry of its cluster's TLB, or with a walk;
the cluster caches a walk's valid leaf, and the micro-TLB takes either. From 256 on the number is that of a cluster's signet
core, which has no micro-TLB (R9). -/
def execPageWalkComplete (core : Nat) (ctx : Word) (va : DWord) (s : State) : Outcome State Fault Refusal :=
  if 256 ≤ core then .next (s.signetWalk (core - 256) va)
  else match s.ctxDesc? ctx with
  | none => .next s
  | some c =>
    if (tlbFind s.utlb core ctx va).isSome then .next s
    else match tlbFind s.tlb (core / 32) ctx va with
      | some l => .next { s with utlb := tlbTake s.utlb (tlbEntryOf false core ctx va l) utlbSize }
      | none =>
        match s.walk {} va c.ptroot 4 with
        | .error _ => .next s
        | .ok l =>
          let s := s.walkedFrom va c.ptroot
          .next { s with
            tlb := tlbTake s.tlb (tlbEntryOf false (core / 32) ctx va l) tlbSize
            utlb := tlbTake s.utlb (tlbEntryOf false core ctx va l) utlbSize }

/-- Whether a live snapshot of a context reaches a version (R242). -/
def State.reaches (s : State) (ctx : Word) (v : Version) : Bool :=
  s.snaps.any (fun n => n.ctx = ctx && v.stamp ≤ n.num && n.num < v.succ)

/-- The floor of a context: its oldest live snapshot, or the clock. -/
def State.floor (s : State) (ctx : Word) : DWord :=
  ((leastBy (fun (a b : Snapshot) => a.num < b.num) (s.snaps.filter (fun n => n.ctx = ctx))).map Snapshot.num).getD s.clock

/-- VERSION_RECLAIM (R242). -/
def execVersionReclaim (ctx : Word) (line : Nat) (stamp : DWord) (s : State) : Outcome State Fault Refusal :=
  .next (if s.contexts.any (fun c => c.id = ctx) then
      s.modContext ctx (fun c => { c with versions := c.versions.filter (fun v =>
        !(v.line = line && v.stamp = stamp && (v.succ ≤ s.floor ctx || !s.reaches ctx v))) })
    else s)

/-- FULL_CONDITION_CLEAR (R243): after reclamation or growth; the declared size is read again from the descriptor. -/
def execFullConditionClear (ctx : Word) (s : State) : Outcome State Fault Refusal :=
  let (size, s) := match s.ctxDesc? ctx with
    | some c => (some (leNat (s.deviceBytes (c.addr + 96) 8)), s.readRange (c.addr + 96) 8)
    | none => (none, s)
  .next (if s.contexts.any (fun c => c.id = ctx) then
      s.modContext ctx (fun c => { c with full := false, vsSize := size.getD c.vsSize })
    else s)

/-- CONTEXT_END (R239): the snapshots of a context are released, but for one that a running checkpoint job took (R376), and
its versions go, but for those that such a snapshot reaches: they stay until the job ends (R377). -/
def execContextEnd (ctx : Word) (s : State) : Outcome State Fault Refusal :=
  let s := { s with snaps := s.snaps.filter (fun n => n.ctx ≠ ctx || n.ckpt) }
  let left := fun (c : Context) => { c with objects := [], versions := c.versions.filter (s.reaches ctx) }
  .next { s with
    contexts := (s.contexts.map (fun c => if c.id = ctx then left c else c)).filter (fun c =>
      c.id ≠ ctx || s.snaps.any (fun n => n.ctx = ctx))
    tlb := s.tlb.filter (fun e => e.ctx ≠ ctx || e.signet)
    utlb := s.utlb.filter (fun e => e.ctx ≠ ctx) }

end Sys2Proof.Machine
end

