-- ==== Sys2Proof/Machine/Sched.lean ====
section
/-! DEFINITION. Sched: one cycle of a core's two issue schedulers: paths, eligibility, selection, conflicts, the crossbar
and the wait and yield counts (R14, R15, R45 to R51, R82, R83). The issues it selects join the issue queue, and the next
steps execute them in order (log 2). -/

namespace Sys2Proof.Machine

open Host (Outcome)

/-! ## Pipe classes (R15, R46) -/

/-- The pipe classes of R46. -/
inductive Pipe where
  | fma | int | ctl | mem | f64 | sfu | uni | mat | eng | sys
  deriving DecidableEq, Repr

/-- The classes that pair. -/
def Pipe.pairs : Pipe → Bool
  | .fma | .int | .ctl | .mem => true
  | _ => false

/-- The class of a base word, by its place in the opcode map (R46, R86 to R91); a CVT with a 64-bit code and every FP64
special function are of class F64 (R173). -/
def pipeOf (w : Word) : Pipe :=
  let low := w.toNat % 32
  match w.toNat / 2 ^ 26 with
  | 0x00 | 0x01 | 0x02 | 0x03 => .ctl
  | 0x04 => if low = 7 then .uni else .ctl
  | 0x05 | 0x08 | 0x09 | 0x0A | 0x0B => .uni
  | 0x10 | 0x12 | 0x13 | 0x22 => .int
  | 0x1C => .fma
  | 0x1D | 0x1F => .f64
  | 0x1E => .sfu
  | 0x20 => if wideCode (w.extractLsb' 0 5) || wideCode (w.extractLsb' 5 5) then .f64 else .fma
  | 0x21 => if bitN low 3 then .f64 else .fma
  | 0x2C | 0x2D | 0x2E | 0x2F | 0x30 | 0x31 => .mem
  | 0x36 => .mat
  | 0x37 | 0x38 | 0x39 => .eng
  | _ => .sys

/-- The cycles for which an instruction occupies its pipe (R15, R173). -/
def occupies (w : Word) : Nat :=
  let form := fun (a b : Nat) => if pipeOf w = .f64 then b else a
  match w.toNat / 2 ^ 26 with
  | 0x1C | 0x1D => (match w.toNat % 32 with
    | 9 | 10 | 11 | 15 => form 2 8
    | 12 | 13 => form 8 28
    | 14 => form 8 24
    | _ => form 1 2)
  | 0x1E => 4
  | 0x1F => 16
  | 0x20 => form 1 2
  | 0x21 => (match w.toNat % 8 with
    | 0 => form 2 4
    | 1 => form 8 16
    | _ => form 4 8)
  | _ => 1

/-! ## Paths (R45) -/

/-- A path and what it would issue; `instr` is none where the fetch or the decoding traps. -/
structure Cand where
  pc : DWord
  lanes : Word
  instr : Option Instr
  exts : Exts
  word : Word
  pipe : Pipe
  ports : Nat
  deriving DecidableEq, Repr

/-- The crossbar ports of an instruction: its faceted sources (R83). -/
def portsOf (x : Exts) : Nat := ([Exts.fa x, Exts.fb x, Exts.fc x].filter (· ≠ 0)).length

/-- The path at a PC. -/
def State.candAt (s : State) (g : Group) (pc : DWord) : Cand :=
  let lanes := g.mask (fun l => l.running && l.pc = pc)
  match s.peek g pc with
  | some (i, ws) =>
    let w := ws.getLastD 0
    { pc := pc, lanes := lanes, instr := some i, exts := extsOf i, word := w, pipe := pipeOf w, ports := portsOf (extsOf i) }
  | none => { pc := pc, lanes := lanes, instr := none, exts := [], word := 0, pipe := .sys, ports := 0 }

/-- The paths of a group, one for each PC of its RUN lanes. -/
def State.paths (s : State) (g : Group) : List Cand :=
  (dedup ((g.lanes.filter Lane.running).map Lane.pc)).map (s.candAt g)

/-! ## Operand readiness (R45, R82) -/

/-- Registers of an operand kind. -/
def kindRegs : Kind → Nat
  | .v => 1
  | .vp => 2
  | .vq => 4
  | _ => 0

/-- Whether a load has yet to write a register of a lane. -/
def State.pendingReg (s : State) (g : Group) (a lane : Nat) : Bool :=
  s.loads.any (fun l => l.core = g.core && l.slot = g.slot && l.dest ≤ a && a < l.dest + widthRegs l.width
    && l.lanes.any (fun x => x.lane = lane))

/-- Whether no write is pending to an operand in the lanes that some lanes read it from through a facet. -/
def State.operandReady (s : State) (g : Group) (lanes : Word) (f : BitVec 7) (uni : Bool) (o : Kind × BitVec 7) : Bool :=
  uni || (lanesOf lanes).all (fun j =>
    (List.range (kindRegs o.1)).all (fun k => !s.pendingReg g (g.wbase + o.2.toNat + k) (g.facetLane f j)))

/-- The lanes for which a path reads its A operand: NSET reads lanes 0 to 4, whether or not they issue (R200). -/
def Cand.lanesA (c : Cand) : Word :=
  match c.instr with
  | some (.nset _ _ _) => 0x1F
  | _ => c.lanes

/-- Whether an instruction writes the register of its A operand: the chained SCAN.I (R154). -/
def Cand.writesA (c : Cand) : Bool :=
  match c.instr with
  | some (.scanIS _ _ _) => true
  | _ => false

/-- Whether every register operand of an instruction is ready, sources and destinations alike (R51, R154). -/
def State.operandsReady (s : State) (g : Group) (c : Cand) : Bool :=
  match c.instr.bind shape with
  | none => true
  | some sh =>
    let u := sh.src = .vector
    s.operandReady g c.lanes 0 false sh.d
      && (!c.writesA || s.operandReady g c.lanes 0 false sh.a)
      && s.operandReady g c.lanesA (Exts.fa c.exts) (u && Exts.uniA c.exts) sh.a
      && s.operandReady g c.lanes (Exts.fb c.exts) (u && Exts.uniB c.exts) sh.b
      && s.operandReady g c.lanes (Exts.fc c.exts) (u && Exts.uniC c.exts) sh.c

/-- Whether an instruction that waits for earlier operations may issue: an acquire (R231), the fences and what orders like
one (R232, R244, R293, R308, R312), the reservation table (R265), the copy queue (R280), a load into released registers
(R55). -/
def State.instrReady (s : State) (g : Group) (L : Word) (i : Instr) : Bool :=
  let fence := fun (kind scope : Nat) => s.fenceReady g.core g.slot kind scope
  if L = 0 then true
  else match i with
    | .fenceAcq _ c => fence 0 c.toNat
    | .fenceRel _ c => fence 1 c.toNat
    | .fenceSc _ c => fence 2 c.toNat
    | .fenceEngine _ => fence 1 3 && !s.jobs.any (fun j => j.core = g.core && j.slot = g.slot && !j.readsDone)
    | .txb _ _ => g.txn.isSome || !s.writes.any (fun w => w.core = g.core && w.slot = g.slot)
    | .txc _ _ => fence 1 3
    | .arrive _ k | .arwait _ _ k => fence 1 (claspScope k)
    | .sysc _ _ _ => g.keeper || fence 2 3
    | .laneres _ _ _ | .eret _ => !g.keeper || fence 1 3
    | .mma _ _ _ _ | .mzero _ _ | .mld _ _ _ | .mst _ _ _ | .mdrain _ _ _ _ => s.entriesHeld g.core < 4
    | .copy _ _ _ | .copyMc _ _ _ | .gather _ _ _ | .coll _ _ _ | .media _ _ _ =>
      (match s.teamOf g with
       | some t => t.copyq = 0 || (s.jobs.filter (fun j => j.team = t.id)).length < t.copyq
       | none => true)
    | .rrel _ n => !s.loadsInto g.core g.slot (4 * (g.alloc - n.toNat))
    | _ => true

/-- Whether a memory instruction must wait for an acquire. -/
def State.memReady (s : State) (g : Group) (c : Cand) : Bool := c.pipe ≠ .mem || !s.acquiring g.core g.slot

/-- Whether the pipe of a class accepts an instruction of scheduler k in this cycle (R15). -/
def Sched.accepts (d : Sched) (k : Nat) : Pipe → Bool
  | .f64 => d.f64 = 0
  | .sfu => d.sfu = 0
  | .fma => if k = 0 then d.fma0 = 0 else d.fma1 = 0
  | _ => true

/-- An eligible path (R45). -/
def State.eligible (s : State) (d : Sched) (k : Nat) (g : Group) (c : Cand) : Bool :=
  let L := maskOf (fun j => c.lanes.getLsbD j && guardTrue (g.lane j) (Exts.guard c.exts))
  d.accepts k c.pipe && s.operandsReady g c && s.memReady g c
    && (match c.instr with | some i => s.instrReady g L i | none => true)

/-! ## Primary and secondary (R48, R82, R83) -/

/-- The largest wait count of a path. -/
def Cand.wait (g : Group) (c : Cand) : Nat := (lanesOf c.lanes).foldl (fun n j => max n (g.lane j).wait) 0

/-- A path counts as yielded while every lane has a yield count. -/
def Cand.yielded (g : Group) (c : Cand) : Bool := (lanesOf c.lanes).all (fun j => (g.lane j).yield ≠ 0)

/-- The rank of R48: unyielded first, then more lanes, then the lower PC. -/
def Cand.before (g : Group) (a b : Cand) : Bool :=
  let ya := a.yielded g
  let yb := b.yielded g
  let na := (lanesOf a.lanes).length
  let nb := (lanesOf b.lanes).length
  if ya ≠ yb then !ya else if na ≠ nb then nb < na else a.pc < b.pc

/-- The forced order: the largest wait, then the lower PC. -/
def Cand.longer (g : Group) (a b : Cand) : Bool :=
  if a.wait g ≠ b.wait g then b.wait g < a.wait g else a.pc < b.pc

/-- The primary path. -/
def primaryOf (g : Group) (cs : List Cand) : Option Cand :=
  let forced := cs.filter (fun c => 32 ≤ c.wait g)
  if forced.isEmpty then leastBy (Cand.before g) cs else leastBy (Cand.longer g) forced

/-- Whether an instruction writes a uniform register: then it does not pair (R46). -/
def Cand.writesUniform (c : Cand) : Bool := match c.instr.bind shape with | some sh => sh.d.1 = .s | none => false

/-- The window registers that an instruction writes: its D operand, which only a store reads, and the A of a chained
SCAN.I (R154). -/
def Cand.writes (c : Cand) : List Nat :=
  match c.instr with
  | some (.st _ _ _ _) => []
  | some i => (match shape i with
      | some sh => (List.range (kindRegs sh.d.1)).map (fun k => sh.d.2.toNat + k)
          ++ (if c.writesA then [sh.a.2.toNat] else [])
      | none => [])
  | none => []

/-- The facet that reads through the Q or N register that an instruction writes (R80, R201). -/
def Cand.writesFacet (c : Cand) : Option (BitVec 7) :=
  match c.instr with
  | some (.qset _ d _) => some (0x68 + d)
  | some (.nset _ d _) => some (0x6C + d)
  | _ => none

/-- Whether a path has to wait for the primary's writes: a source reads, in the primary's lanes through its route, a
register that the primary writes (R82), or a facet names a Q or N that it writes (R201). NSET reads its source as a
faceted one (R200). -/
def Cand.readsFrom (g : Group) (c p : Cand) : Bool :=
  match c.instr.bind shape with
  | none => false
  | some sh =>
    let hit := fun (routed : Bool) (lanes : Word) (f : BitVec 7) (o : Kind × BitVec 7) => routed
      && (List.range (kindRegs o.1)).any (fun k => p.writes.contains (o.2.toNat + k))
      && (lanesOf lanes).any (fun j => p.lanes.getLsbD (g.facetLane f j))
    let uni := sh.src = .vector && Exts.uniA c.exts
    hit (!uni && (Exts.fa c.exts ≠ 0 || c.lanesA ≠ c.lanes)) c.lanesA (Exts.fa c.exts) sh.a
      || hit (Exts.fb c.exts ≠ 0) c.lanes (Exts.fb c.exts) sh.b
      || hit (Exts.fc c.exts ≠ 0) c.lanes (Exts.fc c.exts) sh.c
      || [Exts.fa c.exts, Exts.fb c.exts, Exts.fc c.exts].any (fun f => p.writesFacet = some f)

/-- Whether a path is a candidate for the secondary beside a primary (R46, R48, R83). -/
def Cand.candidate (c p : Cand) : Bool :=
  p.pipe.pairs && !p.writesUniform && p.ports ≤ 2 && c.pc ≠ p.pc && c.pipe = p.pipe && !c.writesUniform

/-- The secondary path, where `free` ports are left. -/
def secondaryOf (g : Group) (cs : List Cand) (p : Cand) (free : Nat) : Option Cand :=
  leastBy (Cand.before g) (cs.filter (fun c => c.candidate p && c.ports ≤ free && !c.readsFrom g p))

/-! ## Selection (R47) -/

/-- What a scheduler presents in a cycle. -/
structure Pick where
  slot : Nat
  g : Group
  eligible : Word
  primary : Cand
  secondary : Option Cand
  deriving DecidableEq, Repr

/-- The crossbar ports that a scheduler has in a cycle. -/
def Sched.portsFree (d : Sched) (k : Nat) : Nat :=
  match d.xbar with
  | none => 2
  | some (h, _) => if h = k then 1 else 0

/-- Whether no team of a group's gang stands saved: a gang is restored as a whole (R62). -/
def State.gangWhole (s : State) (g : Group) : Bool :=
  match s.teamOf g with
  | some t => !s.savedTeams.any (fun u => u.launch = t.launch && u.team.gang = t.gang)
  | none => true

/-- Whether a group of the core may be selected: present, not in its second cycle, its context not stopped (R325). -/
def State.selectable (s : State) (d : Sched) (k core slot : Nat) : Option Group :=
  match s.group? core slot with
  | none => none
  | some g =>
    if d.xbar = some (k, slot) then none
    else if !g.keeper && (s.stopped.contains (core, s.ctxOf g) || !s.gangWhole g) then none
    else some g

/-- The ports that a primary leaves to its secondary: none in the second cycle of a two-cycle issue (R83). -/
def Sched.portsLeft (d : Sched) (p : Cand) : Nat := if d.xbar = none then 2 - p.ports else 0

/-- The pick of scheduler k in a slot, where the group is ready. A candidate that has to wait for the primary's writes is
not eligible in this opportunity (R82, R201). -/
def State.pick (s : State) (d : Sched) (k core slot : Nat) : Option Pick :=
  match s.selectable d k core slot with
  | none => none
  | some g =>
    let cs := (s.paths g).filter (s.eligible d k g)
    match primaryOf g cs with
    | none => none
    | some p =>
      some { slot := slot, g := g, primary := p, secondary := secondaryOf g cs p (d.portsLeft p)
             eligible := (cs.filter (fun c => !(c.candidate p && c.readsFrom g p))).foldl (fun m c => m ||| c.lanes) 0 }

/-- The slots that scheduler k searches, in its order. -/
def Sched.order (d : Sched) (k : Nat) : List Nat :=
  if k = 0 then (List.range 8).map (fun i => (d.last0 + 1 + i) % 8)
  else (if d.keeperPrev then [] else [15]) ++ (List.range 7).map (fun i => 8 + (d.last1 - 8 + 1 + i) % 7)

/-- The selection of scheduler k. -/
def State.select (s : State) (d : Sched) (k core : Nat) : Option Pick := (d.order k).findSome? (s.pick d k core)

/-! ## Conflicts and issue (R14, R83) -/

/-- The ports that a pick takes in its first cycle, and whether the crossbar can give them. -/
def Pick.ports (p : Pick) : Nat := p.primary.ports + (match p.secondary with | some c => c.ports | none => 0)
def Sched.portsOk (d : Sched) (k : Nat) (p : Pick) : Bool :=
  p.primary.ports = 0 || p.primary.ports ≤ d.portsFree k || (p.primary.ports = 3 && d.portsFree k = 2)

/-- Whether two picks need a common shared resource. -/
def Pick.contends (a b : Pick) : Bool :=
  (a.primary.pipe = b.primary.pipe && [Pipe.f64, .int, .sfu].contains a.primary.pipe) || (0 < a.ports && 0 < b.ports)

/-- The picks that issue, and the loser of a conflict. -/
def Sched.decide (d : Sched) (a b : Option Pick) : Option Pick × Option Pick × Option Nat :=
  let a := a.filter (d.portsOk 0)
  let b := b.filter (d.portsOk 1)
  match a, b with
  | some x, some y =>
    if x.contends y then
      if d.loser = some 1 then (none, b, some 0) else (a, none, some 1)
    else (a, b, d.loser)
  | _, _ => (a, b, d.loser)

/-- The lanes that a pick issues. -/
def Pick.issues (p : Pick) : Word := p.primary.lanes ||| (match p.secondary with | some c => c.lanes | none => 0)

/-- A counted issue opportunity (R49, R50): wait counts of eligible lanes, and every yield count. -/
def Group.counted (g : Group) (eligible issuing : Word) : Group :=
  { g with ended := 0, lanes := updAll (fun j l => { l with
      wait := if issuing.getLsbD j then 0 else if eligible.getLsbD j && l.running then l.wait + 1 else l.wait
      yield := l.yield - 1 }) 0 g.lanes }

/-- The slack tag of the requests of a cycle: the groups of the core that are ready, saturated at 15 (R218). -/
def State.slackTag (s : State) (d : Sched) (core : Nat) : Nat :=
  min 15 ((s.groups.filter (fun g =>
    g.core = core && (s.paths g).any (s.eligible d (if g.slot < 8 then 0 else 1) g))).length)

/-- The issues of a pick, primary first (R51). -/
def Pick.queue (core tag : Nat) (p : Pick) : List Issue :=
  ({ core := core, slot := p.slot, pc := p.primary.pc, lanes := p.primary.lanes, tag := tag } : Issue)
    :: (match p.secondary with
        | some c => [({ core := core, slot := p.slot, pc := c.pc, lanes := c.lanes, tag := tag } : Issue)]
        | none => [])

/-- A pick issues. -/
def State.issuePick (s : State) (core tag : Nat) (p : Option Pick) : State :=
  match p with
  | none => s
  | some p =>
    let s := s.modGroup core p.slot (fun g => g.counted p.eligible p.issues)
    { s with issueQ := s.issueQ ++ p.queue core tag }

/-- The cycles for which a pipe stays occupied after this one. -/
def busyAfter (old : Nat) (use : Nat) : Nat := if use = 0 then old - 1 else use - 1

/-- The cycles that a pick takes of a class of pipe. -/
def useOf (k : Pipe) (p : Option Pick) : Nat :=
  match p with
  | some p =>
    if p.primary.pipe = k then max (occupies p.primary.word) (match p.secondary with | some c => occupies c.word | none => 0)
    else 0
  | none => 0

/-- The scheduling record after a cycle. -/
def Sched.after (d : Sched) (selA selB a b : Option Pick) (loser : Option Nat) : Sched :=
  let two := fun (k : Nat) (p : Option Pick) => match p with
    | some p => if p.primary.ports = 3 then some (k, p.slot) else none
    | none => none
  { last0 := (selA.map Pick.slot).getD d.last0
    last1 := match selB with | some p => if p.slot = 15 then d.last1 else p.slot | none => d.last1
    keeperPrev := match selB with | some p => p.slot = 15 | none => false
    loser := loser
    xbar := (two 0 a).or (two 1 b)
    f64 := busyAfter d.f64 (max (useOf .f64 a) (useOf .f64 b))
    sfu := busyAfter d.sfu (max (useOf .sfu a) (useOf .sfu b))
    fma0 := busyAfter d.fma0 (useOf .fma a)
    fma1 := busyAfter d.fma1 (useOf .fma b) }

/-- The fetch and loop buffers of a core lose some lines, which are fetched anew: what they keep is open (R93, log 16). -/
def State.loseText (s : State) (core : Nat) (lost : List Nat) : State :=
  s.modCore core (fun b => { b with text := b.text.filter (fun c => !lost.contains c.line) })

/-- ISSUE_OPPORTUNITY: one cycle of a core, whose buffers have meanwhile lost some lines of text. -/
def execIssueOpportunity (c : CoreCycle) (s : State) : Outcome State Fault Refusal :=
  if s.thermal || s.ncores ≤ c.core then .next s
  else
    let core := c.core
    let s := s.loseText core c.lost
    let d := (s.coreBlock core).sched
    let tag := s.slackTag d core
    let selA := s.select d 0 core
    let selB := s.select d 1 core
    let (a, b, loser) := d.decide selA selB
    let s := s.modCore core (fun c => { c with sched := d.after selA selB a b loser })
    .next ((s.issuePick core tag a).issuePick core tag b)

end Sys2Proof.Machine
end

