-- ==== Sys2Proof/Machine/Place.lean ====
section
/-! DEFINITION. Place: what a core has free and what a team reserves (R11 to R13, R40, R345), the start of units (R36 to
R42, R58, R215), their retirement and discard (R60, R63), and how the front complex reports (R342, R354, R359). -/

namespace Sys2Proof.Machine

open Host (Outcome)

/-! ## Context descriptors (R318) -/

/-- The context descriptor at an address. -/
def State.readCtx (s : State) (a : Nat) : CtxDesc :=
  let b := s.deviceBytes a 256
  { addr := a, ptroot := field b 0 8, stepAll := bitN (field b 16 8) 0, ctxid := BitVec.ofNat 32 (field b 24 4)
    shapeBase := field b 32 8, claspTmo := field b 40 4, shapeCnt := field b 44 4
    pc0 := BitVec.ofNat 64 (field b 48 8), pc1 := BitVec.ofNat 64 (field b 56 8)
    ft := (List.range 6).map (fun i => BitVec.ofNat 32 (field b (64 + 4 * i) 4))
    vsBase := field b 88 8, vsSize := field b 96 8, retBase := field b 104 8 }

/-! ## Resources (R11 to R13, R40) -/

/-- An amount of every occupancy resource of a core. -/
structure Need where
  slots : Nat
  regs : Nat
  tiles : Nat
  accs : Nat
  scratch : Nat
  copyq : Nat
  clasps : Nat
  deriving DecidableEq, Repr

/-- Groups of a role (R36). -/
def Role.groups (r : Role) : Nat := (r.lanes + 31) / 32

/-- The sum of a value over a list. -/
def sumOf {α : Type} (f : α → Nat) (l : List α) : Nat := l.foldl (fun n a => n + f a) 0

/-- What a team of a launch reserves. -/
def Launch.need (l : Launch) : Need :=
  let n := sumOf Role.groups l.roles
  { slots := n, regs := sumOf (fun r => r.groups * r.budget) l.roles + l.poolres, tiles := n * l.tiles
    accs := n * l.accs, scratch := l.scratch, copyq := l.copyq
    clasps := (l.claspTable.filter (fun e => e.1 = 1)).length }

/-- What an empty core offers (R12, R13); the accumulators are its quad's (R11). -/
def coreTotal : Need := ⟨15, 508, 64, 64, 11, 32, 64⟩

/-- Whether a slot can take a group: none stands there, and no incomplete job is bound to its clasps (R288). -/
def State.slotFree (s : State) (core slot : Nat) : Bool :=
  (s.group? core slot).isNone && !s.jobs.any (fun j => match j.clasp with
    | some (.group c sl _) => c = core && sl = slot
    | _ => false)

/-- What a core has free. -/
def State.freeOf (s : State) (core : Nat) : Need :=
  let ts := s.teams.filter (fun t => t.core = core)
  let qs := s.teams.filter (fun t => t.core / 4 = core / 4)
  let orphans := s.jobs.filter (fun j => j.core = core && (s.team? j.team).isNone)
  { slots := ((List.range 15).filter (s.slotFree core)).length
    regs := coreTotal.regs - sumOf Team.reserved ts
    tiles := coreTotal.tiles - sumOf (fun t => t.tiles * t.ngroups) ts
    accs := coreTotal.accs - sumOf (fun t => t.accs * t.ngroups) qs
    scratch := coreTotal.scratch - sumOf Team.granules ts
    copyq := coreTotal.copyq - (sumOf Team.copyq ts + orphans.length)
    clasps := coreTotal.clasps - sumOf (fun t => (t.clasps.filter Clasp.declared).length) ts }

/-- Whether a core that offers `f` takes one more team beside those that already chose it (`used`). -/
def fits (f : Nat → Need) (n : Need) (used : List Nat) (core : Nat) : Bool :=
  let k := (used.filter (· = core)).length + 1
  let q := (used.filter (fun c => c / 4 = core / 4)).length + 1
  let a := f core
  k * n.slots ≤ a.slots && k * n.regs ≤ a.regs && k * n.tiles ≤ a.tiles && q * n.accs ≤ a.accs
    && k * n.scratch ≤ a.scratch && k * n.copyq ≤ a.copyq && k * n.clasps ≤ a.clasps

/-- The lowest-numbered distinct cores of a list that fit the teams of a unit, at most `gs` of them. -/
def takeCores (f : Nat → Need) (n : Need) (used : List Nat) (gs : Nat) (cores : List Nat) : List Nat :=
  cores.foldl (fun acc c => if acc.length < gs && fits f n (used ++ acc) c then acc ++ [c] else acc) []

/-- Where a unit goes: the lowest cluster with enough cores (R344). -/
def placeUnit (f : Nat → Need) (n : Need) (used : List Nat) (gs : Nat) (cores : List Nat) : Option (List Nat) :=
  (List.range 8).findSome? (fun cl =>
    let t := takeCores f n used gs (cores.filter (fun c => c / 32 = cl))
    if t.length = gs then some t else none)

/-- Where many units go, one after another. -/
def placeUnits (f : Nat → Need) (n : Need) (gs : Nat) (cores : List Nat) :
    Nat → List Nat → Option (List (List Nat))
  | 0, _ => some []
  | k + 1, used =>
    match placeUnit f n used gs cores with
    | none => none
    | some u =>
      match placeUnits f n gs cores k (used ++ u) with
      | none => none
      | some r => some (u :: r)

/-! ## Starting a unit (R41, R42) -/

/-- Clasps of a level as the clasp table declares them (R289, R350). -/
def declareClasps (table : List (Nat × Nat × Word)) (level n : Nat) : List Clasp :=
  (List.range n).map (fun i => match table.find? (fun e => e.1 = level && e.2.1 = i) with
    | some e => { exp := e.2.2, declared := true }
    | none => {})

/-- The slot of the next group of a team (R41). -/
def State.nextSlot (s : State) (core : Nat) : Option Nat :=
  let a := (List.range 8).filter (s.slotFree core)
  let b := ((List.range 7).map (· + 8)).filter (s.slotFree core)
  if b.length ≤ a.length then a.head? else b.head?

/-- Puts a group into a slot: a new generation, and step enabled or not (R313, R317, R318). -/
def State.receive (s : State) (core slot : Nat) (step : Bool) (g : Group) : State :=
  let s := s.modCore core (fun c =>
    { c with gens := sset c.gens slot (sget c.gens slot + 1), stepMask := setBit c.stepMask slot step })
  { s with groups := s.groups ++ [{ g with core := core, slot := slot }] }

/-- A group to start: GROUPID, role and ROLEGRP. -/
structure Seat where
  groupId : Nat
  roleId : Nat
  roleGrp : Nat
  role : Role
  deriving DecidableEq, Repr

/-- The groups of a team, in role order (R38). -/
def Launch.seats (l : Launch) : List Seat :=
  (number 0 ((number 0 l.roles).flatMap (fun r => (List.range r.2.groups).map (fun k => (r.1, k, r.2))))).map
    (fun e => { groupId := e.1, roleId := e.2.1, roleGrp := e.2.2.1, role := e.2.2.2 })

/-- The lanes of a starting group: launched positions run at the entry (R36, R42), or at their records' entries (R58). -/
def Launch.startLanes (l : Launch) (k : Seat) (recs : List PoolRecord) : List Lane :=
  (List.range 32).map (fun j =>
    if l.pool.isSome then
      match recs[j]? with
      | some r => { st := .run, pc := l.textBase + r.codeoff.setWidth 64 }
      | none => {}
    else if 32 * k.roleGrp + j < k.role.lanes then { st := .run, pc := l.entry }
    else {})

/-- The registers of a starting group: zero, but for the arguments of continuation records in V0 to V2. -/
def startRegs (recs : List PoolRecord) : SMap 32 :=
  ssets [] ((number 0 recs).flatMap (fun e => [(e.1, e.2.arg0), (32 + e.1, e.2.arg1), (64 + e.1, e.2.arg2)]))

/-- Starts one group. -/
def State.startGroup (s : State) (l : Launch) (team core : Nat) (step : Bool) (recs : List PoolRecord) (k : Seat) :
    State :=
  match s.nextSlot core with
  | none => s
  | some slot => s.receive core slot step
      { core := core, slot := slot, team := some team, groupId := k.groupId, roleId := k.roleId, roleGrp := k.roleGrp
        lanes := l.startLanes k recs, alloc := k.role.budget, v := startRegs recs
        ntiles := l.tiles, naccs := l.accs, clasps := declareClasps l.claspTable 0 4 }

/-- Drains some lines of an L1: the partials it holds of them are combined at their homes, its copies dropped (R214). -/
def State.drainL1 (s : State) (l1 : Nat) (p : Nat → Bool) : State :=
  let s := ((s.uLines l1).filter p).foldl (fun s line => s.recallOf l1 line) s
  { s with l1 := s.l1.filter (fun c => c.l1 ≠ l1 || !p c.line) }

/-- The lines that stand in a core's granules of its L1 beyond the first n, of 512 lines each: after the lines of its open
transactions the partials and then the copies, in their order; of a fused L1 those whose number gives them to the core
(R213, R215, log 60). -/
def State.beyond (s : State) (core n : Nat) : List Nat :=
  let l1 := s.l1Of core
  let all := s.uLines l1 ++ (s.l1.filter (fun c => c.l1 = l1)).map L1Copy.line
  (if l1 < 256 then all else all.filter (fun line => line % 32 = core % 32)).drop (512 * n - s.mOf core)

/-- Enters or leaves fusion for a team that starts in a cluster (R215). -/
def State.fuseFor (s : State) (cl : Nat) (fuse : Bool) : State :=
  if fuse && !s.fused.contains cl then
    let s := ((List.range 32).map (fun n => 32 * cl + n)).foldl (fun s l1 => s.drainL1 l1 (fun _ => true)) s
    { s with fused := s.fused ++ [cl] }
  else if !fuse && s.fused.contains cl then
    let s := s.drainL1 (256 + cl) (fun _ => true)
    { s with fused := s.fused.filter (· ≠ cl) }
  else s

/-- Whether a core's cluster takes a team of a launch that fuses it or does not (R215, R345). -/
def State.fuseOk (s : State) (fuse : Bool) (core : Nat) : Bool :=
  !fuse || s.fused.contains (core / 32) || s.teams.all (fun t => t.core / 32 ≠ core / 32 || t.fuse)

/-- Makes a core ready for a team: the cluster enters or leaves fusion, and the granules that the team needs are drained
(R214, R215). -/
def State.makeRoom (s : State) (core : Nat) (fuse : Bool) (granules : Nat) : State :=
  let s := s.fuseFor (core / 32) fuse
  let out := s.beyond core (s.l1Granules core - granules)
  s.drainL1 (s.l1Of core) out.contains

/-- A core's L1 keeps to its size once a team stands on the core (R213). -/
def State.fitL1 (s : State) (core : Nat) : State := s.l1Make (s.l1Of core) 0 (s.l1Used (s.l1Of core))

/-- The producer role (R36). -/
def Launch.producerRole (l : Launch) : Nat := (l.roles.takeWhile (fun r => !r.producer)).length % max 1 l.roles.length

/-- The team of a linear index as it starts. -/
def Launch.team (l : Launch) (id core lin : Nat) (ctx : CtxDesc) : Team :=
  let n := l.need
  let pool := l.pool.isSome
  { id := id, launch := l.id, core := core, lin := lin
    x := if pool then lin else lin % max 1 l.x
    y := if pool then 0 else lin / max 1 l.x % max 1 l.y
    z := if pool then 0 else lin / max 1 l.x / max 1 l.y
    gang := lin / max 1 l.gs, rank := lin % max 1 l.gs, gs := l.gs, ctx := ctx, pool := l.poolres
    granules := l.scratch, copyq := l.copyq, clasps := declareClasps l.claspTable 1 16
    reserved := n.regs, tiles := l.tiles, accs := l.accs, ngroups := n.slots, callmax := l.callmax
    producer := l.producerRole, textBase := l.textBase, textSize := l.textSize, kargs := l.kargs, kdata := l.kdata
    fuse := l.fuse }

/-- Starts one team on a core. -/
def State.startTeam (s : State) (l : Launch) (core lin : Nat) (recs : List PoolRecord) : State :=
  let ctx := s.readCtx l.ctx.addr
  let id := s.nextId
  let s := (s.readRange l.ctx.addr 256).makeRoom core l.fuse l.scratch
  let s := s.modContext ctx.ctxid (fun c => { c with vsSize := ctx.vsSize })
  let s := State.fitL1 { s with nextId := id + 1, teams := s.teams ++ [l.team id core lin ctx] } core
  l.seats.foldl (fun s k => s.startGroup l id core ctx.stepAll recs k) s

/-- Starts a unit: a team, a whole gang, or a POOL group (R39, R344). -/
def State.startUnit (s : State) (l : Launch) (cores : List Nat) : State :=
  let recs := match l.pool with
    | some p => p.formed.headD []
    | none => []
  let g : Gang := { launch := l.id, idx := l.next / max 1 l.gs, clasps := declareClasps l.claspTable 2 16 }
  let s := { s with gangs := s.gangs ++ [g] }
  let s := (number l.next cores).foldl (fun s e => s.startTeam l e.2 e.1 recs) s
  s.modLaunch l.id (fun l => { l with
    next := if l.pool.isSome then (l.next + 1) % (2 ^ 32 - 1) else l.next + cores.length
    started := l.started + cores.length
    pool := l.pool.map (fun p => { p with formed := p.formed.drop 1 }) })

/-! ## Events (R342) -/

/-- An event word. -/
def eventWord (kind row : Nat) (sigfault : Bool) (desc : Nat) : DWord :=
  BitVec.ofNat 64 (kind * 2 ^ 60 + row % 256 * 2 ^ 52 + (if sigfault then 2 ^ 51 else 0) + desc % 2 ^ 39 / 64 * 64)

/-- The kind and the descriptor of an event. -/
def eventKey (e : DWord) : Nat × Nat := (e.toNat / 2 ^ 60, e.toNat % 2 ^ 39)

/-- The VALID row that names a descriptor. -/
def State.rowOf (s : State) (desc : Nat) : Option Nat :=
  (List.range 128).find? (fun q => (s.row q).valid && (s.row q).qdesc.toNat = desc)

/-- Raises an event; one of the same kind and descriptor that is unread takes it up. -/
def State.pushEvent (s : State) (kind : Nat) (sigfault : Bool) (desc : Nat) : State :=
  let e := eventWord kind ((s.rowOf desc).getD 0xFF) sigfault desc
  if s.events.any (fun x => eventKey x = eventKey e) then
    { s with events := s.events.map (fun x => if eventKey x = eventKey e && sigfault then x ||| (1 <<< 51 : DWord) else x) }
  else { s with events := s.events ++ [e] }

/-! ## Completion (R354) -/

/-- The place of a front-complex access of a context to n bytes of a global address. -/
def State.frontPlace (s : State) (c : CtxDesc) (va : DWord) (n : Nat) (acc : Access) : Option Place :=
  if 0x01F0000000000000 < va.toNat + n then none
  else match s.translateCtx .none c va acc with
    | .ok p => some p
    | .error _ => none

/-- Writes a signal; none where the write faults. -/
def State.writeSignal (s : State) (c : CtxDesc) (va : DWord) (v : Nat) : Option State :=
  (s.frontPlace c va 8 .store).map (fun p => (s.walked .none c va).unitWrite c.ctxid p (leBytes 8 v))

/-- The watchdog count of a queue, and the count set (R357). -/
def State.wdog (s : State) (desc : Nat) : Nat := ((s.wdogs.find? (fun e => e.1 = desc)).map Prod.snd).getD 0
def State.setWdog (s : State) (desc n : Nat) : State :=
  { s with wdogs := s.wdogs.filter (fun e => e.1 ≠ desc) ++ (if n = 0 then [] else [(desc, n)]) }

/-- A packet completes: its signal, at its SIGADDR as it stands (log 49), the COMPLETE event, and the watchdog of its queue
restarts (R357). -/
def State.completePacket (s : State) (p : Packet) (status dropped teams : Nat) : State :=
  let s := { s with packets := s.packets.filter (fun q => q.id ≠ p.id) }
  let v := status % 256 * 2 ^ 56 + dropped % 2 ^ 24 * 2 ^ 32 + teams % 2 ^ 32
  let (s, bad) :=
    if p.signal = 0 then (s, false)
    else match s.writeSignal p.ctx p.signal v with
      | some s => (s, false)
      | none => (s, true)
  (s.setWdog p.desc 0).pushEvent 2 bad p.desc

/-- Whether a launch has no unit left to start. -/
def Launch.allStarted (l : Launch) : Bool :=
  if l.fate ≠ 0 then true
  else match l.pool with
    | some p => p.ended && p.bins.isEmpty && p.formed.isEmpty
    | none => l.x * l.y * l.z ≤ l.next

/-- Whether a launch is complete: every unit that started has retired or is discarded. -/
def Launch.done (l : Launch) : Bool := l.allStarted && l.started = l.retired + l.discarded

/-- Saved teams that are never restored leave no transaction open: their snapshots are released (R239, R247). -/
def State.closeSaved (s : State) (ts : List SavedTeam) : State :=
  ts.foldl (fun s t => t.groups.foldl (fun s g => match g.txn with
    | some n => s.releaseSnap t.team.ctx.ctxid n
    | none => s) s) s

/-- Completes a launch. -/
def State.completeLaunch (s : State) (l : Launch) : State :=
  let s := s.closeSaved (s.savedTeams.filter (fun t => t.launch = l.id))
  let s := { s with
    launches := s.launches.filter (fun m => m.id ≠ l.id)
    gangs := s.gangs.filter (fun g => g.launch ≠ l.id)
    savedTeams := s.savedTeams.filter (fun t => t.launch ≠ l.id) }
  match s.packets.find? (fun p => p.launch = some l.id) with
  | some p => s.completePacket p (if l.fate = 0 then 1 else l.fate) (match l.pool with | some q => q.dropped | none => 0) l.started
  | none => s

/-- Whether a drain of a queue has not ended: its packets complete with it (R358, R361). -/
def State.draining (s : State) (desc : Nat) : Bool := s.drains.any (fun d => d.queues.contains desc)

/-- Completes every launch that is done, and ends the queues that a destroy waits for (R361). -/
def State.settleLaunches (s : State) : State :=
  let s := (s.launches.filter (fun l => l.done && !s.draining l.desc)).foldl State.completeLaunch s
  let ended := s.destroying.filter (fun d => !s.packets.any (fun p => p.desc = d))
  ended.foldl (fun s d =>
    let s := match s.rowOf d with
      | some q => s.modRow q (fun r => { r with valid := false, watch := false, prefetched := [] })
      | none => s
    let s := (s.setWdog d 0).pushEvent 7 false d
    { s with destroying := s.destroying.filter (· ≠ d), unmapped := s.unmapped.filter (fun u => u.desc ≠ d) }) s

/-! ## The wait-for table (R359) -/

/-- A launch issued from a row. -/
def State.launchesOf (s : State) (desc : Nat) : List Launch :=
  s.launches.filter (fun l => s.packets.any (fun p => p.launch = some l.id && p.desc = desc))

/-- The cores that a row allows. -/
def Row.coreList (r : Row) : List Nat := (List.range 256).filter (fun c => r.cores.getLsbD c)

/-- The row's oldest launch with unstarted units, where its next unit stands ready; a POOL launch that has not ended has
unstarted units, and units of later launches wait for them (R344). -/
def State.nextLaunch (s : State) (r : Row) : Option Launch :=
  ((s.launchesOf r.qdesc.toNat).find? (fun l => !l.allStarted)).filter (fun l => match l.pool with
    | some p => !p.formed.isEmpty
    | none => true)

/-- The place that a signal word has by the tables; nothing is read there. -/
def State.signalPlace (s : State) (c : CtxDesc) (va : DWord) : Option Place := s.frontPlace c va 8 {}

/-- Whether the STATUS of a signal word that a BARRIER names has been seen non-zero since its issue (R338). -/
def State.signalSeen (s : State) (p : Packet) (a : DWord) : Bool :=
  p.sigWatch.any (fun w => w.va = a && (w.seen || s.signalled w))

/-- The rows that a waiting BARRIER waits for, those from which the launches were issued, and whether a signal belongs to no
launch in flight (R359). -/
def State.barrierWaits (s : State) (p : Packet) : BitVec 128 × Bool :=
  let open' := p.sigs.filter (fun a => !s.signalSeen p a)
  let owners := fun (a : DWord) => s.packets.filter (fun q =>
    q.launch.isSome && q.signal ≠ 0 && s.signalPlace q.ctx q.signal = s.signalPlace p.ctx a)
  let rows := open'.flatMap (fun a => (owners a).map Packet.row)
  (rows.foldl (fun m q => setBit m q true) 0, open'.any (fun a => (owners a).isEmpty))

/-- The row that a resident team belongs to: the VALID row that names the queue of its launch, else the row from which its
launch was issued (R359). -/
def State.rowOfTeam (s : State) (t : Team) : Option Nat :=
  (s.packets.find? (fun p => p.launch = some t.launch)).map (fun p => (s.rowOf p.desc).getD p.row)

/-- The wait-for entry of a row: WAITS and KIND. -/
def State.waitEntry (s : State) (q : Nat) : BitVec 128 × BitVec 3 :=
  let r := s.row q
  if !r.valid then (0, 0)
  else match s.packets.find? (fun p => p.desc = r.qdesc.toNat) with
    | none => (0, 0)
    | some p =>
      if p.typ = 3 then
        let (w, ext) := s.barrierWaits p
        (w, if ext then 1 else 0)
      else match p.launch.bind s.launch? with
        | none => (0, 0)
        | some l =>
          let cores := r.coreList
          let units := if l.coop then (l.x * l.y * l.z - l.next) / max 1 l.gs else 1
          if l.allStarted || (l.pool.map (fun p => p.formed.isEmpty)).getD false
              || (placeUnits s.freeOf l.need l.gs (cores.filter (s.fuseOk l.fuse)) units []).isSome then (0, 0)
          else
            let busy := (s.teams.filter (fun t => cores.contains t.core)).filterMap s.rowOfTeam
            (busy.foldl (fun m i => setBit m i true) 0, if l.coop then 6 else 2)

/-- Updates every row's entry, with a WAITCHG event for each that changes. -/
def State.refreshWaits (s : State) : State :=
  (List.range 128).foldl (fun s q =>
    let (w, k) := s.waitEntry q
    if (s.row q).waits = w ∧ (s.row q).waitKind = k then s
    else (s.modRow q (fun r => { r with waits := w, waitKind := k })).pushEvent 4 false (s.row q).qdesc.toNat) s

/-! ## Leaving a core (R60, R63) -/

/-- Withdraws the records of a group's lanes (R315). -/
def State.withdraw (s : State) (core slot : Nat) : State :=
  let s := s.modCore core (fun c => { c with unread := c.unread.filter (fun i => i / 32 ≠ slot) })
  s.modTu (core / 32) (fun t => { t with
    unread := t.unread.filter (fun i => 16384 ≤ i || i / 32 ≠ 16 * (core % 32) + slot) })

/-- Removes a group with its requests that only its registers or lanes await, and the matrix operations that have not been
granted with their writes (R266). -/
def State.dropGroup (s : State) (core slot : Nat) : State :=
  let s := s.withdraw core slot
  { s with
    writes := s.writes.filter (fun w => !(w.core = core && w.slot = slot && (w.mat.map s.ungranted).getD false))
    groups := s.groups.filter (fun h => !h.at core slot)
    loads := s.loads.filter (fun l => !(l.core = core && l.slot = slot))
    watches := s.watches.filter (fun w => !(w.core = core && w.slot = slot))
    engines := s.engines.map (fun e => { e with entries := e.entries.filter (fun x => !(x.core = core && x.slot = slot)) }) }

/-- The gang of a team ends with its last team. -/
def State.endGang (s : State) (t : Team) : State :=
  if s.teams.any (fun u => u.launch = t.launch && u.gang = t.gang)
      || s.savedTeams.any (fun u => u.launch = t.launch && u.team.gang = t.gang) then s
  else { s with gangs := s.gangs.filter (fun g => !(g.launch = t.launch && g.idx = t.gang)) }

/-- A core that holds no team of a context is no longer stopped for it (R325). -/
def State.endStop (s : State) (core : Nat) (ctx : Word) : State :=
  if s.teams.any (fun t => t.core = core && t.ctx.ctxid = ctx) then s
  else { s with stopped := s.stopped.filter (· ≠ (core, ctx)), drained := s.drained.filter (· ≠ (core, ctx)) }

/-- Takes a team off its core: its groups, its registers, its scratchpad. -/
def State.dropTeam (s : State) (t : Team) : State :=
  let s := (s.groupsOf t.id).foldl (fun s g => s.dropGroup g.core g.slot) s
  ({ s with teams := s.teams.filter (fun u => u.id ≠ t.id) }).endStop t.core t.ctx.ctxid

/-- A team's groups leave its core: their transactions close, their records are withdrawn. -/
def State.clearTeam (s : State) (t : Team) : State :=
  (s.groupsOf t.id).foldl (fun s g => (s.closeTxn g.core g.slot).dropGroup g.core g.slot) s

/-- A launch will complete with a STATUS and starts no further unit; what acted first on its queue stands (R362). A discard
after a fatal trap is no act on the queue: a drain or a destroy gives the launch its own STATUS (R358, R361, log 48). -/
def Launch.ends (l : Launch) (fate : Nat) : Launch := { l with fate := if l.fate = 0 ∨ l.fate = 5 then fate else l.fate }

/-- Discards a team without save (R63): its transactions close, its records are withdrawn, its stopped jobs are
abandoned. The launch will complete with `fate`, and starts no further unit. -/
def State.discardTeam (s : State) (t : Team) (fate : Nat) : State :=
  let s := (s.clearTeam t).dropTeam t
  let s := { s with jobs := s.jobs.filter (fun j => !(j.team = t.id && j.stopped)) }
  let s := s.modTu (t.core / 32) (fun u => { u with unread := u.unread.filter (fun i =>
    i < 16384 || (i - 16384) / 32 ≠ t.core % 32 || s.jobs.any (fun j => j.core = t.core && j.entry = i % 32)) })
  (s.modLaunch t.launch (fun l => { l.ends fate with discarded := l.discarded + 1 })).endGang t

/-- Discards the saved teams of a launch: they are never restored. -/
def State.dropSaved (s : State) (launch : Nat) : State :=
  let n := (s.savedTeams.filter (fun t => t.launch = launch)).length
  let s := s.closeSaved (s.savedTeams.filter (fun t => t.launch = launch))
  ({ s with savedTeams := s.savedTeams.filter (fun t => t.launch ≠ launch) }).modLaunch launch
    (fun l => { l with discarded := l.discarded + n })

end Sys2Proof.Machine
end

