-- ==== Sys2Proof/Machine/Service.lean ====
section
/-! DEFINITION. Service: what the signet cores do to the device through the control space (R311, R316, R317, R323), the
address-range table (R219 to R221), the inbound entries (R371), pre-emption, save and restore of teams (R61 to R63, R325
to R327), and errors of on-core storage (R328). -/

namespace Sys2Proof.Machine

open Host (Outcome)

/-! ## LANECTL (R311, R317) -/

/-- Whether writes of a cluster's signet core are held at their homes (R243). -/
def State.signetHeld (s : State) (cluster : Nat) : Bool := s.writes.any (fun w => w.core = unitCore + 1 + cluster)

/-- A LANECTL write whose ACT is `act`; a write with another ACT is another step, and an absent core has no register. It is a
release at DEVICE scope of the signet core's earlier accesses: it acts once none of them is held (R229, R311). -/
def State.lanectl (s : State) (core : Nat) (sel : DWord) (act : Nat) (f : Word → State) : Outcome State Fault Refusal :=
  if core < s.ncores ∧ selAct sel = act ∧ !s.halted ∧ !s.signetHeld (core / 32) then .next (f (s.selected core sel false)) else .next s

def execLanectlComplete (core : Nat) (sel : DWord) (s : State) : Outcome State Fault Refusal :=
  s.lanectl core sel 0 (fun m =>
    s.actComplete core (selSlot sel) m (fun _ => (s.coreBlock core).resVal.setWidth 32))

def execLanectlRetry (core : Nat) (sel : DWord) (s : State) : Outcome State Fault Refusal :=
  s.lanectl core sel 1 (fun m => s.actRetry core (selSlot sel) m)

def execLanectlKill (core : Nat) (sel : DWord) (s : State) : Outcome State Fault Refusal :=
  s.lanectl core sel 2 (fun m => s.actKill core (selSlot sel) m)

def execLanectlSetpc (core : Nat) (sel : DWord) (s : State) : Outcome State Fault Refusal :=
  s.lanectl core sel 3 (fun m => s.actSetpc core (selSlot sel) m)

/-! ## JOBCTL (R287, R317) -/

/-- The stopped job that a JOBCTL write names. -/
def State.stoppedJob (s : State) (core : Nat) (v : DWord) : Option Job :=
  s.jobs.find? (fun j => j.core = core && j.entry = bits v.toNat 4 0 && j.stopped)

def execJobctlResume (core : Nat) (v : DWord) (s : State) : Outcome State Fault Refusal :=
  match s.stoppedJob core v with
  | some j => if v.getLsbD 8 then .next s else .next (s.modJob j.id (fun j => { j with stopped := false }))
  | none => .next s

def execJobctlFail (core : Nat) (v : DWord) (s : State) : Outcome State Fault Refusal :=
  match s.stoppedJob core v with
  | some j => if v.getLsbD 8 then .next (s.failJob j 1) else .next s
  | none => .next s

/-! ## Pre-emption (R61, R325) -/

/-- Whether a pre-empted row asks a core to stop for a context: a team of one of its launches stands there. -/
def State.stopAsked (s : State) (core : Nat) (ctx : Word) : Bool :=
  s.rows.any (fun r => r.valid && r.preempt && (s.launchesOf r.qdesc.toNat).any (fun l =>
    s.teams.any (fun t => t.launch = l.id && t.core = core && t.ctx.ctxid = ctx)))

/-- A transaction doomed by a pre-emption: its buffered bytes are discarded (R245). -/
def Group.doom (g : Group) : Group := { g with txn := g.txn.map (fun t => { t with doomed := true, bytes := [] }) }

/-- PREEMPT_STOP: a core stops issue for a context; the transactions of its groups are doomed. -/
def execPreemptStop (core : Nat) (ctx : Word) (s : State) : Outcome State Fault Refusal :=
  if s.stopped.contains (core, ctx) || !s.stopAsked core ctx then .next s
  else .next { s with
    stopped := s.stopped ++ [(core, ctx)]
    groups := s.groups.map (fun g => if g.core = core && !g.keeper && s.ctxOf g = ctx then g.doom else g) }

/-- Whether a group has no request on its way and no matrix instruction unfinished. -/
def State.groupDrained (s : State) (g : Group) : Bool :=
  s.writesDone g.core g.slot && s.loadsDone g.core g.slot
    && s.engines.all (fun e => e.entries.all (fun x => !(x.core = g.core && x.slot = g.slot)))

/-- PREEMPT_DRAIN_DONE: the drains of R61, R266 and R288 are done, and the core notifies its signet core. -/
def execPreemptDrainDone (core : Nat) (ctx : Word) (s : State) : Outcome State Fault Refusal :=
  if s.stopped.contains (core, ctx) && !s.drained.contains (core, ctx)
      && s.groups.all (fun g => g.keeper || g.core ≠ core || s.ctxOf g ≠ ctx || s.groupDrained g)
      && s.jobs.all (fun j => j.ctx.ctxid ≠ ctx || s.jobHeld j) then
    .next { s with drained := s.drained ++ [(core, ctx)] }
  else .next s

/-! ## The group record (R327) -/

/-- State and park cause of a lane as numbers, in the order of R43. -/
def laneCode : LaneState → Nat × Nat
  | .none => (0, 0)
  | .run => (1, 0)
  | .exit => (3, 0)
  | .park c => (2, match c with
      | .presence _ => 0
      | .fault => 1
      | .syscall => 2
      | .join .. => 3
      | .memWait _ => 4
      | .clasp .. => 5
      | .claim _ => 6
      | .regroup .. => 7)

/-- A lane entry. -/
def State.laneBytes (s : State) (g : Group) (l : Lane) : List Byte :=
  let fwd := match l.svc with | some r => r.fwd | none => false
  leBytes 4 (s.pcOff g l.pc).toNat
    ++ [BitVec.ofNat 8 (laneCode l.st).1, BitVec.ofNat 8 (laneCode l.st).2, BitVec.ofNat 8 l.yield, BitVec.ofNat 8 l.rets.length]
    ++ leBytes 4 l.seq.toNat ++ [l.preds.setWidth 8, l.flags.setWidth 8, if fwd then 1 else 0, 0]

/-- The two words of a clasp. -/
def Clasp.saveBytes (c : Clasp) : List Byte := leBytes 8 c.word0.toNat ++ leBytes 8 c.word1.toNat

/-- The VMASK of the liveness entry that covers a text offset: an entry covers from its PCOFF up to the next one's, and the
last up to TEXTEND (R101). -/
def liveAt (l : List (Nat × BitVec 128)) (stop off : Nat) : Option (BitVec 128) :=
  let past := l.filter (fun e => e.1 ≤ off)
  if past.length = l.length ∧ stop ≤ off then none else (past.getLast?).map Prod.snd

/-- The saved set: the registers that a save keeps (R101). -/
def State.savedSet (s : State) (g : Group) (live : List (Nat × BitVec 128)) (stop : Nat) : List Nat :=
  let all := List.range (4 * g.alloc)
  let offs := dedup ((g.lanes.filter Lane.live).map (fun l => (s.pcOff g l.pc).toNat))
  let masks := offs.map (liveAt live stop)
  if masks.any Option.isNone then all
  else all.filter (fun a => a < g.wbase || g.wbase + 128 ≤ a
    || masks.any (fun m => (m.getD 0).getLsbD (a - g.wbase)))

/-- A set of registers as 64 bytes. -/
def setBytes (l : List Nat) : List Byte := leBytes 64 (l.foldl (fun n a => n + 2 ^ a) 0)

/-- A group record. -/
def State.groupBytes (s : State) (g : Group) (set : List Nat) : List Byte :=
  let off := fun (pc : DWord) => leBytes 4 (s.pcOff g pc).toNat
  leBytes 2 g.wbase
    ++ [BitVec.ofNat 8 g.alloc, BitVec.ofNat 8 g.roleId, BitVec.ofNat 8 g.roleGrp, BitVec.ofNat 8 g.groupId
        , BitVec.ofNat 8 g.ntiles, BitVec.ofNat 8 g.naccs, if (s.coreBlock g.core).stepMask.getLsbD g.slot then 1 else 0]
    ++ List.replicate 7 0
    ++ g.lanes.flatMap (s.laneBytes g)
    ++ (List.range 64).flatMap (fun n => leBytes 8 (g.rs n).toNat)
    ++ (List.range 8).flatMap (fun n => leBytes 8 (sget g.g n).toNat)
    ++ g.q.flatMap (fun q => leBytes 20 q.toNat)
    ++ g.n.flatMap (fun n => leBytes 18 n.toNat)
    ++ g.lc.flatMap (fun c => leBytes 4 c.count.toNat ++ off c.start ++ off c.stop ++ List.replicate 4 0)
    ++ leBytes 8 g.fpctl.toNat ++ leBytes 8 g.burst.toNat
    ++ g.clasps.flatMap Clasp.saveBytes
    ++ g.lanes.flatMap (fun l => leBytes 8 l.wbits.toNat)
    ++ (number 0 g.lanes).flatMap (fun e => match e.2.svc with
        | some r => recordBytes g.core g.slot e.1 (s.gen g.core g.slot) r
        | none => List.replicate 64 0)
    ++ setBytes set ++ List.replicate 88 0
    ++ (List.range g.ntiles).flatMap (fun t => sbytes g.t (2048 * t) 2048)
    ++ (List.range g.naccs).flatMap (fun m => (List.range 4096).flatMap (fun i => leBytes 4 (sget g.m (4096 * m + i)).toNat))
    ++ set.flatMap (fun a => (List.range 32).flatMap (fun j => leBytes 4 (g.rv a j).toNat))

/-! ## The team save area (R326) -/

/-- The groups of a team in GROUPID order. -/
def State.teamGroups (s : State) (t : Team) : List Group :=
  sortBy (fun (a b : Group) => a.groupId ≤ b.groupId) (s.groupsOf t.id)

/-- The header and the clasps of a team. -/
def State.headerBytes (s : State) (t : Team) : List Byte :=
  let gs := s.groupsOf t.id
  let gid := fun (slot : Nat) => match gs.find? (fun g => g.slot = slot) with | some g => g.groupId | none => 0xFF
  let claims := (List.range 15).map (fun i => t.claims[i]?)
  let gang := if t.rank = 0 then s.gangs.find? (fun g => g.launch = t.launch && g.idx = t.gang) else none
  leBytes 4 t.ctx.ctxid.toNat ++ leBytes 4 t.lin ++ leBytes 4 t.gang
    ++ [BitVec.ofNat 8 t.rank, BitVec.ofNat 8 gs.length, BitVec.ofNat 8 t.granules, BitVec.ofNat 8 t.copyq
        , BitVec.ofNat 8 t.pool, 0x12, 0x10, 0]
    ++ claims.map (fun c => match c with | some c => BitVec.ofNat 8 (gid c.1) | none => 0xFF)
    ++ claims.map (fun c => match c with | some c => BitVec.ofNat 8 c.2 | none => 0)
    ++ List.replicate 14 0
    ++ t.clasps.flatMap Clasp.saveBytes
    ++ (match gang with | some g => g.clasps.flatMap Clasp.saveBytes | none => List.replicate 256 0)

/-- The presence bitmap: bit i for scratchpad line i. -/
def Team.presenceBytes (t : Team) : List Byte :=
  (List.range (64 * t.granules)).map (fun b =>
    BitVec.ofNat 8 (sumOf (fun k => if t.absent.any (fun a => a.line = 8 * b + k) then 0 else 2 ^ k) (List.range 8)))

/-- The next multiple of 128. -/
def align128 (n : Nat) : Nat := (n + 127) / 128 * 128

/-- Writes the group records one after another. -/
def State.writeGroups (s : State) (live : List (Nat × BitVec 128)) (stop : Nat) : Nat → List Group → State
  | _, [] => s
  | a, g :: r =>
    let bs := s.groupBytes g (s.savedSet g live stop)
    (s.deviceWrite a bs).writeGroups live stop (align128 (a + bs.length)) r

/-- Writes a team to its save area. -/
def State.writeTeam (s : State) (t : Team) (base : Nat) : State :=
  let (live, stop) := match s.launch? t.launch with
    | some l => (l.live, l.textEnd)
    | none => ([], 0)
  let groups := s.teamGroups t
  let s' := s.deviceWrite base (s.headerBytes t)
  let s' := s'.deviceWrite (base + 0x240) t.presenceBytes
  let s' := s'.deviceWrite (base + 0x1000) (sbytes t.scratch 0 (65536 * t.granules))
  s'.writeGroups live stop (base + 0x1000 + 65536 * t.granules) groups

/-- The bytes of a group record, by its header and its saved set. -/
def recordLen (tiles accs regs : Nat) : Nat := 0xF00 + 2048 * tiles + 16384 * accs + 128 * regs

/-- Where the save area of a team that is to be saved ends. -/
def State.saveEnd (s : State) (t : Team) (base : Nat) : Nat :=
  let (live, stop) := match s.launch? t.launch with
    | some l => (l.live, l.textEnd)
    | none => ([], 0)
  (s.teamGroups t).foldl (fun a g => align128 (a + recordLen g.ntiles g.naccs (s.savedSet g live stop).length))
    (base + 0x1000 + 65536 * t.granules)

/-- What stays outside the save area. -/
def State.savedGroup (s : State) (g : Group) : SavedGroup :=
  { groupId := g.groupId, txn := g.txn.map Txn.snap, rets := g.lanes.map Lane.rets
    parked := g.lanes.map (fun l => (l.st, s.pcOff g l.after)), issues := g.lanes.map Lane.issue
    relScope := g.relScope }

/-- A team as it stands saved; each held job with the GROUPID of its group as its slot. -/
def State.savedTeam (s : State) (t : Team) : SavedTeam :=
  let gs := s.groupsOf t.id
  let gid := fun (slot : Nat) => match gs.find? (fun g => g.slot = slot) with | some g => g.groupId | none => 0xFF
  { launch := t.launch, team := { t with scratch := [] }, groups := gs.map s.savedGroup
    jobs := (s.jobs.filter (fun j => j.team = t.id)).map (fun j => { j with slot := gid j.slot }) }

/-- The status bits of the save engine. -/
def State.saveStat (s : State) (core : Nat) (noFit unreadable : Bool) : State :=
  s.modCore core (fun c => { c with saveBusy := true, saveNoFit := noFit, saveUnreadable := unreadable })

/-- The team of a SAVECTL write. -/
def State.saveTarget (s : State) (core : Nat) (v : DWord) : Option Team :=
  (s.group? core (bits v.toNat 3 0)).bind s.teamOf

/-- Whether a team may be saved: its core's drains are done, and those of every core of its gang, whose stores to its
window are then performed (R208, R236); and every job of its context that is not held is complete, one whose gate has opened
since among them (R288). -/
def State.canSave (s : State) (t : Team) : Bool :=
  let c := t.ctx.ctxid
  s.drained.contains (t.core, c)
    && s.teams.all (fun u => u.launch ≠ t.launch || u.gang ≠ t.gang || s.drained.contains (u.core, c))
    && s.jobs.all (fun j => j.ctx.ctxid ≠ c || s.jobHeld j)

/-- SAVECTL_SAVE (R326): the team is written to the save area and leaves its core. -/
def execSavectlSave (core : Nat) (v : DWord) (s : State) : Outcome State Fault Refusal :=
  let base := (s.coreBlock core).savePtr.toNat
  match s.saveTarget core v with
  | none => .next s
  | some t =>
    if v.getLsbD 8 || v.getLsbD 9 || (s.coreBlock core).saveBusy || !s.canSave t then .next s
    else if !s.backed base || s.framesLost base (s.saveEnd t base - base) then .next (s.saveStat core false true)
    else
      let st := { s.savedTeam t with area := base }
      let s := (s.writeTeam t base).dropTeam t
      let s := { s with savedTeams := s.savedTeams ++ [st], jobs := s.jobs.filter (fun j => j.team ≠ t.id) }
      .next (s.refreshWaits.saveStat core false false)

/-! ## Restore (R62, R315, R327) -/

/-- A clasp from its two words; `c` gives its declaration, and the timer restarts. -/
def loadClasp (c : Clasp) (b : List Byte) : Clasp :=
  let w1 := field b 8 8
  { c with
    arr := BitVec.ofNat 32 (field b 0 4), exp := BitVec.ofNat 32 (field b 4 4)
    pend := (BitVec.ofNat 36 w1).toInt, phase := bitN w1 36, failed := bitN w1 37, fcode := bits w1 42 40, timer := 0 }

/-- Clasps from the bytes of their words. -/
def loadClasps (cs : List Clasp) (b : List Byte) : List Clasp :=
  (number 0 cs).map (fun e => loadClasp e.2 (slice b (16 * e.1) 16))

/-- A service record from its bytes (R305). -/
def loadRecord (b : List Byte) (fwd : Bool) : SvcRecord :=
  { code := BitVec.ofNat 8 (field b 0 1), kind := BitVec.ofNat 8 (field b 1 1), sub := BitVec.ofNat 8 (field b 8 1)
    areg := BitVec.ofNat 16 (field b 12 2), teamLin := BitVec.ofNat 32 (field b 16 4), mates := BitVec.ofNat 32 (field b 20 4)
    ctxid := BitVec.ofNat 32 (field b 24 4), seq := BitVec.ofNat 32 (field b 28 4), pcoff := BitVec.ofNat 32 (field b 32 4)
    arg := BitVec.ofNat 32 (field b 36 4), addr := BitVec.ofNat 64 (field b 40 8), auxa := BitVec.ofNat 64 (field b 48 8)
    auxb := BitVec.ofNat 64 (field b 56 8), fwd := fwd }

/-- The lane state of a lane entry: what its park holds comes from the kept details where they are of the same cause; a
lane whose details are lost runs again at its PC, where its wait is evaluated afresh. -/
def loadLaneState (st cause : Nat) (kept : LaneState) : LaneState :=
  match st with
  | 0 => .none
  | 1 => .run
  | 2 => if laneCode kept = (2, cause) then kept else if cause = 1 then .park .fault else if cause = 2 then .park .syscall else .run
  | _ => .exit

/-- A lane from its entry, its record and its wait bits. -/
def loadLane (text : DWord) (b rec' wb : List Byte) (kept : LaneState × Word) (rets : List Word) (issue : Word) : Lane :=
  let st := loadLaneState (field b 4 1) (field b 5 1) kept.1
  let fwd := bitN (field b 14 1) 0 && field rec' 0 1 = 0x11
  let svc := if st = .park .fault ∨ st = .park .syscall then some (loadRecord rec' fwd) else none
  { st := st, pc := text + BitVec.ofNat 64 (field b 0 4), yield := field b 6 1, rets := rets.take (field b 7 1)
    seq := BitVec.ofNat 32 (field b 8 4), preds := BitVec.ofNat 7 (field b 12 1), flags := BitVec.ofNat 5 (field b 13 1)
    wbits := BitVec.ofNat 44 (leNat wb), after := text + kept.2.setWidth 64, issue := issue, svc := svc }

/-- The registers of a saved set, from the bytes that follow it. -/
def loadRegs (set : Nat) (alloc : Nat) (b : List Byte) : SMap 32 :=
  let regs := (List.range (4 * alloc)).filter (fun a => bitN set a)
  ssets [] ((number 0 regs).flatMap (fun e => (List.range 32).map (fun j =>
    (32 * e.2 + j, (BitVec.ofNat 32 (field b (128 * e.1 + 4 * j) 4) : Word)))))

/-- A group from its record, and the length of the record. -/
def loadGroup' (t : Team) (l : Launch) (kept : List SavedGroup) (b : List Byte) : Group × Nat :=
  let gid := field b 5 1
  let k := (kept.find? (fun k => k.groupId = gid)).getD ⟨gid, none, [], [], [], 0⟩
  let alloc := field b 2 1
  let tiles := field b 6 1
  let accs := field b 7 1
  let set := field b 0xE68 64
  let tileAt := 0xF00
  let accAt := tileAt + 2048 * tiles
  let regAt := accAt + 16384 * accs
  let nregs := ((List.range (4 * alloc)).filter (fun a => bitN set a)).length
  let lane := fun (j : Nat) => loadLane t.textBase (slice b (0x10 + 16 * j) 16) (slice b (0x668 + 64 * j) 64)
    (slice b (0x568 + 8 * j) 8) (k.parked.getD j (.none, 0)) (k.rets.getD j []) (k.issues.getD j 0)
  let g : Group :=
    { core := t.core, slot := 0, team := some t.id, groupId := gid, roleId := field b 3 1, roleGrp := field b 4 1
      lanes := (List.range 32).map lane, alloc := alloc, wbase := field b 0 2
      v := loadRegs set alloc (b.drop regAt)
      s := ssets [] ((List.range 63).map (fun n => (n, (BitVec.ofNat 64 (field b (0x210 + 8 * n) 8) : DWord))))
      ntiles := tiles, naccs := accs
      t := ssets [] (number 0 (slice b tileAt (2048 * tiles)))
      m := ssets [] ((List.range (4096 * accs)).map (fun i => (i, (BitVec.ofNat 32 (field b (accAt + 4 * i) 4) : Word))))
      g := ssets [] ((List.range 8).map (fun n => (n, mapMask (BitVec.ofNat 64 (field b (0x410 + 8 * n) 8)))))
      q := (List.range 4).map (fun n => BitVec.ofNat 160 (field b (0x450 + 20 * n) 20))
      n := (List.range 4).map (fun n => BitVec.ofNat 144 (field b (0x4A0 + 18 * n) 18))
      lc := (List.range 3).map (fun n =>
        { count := BitVec.ofNat 32 (field b (0x4E8 + 16 * n) 4)
          start := t.textBase + BitVec.ofNat 64 (field b (0x4EC + 16 * n) 4)
          stop := t.textBase + BitVec.ofNat 64 (field b (0x4F0 + 16 * n) 4) })
      fpctl := BitVec.ofNat 64 (field b 0x518 8) &&& 3, burst := BitVec.ofNat 64 (field b 0x520 8)
      clasps := loadClasps (declareClasps l.claspTable 0 4) (slice b 0x528 64)
      txn := k.txn.map (fun n => ({ snap := n, doomed := true } : Txn)), relScope := k.relScope }
  (g, regAt + 128 * nregs)

/-- The bytes of the longest group record: 8 tiles, 8 accumulators, 512 registers. -/
def maxGroupBytes : Nat := 0xF00 + 8 * 2048 + 8 * 16384 + 512 * 128

/-- The bytes of the group record that a header starts. -/
def savedLen (b : List Byte) : Nat :=
  recordLen (field b 6 1) (field b 7 1) ((List.range (4 * field b 2 1)).filter (fun a => bitN (field b 0xE68 64) a)).length

/-- Where n group records from an address on end. -/
def State.recordsEnd (s : State) : Nat → Nat → Nat
  | 0, a => a
  | n + 1, a => s.recordsEnd n (align128 (a + savedLen (s.deviceBytes a 0xF00)))

/-- The bytes of the save area that a header starts (R326). -/
def State.areaLen (s : State) (base : Nat) (b : List Byte) : Nat :=
  s.recordsEnd (field b 13 1) (base + 0x1000 + 65536 * field b 14 1) - base

/-- FWD of the lane entries of a group record is cleared: its records are re-delivered (R327). -/
def State.clearFwd (s : State) (a : Nat) (g : Group) : State :=
  (number 0 g.lanes).foldl (fun s e => match e.2.svc with
    | some r => if r.fwd then s.deviceWrite (a + 0x1E + 16 * e.1) [BitVec.ofNat 8 (s.deviceNum (a + 0x1E + 16 * e.1) 1 / 2 * 2)] else s
    | none => s) s

/-- Loads the group records one after another, each into the next slot. -/
def State.loadGroups (s : State) (t : Team) (l : Launch) (kept : List SavedGroup) : Nat → Nat → State
  | 0, _ => s
  | n + 1, a =>
    let b := (s.homeRead a maxGroupBytes).1
    let (g, len) := loadGroup' t l kept b
    let s := s.clearFwd a g
    let s' := match s.nextSlot t.core with
      | some slot => s.receive t.core slot (bitN (field b 8 1) 0) g
      | none => s
    s'.loadGroups t l kept n (align128 (a + len))

/-- Delivers the records of a restored group afresh. -/
def State.redeliver (s : State) (g : Group) : State :=
  (number 0 g.lanes).foldl (fun s e => match e.2.svc with
    | some r => s.deliver g.core g.slot e.1 r
    | none => s) s

/-- Tests the clasp waits of a restored group afresh (R296). -/
def State.retestClasps (s : State) (g : Group) : State :=
  let refs := dedup ((List.range 32).filterMap (fun j => match (g.lane j).st with
    | .park (.clasp k _) => s.claspRef g k
    | _ => none))
  refs.foldl (fun s r =>
    match s.clasp? r, s.group? g.core g.slot with
    | some c, some h =>
      let ls := (s.parkedOn h r).filter (fun e => c.failed || (h.lane e.1).wbits.getLsbD (waitBit e.2.1) != c.phase)
      if ls.isEmpty then s else s.releaseGroup c h ls
    | _, _ => s) s

/-- The saved team that a save area's header names. Of several, teams of different launches of a context, it is the one that
was saved into this area last, and the first where the area has been moved (log 42). -/
def State.savedFor (s : State) (base : Nat) (b : List Byte) : Option SavedTeam :=
  let named := s.savedTeams.filter (fun st =>
    st.team.ctx.ctxid.toNat = field b 0 4 && st.team.lin = field b 4 4 && st.team.gang = field b 8 4)
  ((named.filter (fun st => st.area = base)).getLast?).or named.head?

/-- What a saved team reserves when it returns: slots for the groups it has left. -/
def restoreNeed (b : List Byte) (t : Team) : Need :=
  { slots := field b 13 1, regs := t.reserved, tiles := t.tiles * t.ngroups, accs := t.accs * t.ngroups
    scratch := field b 14 1, copyq := field b 15 1, clasps := (t.clasps.filter Clasp.declared).length }

/-- The absent lines of a restored scratchpad: a line whose clearing entry belongs to one of the jobs is that job's still
(R212, R288); every other was left by a failed copy. -/
def SavedTeam.absentLines (st : SavedTeam) (jobs : List Job) (present : Nat → Bool) (n : Nat) : List AbsentLine :=
  ((List.range n).filter (fun i => !present i)).map (fun i =>
    (st.team.absent.find? (fun a => a.line = i && !a.left && jobs.any (fun j => j.id = a.entry))).getD
      { line := i, entry := 0, left := true })

/-- The jobs that may be yet to write a saved team's scratchpad: its own and those of its gang, saved or not (R212, R288). -/
def State.keptJobs (s : State) (st : SavedTeam) : List Job := st.jobs ++ s.allJobs

/-- Whether a saved team's gang keeps to distinct cores of one cluster when the team returns to a core (R62), and the
cluster takes it (R215). -/
def State.gangFits (s : State) (t : Team) (core : Nat) : Bool :=
  s.teams.all (fun u => u.launch ≠ t.launch || u.gang ≠ t.gang || (u.core ≠ core && u.core / 32 = core / 32))
    && s.fuseOk t.fuse core

/-- Places a saved team on a core. The pool's granules above a byte do not stand in the save area, and are kept beside it
(R62, log 64). -/
def State.restoreTeam (s : State) (core base : Nat) (b : List Byte) (st : SavedTeam) (l : Launch) : State :=
  let scratch := field b 14 1
  let pres := (s.homeRead (base + 0x240) (64 * scratch)).1
  let jobs := s.keptJobs st
  let t : Team := { st.team with
    core := core, ctx := s.readCtx st.team.ctx.addr, pool := st.team.pool / 256 * 256 + field b 16 1, granules := scratch, copyq := field b 15 1
    claims := [], scratch := ssets [] (number 0 (s.homeRead (base + 0x1000) (65536 * scratch)).1)
    absent := st.absentLines jobs (fun i => (pres.getD (i / 8) 0).getLsbD (i % 8)) (512 * scratch)
    clasps := loadClasps st.team.clasps (slice b 0x40 256) }
  let s := (s.readRange st.team.ctx.addr 256).makeRoom core t.fuse scratch
  let s := s.modContext t.ctx.ctxid (fun c => { c with vsSize := t.ctx.vsSize })
  let s := { s with
    teams := s.teams ++ [t]
    savedTeams := s.savedTeams.filter (fun u => !(u.launch = st.launch && u.team.id = t.id))
    gangs := s.gangs.map (fun (g : Gang) =>
        if g.launch = t.launch ∧ g.idx = t.gang then
          { g with clasps := if t.rank = 0 then loadClasps g.clasps (slice b 0x140 256)
              else g.clasps.map (fun (c : Clasp) => { c with timer := 0 }) }
        else g) }
  let s := s.fitL1 core
  let s := s.loadGroups t l st.groups (field b 13 1) (base + 0x1000 + 65536 * scratch)
  let slotOf := fun (gid : Nat) => ((s.groupsOf t.id).find? (fun (g : Group) => g.groupId = gid)).map Group.slot
  let claims := (List.range 15).filterMap (fun i =>
    (slotOf (field b (20 + i) 1)).map (fun sl => (sl, field b (35 + i) 1)))
  let s := s.modTeam t.id (fun t => { t with claims := claims })
  let s := st.jobs.foldl (fun s j =>
    let sl := (slotOf j.slot).getD 0
    { s with jobs := s.jobs ++ [{ j with core := core, slot := sl, gen := s.gen core sl, entry := s.freeEntry core, ctx := t.ctx }] }) s
  let gs := s.teamGroups t
  let s := gs.foldl State.redeliver s
  (gs.foldl State.retestClasps s).wakePresence

/-- SAVECTL_RESTORE (R327): the team whose save area SAVEPTR names is placed on a core that fits it. An area whose reading
meets a lasting error is unreadable, and its frame is retired (R328). -/
def execSavectlRestore (core : Nat) (v : DWord) (s : State) : Outcome State Fault Refusal :=
  let base := (s.coreBlock core).savePtr.toNat
  if !v.getLsbD 8 || v.getLsbD 9 || (s.coreBlock core).saveBusy || s.ncores ≤ core then .next s
  else
    let b := s.deviceBytes base 0x240
    if field b 18 1 / 16 ≠ 1 ∨ (s.badIn base 0x240).isSome then .next ((s.readRange base 0x240).saveStat core false true)
    else match s.savedFor base b with
      | none => .next (s.saveStat core false true)
      | some st =>
        match s.launch? st.launch with
        | none => .next (s.saveStat core false true)
        | some l =>
          let n := s.areaLen base b
          if (s.badIn base n).isSome then .next ((s.readRange base n).saveStat core false true)
          else if fits s.freeOf (restoreNeed b st.team) [] core && s.gangFits st.team core then
            .next (((s.readRange base n).restoreTeam core base b st l).refreshWaits.saveStat core false false)
          else .next (s.saveStat core true false)

/-- SAVECTL_DISCARD (R63): the launch will complete with FAULTED. -/
def execSavectlDiscard (core : Nat) (v : DWord) (s : State) : Outcome State Fault Refusal :=
  match s.saveTarget core v with
  | none => .next s
  | some t =>
    if !v.getLsbD 9 then .next s
    else .next ((((s.discardTeam t 5).dropSaved t.launch).settleLaunches).refreshWaits)

/-- SAVE_COMPLETE: SAVESTAT busy clears. -/
def execSaveComplete (core : Nat) (s : State) : Outcome State Fault Refusal :=
  .next (s.modCore core (fun c => { c with saveBusy := false }))

/-! ## The signet queue, invalidations (R314, R317, R323) -/

/-- SQPOP: the next unread record index, or 0xFFFF_FFFF. -/
def execSqpop (cluster : Nat) (s : State) : Outcome State Fault Refusal :=
  match if s.halted then [] else (s.tu cluster).unread with
  | i :: r => .next { (s.modTu cluster (fun t => { t with unread := r })) with busRead := BitVec.ofNat 64 i }
  | [] => .next { s with busRead := 0xFFFFFFFF }

/-- The machine external interrupt of a cluster's signet core: pending while records are unread, and at the boot signet
core while a host event is pending (R314, R363). -/
def State.signetIrq (s : State) (cluster : Nat) : Bool :=
  !(s.tu cluster).unread.isEmpty || (cluster = 0 && !s.hostEvents.isEmpty)

/-- INVCMD: an invalidation at the address in INVADDR; INVSTAT reads busy until every access made so far is performed. Its
reserved bits are ignored (R3); an invalid SCOPE does nothing. -/
def execInvcmd (cluster : Nat) (v : DWord) (s : State) : Outcome State Fault Refusal :=
  if s.halted ∨ s.nclusters ≤ cluster ∨ 2 < invScope v then .next s
  else .next ((s.dropTlb (s.tu cluster).invAddr v).modTu cluster (fun t => { t with invUpto := s.nextId }))

/-! ## The address-range table (R219 to R221) -/

/-- The words of an ART entry. -/
def State.artWord (s : State) (die n w : Nat) : Nat := (sget s.art (128 * die + 2 * n + w)).toNat

/-- Writes a word of an ART entry. -/
def State.setArt (s : State) (die n w : Nat) (v : DWord) : State := { s with art := sset s.art (128 * die + 2 * n + w) v }

/-- Whether two pages and everything between lie on one stack that is present (R205). -/
def State.pagesBacked (s : State) (lo hi : Nat) : Bool :=
  lo ≤ hi && s.backed (4096 * lo) && s.backed (4096 * hi) && lo / 2 ^ 24 = hi / 2 ^ 24

/-- The bytes that a VALID pinned entry pins in a slice of its die. -/
def pinnedIn (w0 w1 sl : Nat) : Nat :=
  if bitN w0 62 && bits w0 61 55 ≤ sl && sl < bits w0 61 55 + 2 ^ bits w0 54 52 then
    (bits w1 26 0 + 1 - bits w0 26 0) * 4096 / 2 ^ bits w0 54 52
  else 0

/-- The checks of a commit (R220, R221). -/
def State.artOk (s : State) (die n w0 w1 : Nat) : Bool :=
  let lo := bits w0 26 0
  let hi := bits w1 26 0
  let others := (List.range 64).filter (fun m => m ≠ n && bitN (s.artWord die m 0) 63)
  s.pagesBacked lo hi && lo / 2 ^ 26 = die
    && bits w0 61 55 + 2 ^ bits w0 54 52 ≤ 128 && 7 ≤ bits w0 51 47 && bits w0 51 47 ≤ 21
    && others.all (fun m => hi < bits (s.artWord die m 0) 26 0 || bits (s.artWord die m 1) 26 0 < lo)
    && (List.range 128).all (fun sl =>
        let new := pinnedIn w0 w1 sl
        new = 0 || sumOf (fun m => pinnedIn (s.artWord die m 0) (s.artWord die m 1) sl) others + new ≤ 5 * 2 ^ 20)

/-- Word 0 without its reserved bits [46:27]. -/
def artMask (v : DWord) : DWord := v &&& 0xFFFF800007FFFFFF

/-- ART_COMMIT. -/
def execArtCommit (die entry : Nat) (v : DWord) (s : State) : Outcome State Fault Refusal :=
  if s.halted ∨ s.dies ≤ die ∨ 64 ≤ entry ∨ !v.getLsbD 63 ∨ bitN (s.artWord die entry 0) 63 then .next s
  else if s.artOk die entry v.toNat (s.artWord die entry 1) then .next (s.setArt die entry 0 (artMask v))
  else .next (s.setArt die entry 0 (artMask v &&& 0x7FFFFFFFFFFFFFFF))

/-- ART_CLEAR: the accesses to the range then find the default hash. -/
def execArtClear (die entry : Nat) (v : DWord) (s : State) : Outcome State Fault Refusal :=
  if s.halted ∨ s.dies ≤ die ∨ 64 ≤ entry ∨ v.getLsbD 63 then .next s else .next (s.setArt die entry 0 (artMask v))

/-! ## Inbound entries (R371) -/

/-- The words of an inbound entry. -/
def State.inbWord (s : State) (n w : Nat) : Nat := (sget s.inb (2 * n + w)).toNat

/-- Writes a word of an inbound entry. -/
def State.setInb (s : State) (n w : Nat) (v : DWord) : State := { s with inb := sset s.inb (2 * n + w) v }

/-- Word 0 without its reserved bits [60:59] and [49:27]. -/
def inbMask (v : DWord) : DWord := v &&& 0xE7FC000007FFFFFF

/-- INB_COMMIT. -/
def execInbCommit (entry : Nat) (v : DWord) (s : State) : Outcome State Fault Refusal :=
  if s.halted ∨ 256 ≤ entry ∨ !v.getLsbD 63 ∨ bitN (s.inbWord entry 0) 63 then .next s
  else if s.pagesBacked (bits v.toNat 26 0) (bits (s.inbWord entry 1) 26 0) then .next (s.setInb entry 0 (inbMask v))
  else .next (s.setInb entry 0 (inbMask v &&& 0x7FFFFFFFFFFFFFFF))

/-- INB_CLEAR. -/
def execInbClear (entry : Nat) (v : DWord) (s : State) : Outcome State Fault Refusal :=
  if s.halted ∨ 256 ≤ entry ∨ v.getLsbD 63 then .next s else .next (s.setInb entry 0 (inbMask v))

/-! ## Errors of on-core storage (R328) -/

/-- The record of an on-core error at a lane. -/
def State.coreErrorRecord (s : State) (g : Group) (lane : Nat) : SvcRecord :=
  let l := g.lane lane
  { code := 0x0B, sub := 2, ctxid := s.ctxOf g, seq := l.seq + 1, pcoff := s.pcOff g l.pc, mates := maskOf (· = lane)
    teamLin := BitVec.ofNat 32 (match s.teamOf g with | some t => t.lin | none => 0) }

/-- The teams of a group's context on its core; the keeper has none. -/
def State.contextTeams (s : State) (g : Group) : List Team :=
  if g.keeper then [] else s.teams.filter (fun t => t.core = g.core && t.ctx.ctxid = s.ctxOf g)

/-- ON_CORE_ERROR: a correctable error is corrected and counted in the error log; at an uncorrectable one every team of
the context on the core is discarded, and the signet queue receives the record of the first affected lane. -/
def execOnCoreError (core slot : Nat) (err : CoreError) (s : State) : Outcome State Fault Refusal :=
  match s.group? core slot with
  | none => .next s
  | some g =>
    if 32 ≤ err.lane then .next s
    else if err.corrected then .next (s.elog 1 core 0)
    else
      let r := s.coreErrorRecord g err.lane
      let s := (s.contextTeams g).foldl (fun s t => (s.discardTeam t 5).dropSaved t.launch) s
      .next ((((s.deliver core slot err.lane r).elog 3 core 0).settleLaunches).refreshWaits)

end Sys2Proof.Machine
end

