-- ==== Sys2Proof/Machine/Front.lean ====
section
/-! DEFINITION. Front: the front complex: queues and their wake words (R332 to R334), packets, admission and launches (R335
to R350), continuation pools (R58, R59, R351, R352), dispatch and the ramp (R344, R353), pre-emption of a launch (R355,
R356), watchdogs, drains and destroys (R357 to R362). -/

namespace Sys2Proof.Machine

open Host (Outcome)

/-! ## Queue descriptors (R332) -/

/-- The fields of a queue descriptor. -/
structure QDesc where
  addr : Nat
  lsave : Nat
  report : Nat
  ring : Nat
  wake : Nat
  ctxdesc : Nat
  rdidx : Nat
  wdogus : Nat
  dlus : Nat
  part : Nat
  sizelog : Nat
  /-- The reserved bytes are zero. -/
  clean : Bool
  deriving DecidableEq, Repr

/-- The descriptor at an address. -/
def State.qdescAt (s : State) (a : Nat) : QDesc :=
  let b := s.deviceBytes a 64
  { addr := a, lsave := field b 56 8, report := field b 48 8, ring := field b 40 8, wake := field b 32 8
    ctxdesc := field b 24 8, rdidx := field b 20 4, wdogus := field b 16 4, dlus := field b 12 4, part := field b 10 2
    sizelog := field b 9 1, clean := field b 0 8 = 0 && field b 8 1 = 0 }

/-- The descriptor of a row. -/
def State.qdescOf (s : State) (q : Nat) : QDesc := s.qdescAt (s.row q).qdesc.toNat

/-- The checks of a commit on a descriptor (R343). -/
def State.qdescOk (s : State) (d : QDesc) : Bool :=
  4 ≤ d.sizelog && d.sizelog ≤ 16 && d.clean && d.ring % 4096 = 0 && d.wake % 4 = 0 && d.lsave % 1024 = 0
    && s.backed d.ring && s.backed d.wake && s.backed d.lsave && s.backed d.report && s.backed d.ctxdesc

/-- The place of packet i of a ring. -/
def QDesc.slot (d : QDesc) (i : Nat) : Nat := d.ring + 64 * (i % 2 ^ d.sizelog)

/-! ## The fetcher (R334, R340) -/

/-- The ready packets from a running count on, at most n. -/
def State.readyFrom (s : State) (d : QDesc) : Nat → Nat → List Prefetched
  | 0, _ => []
  | n + 1, i =>
    let b := s.deviceBytes (d.slot i) 64
    if field b 0 1 = 0 then []
    else { idx := BitVec.ofNat 32 i, bytes := b } :: s.readyFrom d n ((i + 1) % 2 ^ 32)

/-- Whether the fetcher reads for a row: no HOLD stands, and no destroy and no drain of the queue is under way. -/
def State.fetching (s : State) (r : Row) : Bool :=
  r.valid && !r.hold && !s.destroying.contains r.qdesc.toNat && !s.draining r.qdesc.toNat

/-- The homes recall a queue's descriptor and n slots of its ring from RDIDX on, which the fetcher reads (R224). -/
def State.recallSlots (s : State) (d : QDesc) (n : Nat) : State :=
  (List.range n).foldl (fun s i => s.readRange (d.slot (d.rdidx + i)) 64) (s.readRange d.addr 64)

/-- A scan of the ring from RDIDX: at most 16 packets are held. -/
def State.scan (s : State) (q : Nat) : State :=
  let d := s.qdescOf q
  if s.fetching (s.row q) then
    let ps := s.readyFrom d 16 d.rdidx
    (s.recallSlots d (ps.length + 1)).modRow q (fun r => { r with prefetched := ps })
  else s

/-- The wake word of a queue. -/
def State.wakeWord (s : State) (d : QDesc) : Word := BitVec.ofNat 32 (s.deviceNum d.wake 4)

/-- The home recalls the line of a queue's wake word, on which a watch is registered (R224, R334). -/
def State.recallWake (s : State) (desc : Nat) : State := s.readRange (s.qdescAt desc).wake 4

/-- The slot's watch on the wake word is registered in the table of the word's home, which makes room for it (R254, R334). -/
def State.registerRow (s : State) (q : Nat) : State :=
  let s := s.recallWake (s.row q).qdesc.toNat
  let s := (s.modRow q (fun r => { r with watchEnded := true })).watchRoom (0, s.sliceOf (s.wakeAddr (s.row q).qdesc.toNat))
  { s.modRow q (fun r => { r with watch := true, watchEnded := false, woken := false, watchAge := s.nextId }) with
    nextId := s.nextId + 1 }

/-- Whether the watch on a row's wake word has completed: a write has made the word differ from NOTIFY, whatever the word
holds now, or a full table has ended it. -/
def State.rowWoken (s : State) (q : Nat) : Bool :=
  let r := s.row q
  r.valid && r.watch && (r.watchEnded || r.woken || s.wakeWord (s.qdescOf q) ≠ r.notify)

/-- Whether the arbiters let the front complex's access to some bytes be served in this step (R218, log 11). -/
def State.frontServed (s : State) (pa n : Nat) : Bool := s.unitServed unitCore s.time (linesAt pa n)

/-- QUEUE_WAKE: the watch on the wake word has completed. Where it came from a full table, it causes only a scan. -/
def execQueueWake (row : Nat) (s : State) : Outcome State Fault Refusal :=
  if s.rowWoken row && s.frontServed (s.qdescOf row).wake 4 then
    .next (((s.modRow row (fun r => { r with notify := s.wakeWord (s.qdescOf row) })).registerRow row).scan row)
  else .next s

/-- UNMAPPED_WAKE: the word of an unmapped queue differs, or a write has made it differ, from the value waited on. -/
def execUnmappedWake (desc : Nat) (s : State) : Outcome State Fault Refusal :=
  match s.unmapped.find? (fun u => u.desc = desc) with
  | none => .next s
  | some u =>
    if u.fired || !(u.woken || s.wakeWord (s.qdescAt desc) ≠ u.notify) then .next s
    else .next (({ s with unmapped := s.unmapped.map (fun (v : Unmapped) => if v.desc = desc then { v with fired := true } else v) }).pushEvent
      1 false desc)

/-! ## Rows (R334, R340, R341, R343) -/

/-- Whether CORES names only present cores (R30). -/
def State.coresPresent (s : State) (m : BitVec 256) : Bool := (m >>> s.ncores) = 0

/-- Whether a row may commit. -/
def State.canCommit (s : State) (q : Nat) : Bool :=
  let r := s.row q
  !s.halted && r.cores ≠ 0 && s.coresPresent r.cores && (s.rowOf r.qdesc.toNat).isNone && s.qdescOk (s.qdescOf q)

/-- ROW_COMMIT: a write of CTL with VALID = 1 to a row that is not VALID. A refused commit leaves VALID clear. -/
def execRowCommit (row : Nat) (ctl : DWord) (s : State) : Outcome State Fault Refusal :=
  if 128 ≤ row ∨ !ctl.getLsbD 0 ∨ (s.row row).valid then .next s
  else
    let ok := s.canCommit row
    let d := (s.row row).qdesc.toNat
    let wake := s.wakeWord (s.qdescAt d)
    let s := s.modRow row (fun r => { r with
      hold := ctl.getLsbD 1, preempt := ctl.getLsbD 2, reserve := ctl.getLsbD 3, band := (ctl >>> 4).setWidth 2
      valid := ok, notify := if ok then wake else r.notify, watch := false, lsaved := false })
    if ok then
      let s := { s.setWdog d 0 with unmapped := s.unmapped.filter (fun u => u.desc ≠ d) }
      .next (((s.registerRow row).scan row).refreshWaits)
    else .next s

/-- ROW_UNMAP: a write of CTL with VALID = 0 to a VALID row; refused with WATCHFULL when no unmapped watch is free. A wake
that the slot's watch has seen, and that no scan has followed, is the unmapped watch's (R334, R362). -/
def execRowUnmap (row : Nat) (ctl : DWord) (s : State) : Outcome State Fault Refusal :=
  let r := s.row row
  let d := r.qdesc.toNat
  if 128 ≤ row ∨ ctl.getLsbD 0 ∨ !r.valid then .next s
  else if 4096 ≤ s.unmapped.length then .next (s.pushEvent 5 false d)
  else
    let s := (s.recallWake d).modRow row (fun r => { r with
      hold := ctl.getLsbD 1, preempt := ctl.getLsbD 2, reserve := ctl.getLsbD 3, band := (ctl >>> 4).setWidth 2
      valid := false, watch := false, woken := false, prefetched := [] })
    let u : Unmapped := { desc := d, notify := r.notify, woken := r.watch && r.woken }
    .next ({ s with unmapped := s.unmapped ++ [u] }.refreshWaits)

/-- HOLD_CLEAR in a VALID row: the ring is scanned at once. -/
def execHoldClear (row : Nat) (s : State) : Outcome State Fault Refusal :=
  if (s.row row).valid && (s.row row).hold then .next ((s.modRow row (fun r => { r with hold := false })).scan row)
  else .next s

/-- HOLD_SET in a VALID row. -/
def execHoldSet (row : Nat) (s : State) : Outcome State Fault Refusal :=
  if (s.row row).valid then .next (s.modRow row (fun r => { r with hold := true })) else .next s

/-- EVPOP: the next event, or all ones. -/
def execEvpop (s : State) : Outcome State Fault Refusal :=
  match if s.halted then [] else s.events with
  | e :: r => .next { s with events := r, busRead := e }
  | [] => .next { s with busRead := 0xFFFFFFFFFFFFFFFF }

/-! ## Issue of packets (R335, R340, R341) -/

/-- A header's TYPE, BAR, and whether it is one of R335. -/
def hdrType (b : List Byte) : Nat := field b 0 1
def hdrBar (b : List Byte) : Bool := bitN (field b 0 8) 17
def hdrOk (b : List Byte) : Bool :=
  1 ≤ hdrType b && hdrType b ≤ 4 && bits (field b 0 8) 31 18 = 0 && bits (field b 0 8) 16 8 = 0

/-- The packet at the issue point of a row: the prepared bytes while the header is unchanged, else the packet anew; none
while nothing is prepared or the slot is not ready. -/
def State.headPacket (s : State) (q : Nat) : Option (Word × List Byte) :=
  let d := s.qdescOf q
  match (s.row q).prefetched with
  | [] => none
  | p :: _ =>
    let b := s.deviceBytes (d.slot d.rdidx) 64
    if p.idx.toNat ≠ d.rdidx ∨ hdrType b = 0 then none
    else if field p.bytes 0 8 = field b 0 8 then some (p.idx, p.bytes)
    else some (p.idx, b)

/-- Whether the header at the issue point, read again, has TYPE 0: the preparation is discarded, and the fetcher waits until
a packet is ready there (R340). -/
def State.headGone (s : State) (q : Nat) : Bool :=
  let d := s.qdescOf q
  s.fetching (s.row q) && !(s.row q).prefetched.isEmpty && hdrType (s.deviceBytes (d.slot d.rdidx) 64) = 0

/-- The packets of a queue that have issued and not completed. -/
def State.inFlight (s : State) (desc : Nat) : List Packet := s.packets.filter (fun p => p.desc = desc)

/-- Whether a packet of a row may issue. -/
def State.mayIssue (s : State) (q : Nat) (b : List Byte) : Bool :=
  let r := s.row q
  let d := r.qdesc.toNat
  let mine := s.inFlight d
  s.fetching r && !r.preempt && (!hdrBar b || mine.isEmpty) && !mine.any (fun p => p.typ = 3)
    && (!(hdrOk b && hdrType b ≤ 2) || (mine.filter (fun p => p.launch.isSome)).length < 4)
    && (!(hdrOk b && hdrType b = 2) || (s.launches.filter (fun l => l.pool.isSome)).length < 8)

/-- SIGADDR of a packet by its TYPE; none for an undefined TYPE. -/
def sigAddr (b : List Byte) : DWord :=
  match hdrType b with
  | 1 => BitVec.ofNat 64 (field b 40 8)
  | 2 => BitVec.ofNat 64 (field b 48 8)
  | 3 => BitVec.ofNat 64 (field b 40 8)
  | 4 => BitVec.ofNat 64 (field b 40 8)
  | _ => 0

/-- Consumes the packet at RDIDX: 0 over its header, RDIDX advances. -/
def State.consume (s : State) (d : QDesc) : State :=
  let s := s.deviceWrite (d.slot d.rdidx) (leBytes 8 0)
  s.deviceWrite (d.addr + 20) (leBytes 4 ((d.rdidx + 1) % 2 ^ 32))

/-- A packet as it stands issued. -/
def State.packetOf (s : State) (d : QDesc) (row : Nat) (idx : Word) (b : List Byte) : Packet :=
  { id := s.nextId, desc := d.addr, row := row, idx := idx, typ := BitVec.ofNat 8 (hdrType b), signal := sigAddr b
    ctx := s.readCtx d.ctxdesc
    sigs := if hdrType b = 3 then
        ([8, 16, 24, 32].map (fun o => (BitVec.ofNat 64 (field b o 8) : DWord))).filter (fun a => a ≠ 0)
      else [] }

/-- Issues the packet of a row: it stands in flight, the ring slot is free again, and the fetcher reads on. -/
def State.issuePacket (s : State) (row : Nat) (idx : Word) (b : List Byte) : Packet × State :=
  let d := s.qdescOf row
  let p := s.packetOf d row idx b
  let s := ((s.readRange (d.slot d.rdidx) 64).readRange d.ctxdesc 256).consume d
  (p, ({ s with nextId := s.nextId + 1, packets := s.packets ++ [p] }).scan row)

/-- A step that issues the packet of a row, where its header passes a test and it may issue. -/
def State.onPacket (s : State) (row : Nat) (test : List Byte → Bool) (f : State → Packet → List Byte → State) :
    Outcome State Fault Refusal :=
  match s.headPacket row with
  | none => .next (if s.headGone row then
      (s.readRange ((s.qdescOf row).slot (s.qdescOf row).rdidx) 64).modRow row (fun r => { r with prefetched := [] })
    else s)
  | some (idx, b) =>
    if test b && s.mayIssue row b && s.frontServed ((s.qdescOf row).slot (s.qdescOf row).rdidx) 64 then
      let (p, s) := s.issuePacket row idx b
      .next (((f s p b).settleLaunches).refreshWaits)
    else .next s

/-- BADPKT: a header with a reserved field or an undefined TYPE completes at once with 0x10. -/
def execBadpkt (row : Nat) (s : State) : Outcome State Fault Refusal :=
  s.onPacket row (fun b => !hdrOk b) (fun s p _ => s.completePacket p 0x10 0 0)

/-! ## Admission (R346) -/

/-- Whether an address of a packet is aligned and translates with its rights; an unused one passes. -/
def State.addrOk (s : State) (c : CtxDesc) (va : DWord) (align : Nat) (acc : Access) (unused : Bool) : Bool :=
  (unused && va = 0) || (va.toNat % align = 0 && (s.frontPlace c va 8 acc).isSome)

/-- The addresses that check 2 of a packet tests, with their alignments and rights; whether one may be unused. -/
def packetAddrs (p : Packet) (b : List Byte) : List (DWord × Nat × Access × Bool) :=
  let va := fun (o : Nat) => BitVec.ofNat 64 (field b o 8)
  (p.signal, 8, { w := true }, true) :: (match hdrType b with
    | 1 => [(va 8, 128, { r := true }, false)]
    | 2 => [(va 8, 128, { r := true }, false), (va 32, 16, { r := true, w := true }, false), (va 24, 16, { r := true }, false)]
    | _ => p.sigs.map (fun a => (a, 8, { r := true }, false)))

/-- Check 2 of a packet. -/
def State.addrsOk (s : State) (p : Packet) (b : List Byte) : Bool :=
  (packetAddrs p b).all (fun e => s.addrOk p.ctx e.1 e.2.1 e.2.2.1 e.2.2.2)

/-- The walks of check 2 (R224, R328). -/
def State.addrsWalked (s : State) (p : Packet) (b : List Byte) : State :=
  (packetAddrs p b).foldl (fun s e =>
    if e.2.2.2 && e.1 = 0 || e.1.toNat % e.2.1 ≠ 0 then s else s.walked .none p.ctx e.1) s

/-- Bytes that the front complex reads at a virtual address, a word at a time; none where one does not translate. -/
def State.frontBytes (s : State) (c : CtxDesc) (va : DWord) : Nat → Option (List Byte)
  | 0 => some []
  | n + 1 =>
    match s.frontPlace c va 4 { r := true } with
    | none => none
    | some p =>
      match s.frontBytes c (va + 4) n with
      | none => none
      | some r => some ((if p.space = .mem then s.recall (p.addr / 128) else s).bytes p.space p.addr 4 ++ r)

/-- The homes have read n words at a virtual address for the front complex (R224, R328). -/
def State.recallFront (s : State) (c : CtxDesc) (va : DWord) (n : Nat) : State :=
  if s.upartials.isEmpty && s.faulty.isEmpty then s
  else (List.range n).foldl (fun s i =>
    let a := va + BitVec.ofNat 64 (4 * i)
    match s.frontPlace c a 4 { r := true } with
    | some p => if p.space = .mem then (s.walked .none c a).readRange p.addr 4 else s.walked .none c a
    | none => s.walked .none c a) s

/-- A role entry of a kernel descriptor (R100). -/
def roleOf (single : Bool) (b : List Byte) : Role :=
  { lanes := field b 0 2, budget := field b 2 1, producer := single || bitN (field b 3 1) 0 }

/-- The limits of R35 and R36 on roles. -/
def rolesOk (rs : List Role) : Bool :=
  1 ≤ rs.length && rs.length ≤ 4
    && rs.all (fun r => 1 ≤ r.lanes && r.lanes ≤ 480 && 1 ≤ r.budget && r.budget ≤ 128)
    && sumOf Role.groups rs ≤ 15 && (rs.filter Role.producer).length = 1

/-- A clasp entry names a clasp that exists and expects at least one arrival (R77, R289). -/
def claspEntryOk (e : Nat × Nat × Word) : Bool := e.1 < 4 && e.2.1 < [4, 16, 16, 8].getD e.1 0 && e.2.2 ≠ 0

/-- Check 5. -/
def Launch.sizesOk (l : Launch) : Bool :=
  let n := l.need
  rolesOk l.roles && n.regs ≤ 508 && l.scratch ≤ 11 && l.tiles ≤ 8 && l.accs ≤ 8 && n.tiles ≤ 64 && n.accs ≤ 64
    && l.copyq ≤ 32 && l.claspTable.all claspEntryOk && n.clasps ≤ 64

/-- Check 4. -/
def Launch.gridOk (l : Launch) : Bool :=
  1 ≤ l.gs && l.gs ≤ 32 && l.x * l.y * l.z < 2 ^ 32 && l.x * l.y * l.z % l.gs = 0
    && (l.pool.isNone || (match l.roles with | [r] => r.lanes = 32 | _ => false))

/-- Check 7: a unit, or the whole of a COOP grid, fits the allowed cores with nothing else resident. -/
def Launch.fitsEmpty (l : Launch) (r : Row) : Bool :=
  let units := if l.coop then l.x * l.y * l.z / max 1 l.gs else 1
  let cores := r.coreList
  units * l.gs ≤ 15 * cores.length && (placeUnits (fun _ => coreTotal) l.need l.gs cores units []).isSome

/-- The roles of a kernel descriptor. -/
def kernelRoles (k : List Byte) : List Role :=
  (List.range (field k 20 1)).map (fun i => roleOf (field k 20 1 = 1) (slice k (32 + 8 * i) 8))

/-- The clasp table of a kernel, in the data at an address: level, index, expected arrivals. -/
def State.kernelClasps (s : State) (c : CtxDesc) (data : DWord) (k : List Byte) : List (Nat × Nat × Word) :=
  let b := (s.frontBytes c (data + BitVec.ofNat 64 (field k 64 4)) (2 * field k 26 1)).getD []
  (List.range (field k 26 1)).map (fun i =>
    (field b (8 * i + 4) 1, field b (8 * i + 5) 1, BitVec.ofNat 32 (field b (8 * i) 4)))

/-- The liveness entries of a kernel (R101). -/
def State.kernelLive (s : State) (c : CtxDesc) (o : CodeObject) (h k : List Byte) : List (Nat × BitVec 128) :=
  let b := (s.frontBytes c (o.addr + BitVec.ofNat 64 (field h 32 4 + 20 * field k 68 4)) (5 * field k 72 4)).getD []
  (List.range (field k 72 4)).map (fun i => (field b (20 * i) 4, BitVec.ofNat 128 (field b (20 * i + 4) 16)))

/-- The fields of a kernel descriptor lie in their ranges: the numbers of R100, kernel data and clasp table within the data
region, its liveness entries within theirs, unused role entries zero; and its clasp table names clasps that exist (R77, R99,
R100). -/
def State.kernelInRange (s : State) (c : CtxDesc) (o : CodeObject) (h k : List Byte) : Bool :=
  let n := field k 20 1
  field k 4 4 % 128 = 0 && 1 ≤ n && n ≤ 4
    && (kernelRoles k).all (fun r => 1 ≤ r.lanes && r.lanes ≤ 480 && 1 ≤ r.budget && r.budget ≤ 128)
    && (slice k (32 + 8 * n) (8 * (4 - n))).all (· = 0)
    && field k 21 1 ≤ 8 && field k 22 1 ≤ 8 && field k 23 1 ≤ 11 && field k 24 1 ≤ 32 && field k 26 1 ≤ 44
    && field k 12 4 + field k 16 4 ≤ field h 28 4 && field k 64 4 + 8 * field k 26 1 ≤ field h 28 4
    && 20 * (field k 68 4 + field k 72 4) ≤ field h 36 4
    && (s.kernelClasps c (o.addr + BitVec.ofNat 64 (field h 24 4)) k).all claspEntryOk

/-- Liveness entries in strictly ascending PCOFF order. -/
def liveOrdered : List (Nat × BitVec 128) → Bool
  | a :: b :: r => a.1 < b.1 && liveOrdered (b :: r)
  | _ => true

/-- The code with which the loader rejects a code object, by what its bytes hold when it is to be registered; none where it
does not (R54, R99 to R102, R348). The order of the tests, which decides among several faults, and what an unreadable header or
kernel descriptor gives are the model's (log 51). -/
def State.loaderCode (s : State) (c : CtxDesc) (o : CodeObject) : Option Nat :=
  match s.frontBytes c o.addr 16 with
  | none => some 0x20
  | some h =>
    if field h 0 4 ≠ 0x4F5A4B47 ∨ field h 4 2 ≠ 1 then some 0x20
    else
      let n := field h 8 4
      let ds := (List.range n).map (fun i => s.frontBytes c (o.addr + BitVec.ofNat 64 (field h 12 4 + 128 * i)) 32)
      let ks := ds.filterMap id
      if o.addr.toNat % 128 ≠ 0 ∨ n = 0 ∨ 4096 < n ∨ field h 16 4 % 128 ≠ 0 ∨ field h 20 4 % 4 ≠ 0
          ∨ ds.any Option.isNone ∨ !ks.all (s.kernelInRange c o h) then some 0x21
      else if !ks.all (fun k => liveOrdered (s.kernelLive c o h k)) then some 0x22
      else if 1 < field h 6 1 / 16 then some 0x23
      else if ks.any (fun k => coreTotal.regs < sumOf (fun r => r.groups * r.budget) (kernelRoles k)) then some 0x24
      else none

/-- The registered code object at an address. The loader has tested it at its registration alone: what its bytes hold later
changes nothing of that (R348, log 51). -/
def State.registered (s : State) (c : CtxDesc) (addr : DWord) : Option CodeObject :=
  (s.context c.ctxid).objects.find? (fun o => o.addr = addr)

/-- The homes have read what one kernel of a code object names: the header, the kernel descriptor, the clasp table in the data
at an address, the liveness entries (R224, R328). -/
def State.recallKernel (s : State) (c : CtxDesc) (o : CodeObject) (data : DWord) (i : Nat) : State :=
  let h := (s.frontBytes c o.addr 16).getD []
  let at' := o.addr + BitVec.ofNat 64 (field h 12 4 + 128 * i)
  let k := (s.frontBytes c at' 32).getD []
  let s := (s.recallFront c o.addr 16).recallFront c at' 32
  let s := s.recallFront c (data + BitVec.ofNat 64 (field k 64 4)) (2 * field k 26 1)
  s.recallFront c (o.addr + BitVec.ofNat 64 (field h 32 4 + 20 * field k 68 4)) (5 * field k 72 4)

/-- The same of the kernel that a packet names. -/
def State.recallObject (s : State) (c : CtxDesc) (b : List Byte) : State :=
  match s.registered c (BitVec.ofNat 64 (field b 8 8)) with
  | none => s
  | some o => s.recallKernel c o o.data (field b 16 4)

/-- The launch that a packet asks for, from the code object it names: none for check 3. Where the header or the descriptor
cannot be read it is none too, and a clasp table or liveness entries that cannot be read count as zero bytes (log 63). A
RECLOG is taken as it stands (log 49). -/
def State.buildLaunch (s : State) (p : Packet) (d : QDesc) (b : List Byte) : Option Launch :=
  let kobj := BitVec.ofNat 64 (field b 8 8)
  let kidx := field b 16 4
  let pool := hdrType b = 2
  match s.registered p.ctx kobj with
  | none => none
  | some o =>
    match s.frontBytes p.ctx kobj 16 with
    | none => none
    | some h =>
      if field h 8 4 ≤ kidx then none
      else match s.frontBytes p.ctx (kobj + BitVec.ofNat 64 (field h 12 4 + 128 * kidx)) 32 with
        | none => none
        | some k =>
          let text := kobj + BitVec.ofNat 64 (field h 16 4)
          let deadline := if pool then field b 56 8 else field b 48 8
          let pctl := BitVec.ofNat 64 (field b 32 8)
          let table := s.kernelClasps p.ctx o.data k
          some
            { id := s.nextId, desc := d.addr, packet := p.id, ctx := p.ctx
              roles := kernelRoles k
              x := if pool then 0 else field b 20 4
              y := if pool then 0 else field b 24 2
              z := if pool then 0 else field b 26 2
              gs := if pool then 1 else field b 28 1
              coop := !pool && bitN (field b 30 1) 0
              fuse := if pool then bitN (field b 21 1) 1 else bitN (field b 30 1) 1
              medmask := if pool then 0 else BitVec.ofNat 8 (field b 31 1)
              poolres := if pool then 0 else field b 29 1
              tiles := field k 21 1, accs := field k 22 1, scratch := field k 23 1, copyq := field k 24 1
              callmax := field k 25 1, claspTable := table, textBase := text, textSize := field h 20 4
              entry := text + BitVec.ofNat 64 (field k 4 4)
              kargs := BitVec.ofNat 64 (if pool then field b 40 8 else field b 32 8)
              kdata := o.data + BitVec.ofNat 64 (field k 12 4)
              native := field h 6 1 / 16 = 1 && !bitN (field h 7 1) 0
              live := s.kernelLive p.ctx o h k
              textEnd := field k 8 4
              deadline := if deadline ≠ 0 then deadline else s.time + 1000 * d.dlus
              grid := declareClasps table 3 8, body := b
              pool := if pool then
                  some { pctl := pctl, recbase := BitVec.ofNat 64 (field b 24 8), reclog := field b 20 1 }
                else none }

/-- The checks of R346 from the second on: the launch to start, or the STATUS of the first failure. -/
def State.admission (s : State) (p : Packet) (b : List Byte) : Except Nat Launch :=
  if !s.addrsOk p b then .error 0x16
  else match s.buildLaunch p (s.qdescAt p.desc) b with
    | none => .error 0x11
    | some l =>
      if !l.gridOk then .error 0x12
      else if !l.sizesOk then .error 0x13
      else if l.medmask ≠ 0 ∧ !s.mediaDie then .error 0x15
      else if l.pool.isNone ∧ l.x * l.y * l.z = 0 then .ok l
      else if !l.fitsEmpty (s.row p.row) then .error 0x14
      else .ok l

/-- A LAUNCH or POOL packet after its issue: rejected, or in flight; a grid without teams is done at once. -/
def State.startLaunch (s : State) (p : Packet) (b : List Byte) : State :=
  let r := s.admission p b
  let s := s.addrsWalked p b
  let s := if s.addrsOk p b then s.recallObject p.ctx b else s
  match r with
  | .error st => s.completePacket p st 0 0
  | .ok l =>
    { s with
      nextId := s.nextId + 1, launches := s.launches ++ [l]
      packets := s.packets.map (fun q => if q.id = p.id then { q with launch := some l.id } else q) }

/-- PACKET_LAUNCH. -/
def execPacketLaunch (row : Nat) (s : State) : Outcome State Fault Refusal :=
  s.onPacket row (fun b => hdrOk b && hdrType b = 1) (fun s p b => s.startLaunch p b)

/-- PACKET_POOL. -/
def execPacketPool (row : Nat) (s : State) : Outcome State Fault Refusal :=
  s.onPacket row (fun b => hdrOk b && hdrType b = 2) (fun s p b => s.startLaunch p b)

/-- PACKET_NOP (R339). -/
def execPacketNop (row : Nat) (s : State) : Outcome State Fault Refusal :=
  s.onPacket row (fun b => hdrOk b && hdrType b = 4)
    (fun s p b => (s.addrsWalked p b).completePacket p (if s.addrsOk p b then 1 else 0x16) 0 0)

/-- The signal words that a BARRIER names, with their places. -/
def State.signalPlaces (s : State) (p : Packet) : List (DWord × Place) :=
  p.sigs.filterMap (fun a => (s.signalPlace p.ctx a).map (fun q => (a, q)))

/-- The homes have read the signal words for the front complex (R224, R328). -/
def State.recallSignals (s : State) (p : Packet) : State :=
  (s.signalPlaces p).foldl (fun s e => if e.2.space = .mem then s.readRange e.2.addr 8 else s) s

/-- A BARRIER watches each of its signal words at its home from its issue on (R338). -/
def State.watchSignals (s : State) (p : Packet) : State :=
  let ws := (s.signalPlaces p).map (fun e => ({ va := e.1, space := e.2.space, addr := e.2.addr } : SignalWatch))
  let s := s.recallSignals p
  { s with packets := s.packets.map (fun q =>
      if q.id = p.id then { q with sigWatch := ws.map (fun w => { w with seen := s.signalled w }) } else q) }

/-- PACKET_BARRIER (R338). -/
def execPacketBarrier (row : Nat) (s : State) : Outcome State Fault Refusal :=
  s.onPacket row (fun b => hdrOk b && hdrType b = 3) (fun s p b =>
    let ok := s.addrsOk p b
    let s := s.addrsWalked p b
    if !ok then s.completePacket p 0x16 0 0
    else if p.sigs.isEmpty then s.completePacket p 1 0 0
    else s.watchSignals p)

/-- BARRIER_COMPLETE: the STATUS of every named signal word has been seen non-zero since the BARRIER's issue, and no drain of
its queue is under way. -/
def execBarrierComplete (packet : Nat) (s : State) : Outcome State Fault Refusal :=
  match s.packets.find? (fun p => p.id = packet && p.typ = 3) with
  | none => .next s
  | some p =>
    if p.sigs.all (s.signalSeen p) && !s.draining p.desc then
      .next (((s.completePacket p 1 0 0).settleLaunches).refreshWaits)
    else .next s

/-! ## Dispatch (R344, R345, R349, R353) -/

/-- The limits of a ramp under the power cap in force (R385). -/
def State.rampStep (s : State) (r : Ramp) : Nat :=
  if s.capInForce < 2400 then min r.step.toNat (Config.capStep s.capInForce).toNat else r.step.toNat
def State.rampMax (s : State) (r : Ramp) : Nat :=
  if s.capInForce < 2400 then
    (if r.max = 0 then (Config.capMax s.capInForce).toNat else min r.max.toNat (Config.capMax s.capInForce).toNat)
  else r.max.toNat

/-- Whether a die's ramp allows n more team starts in this µs. -/
def State.rampAllows (s : State) (die n : Nat) : Bool :=
  let r := s.ramps.getD die {}
  s.rampMax r = 0 || r.used + n ≤ r.allowance

/-- Counts team events on a die. -/
def State.rampUse (s : State) (die n : Nat) : State := { s with ramps := upd s.ramps die (fun r => { r with used := r.used + n }) }

/-- The rows that take part in a dispatch step, by rank: BAND, deadline of the oldest launch with unstarted teams, index. -/
def State.ranked (s : State) : List (Nat × Row × Launch) :=
  let rows := (List.range 128).filterMap (fun q =>
    let r := s.row q
    if r.valid && !r.hold && !r.preempt then (s.nextLaunch r).map (fun l => (q, r, l)) else none)
  let key := fun (e : Nat × Row × Launch) => (e.2.1.band.toNat, e.2.2.deadline, e.1)
  let le := fun (a b : Nat × Row × Launch) =>
    let x := key a
    let y := key b
    x.1 < y.1 || (x.1 = y.1 && (x.2.1 < y.2.1 || (x.2.1 = y.2.1 && x.2.2 ≤ y.2.2)))
  sortBy le rows

/-- Where a die's dispatcher places the next units of a launch: one unit, or a whole co-operative grid. The dispatcher of
die 1 places a unit only where no core of die 0 fits it. -/
def State.placement (s : State) (die : Nat) (l : Launch) (cores : List Nat) : Option (List (List Nat)) :=
  let cores := cores.filter (s.fuseOk l.fuse)
  if l.coop then
    if s.savedTeams.any (fun t => t.launch = l.id) then none
    else
      let n := (l.x * l.y * l.z - l.next) / max 1 l.gs
      if 15 * cores.length < n * l.gs then none else placeUnits s.freeOf l.need l.gs cores n []
  else
    let on := fun (d : Nat) => placeUnit s.freeOf l.need [] l.gs (cores.filter (fun c => c / 128 = d))
    if die = 1 ∧ (on 0).isSome then none else (on die).map (fun u => [u])

/-- The ramp events of some units: one for each team on its die, or one on each die for a whole co-operative grid (R349,
R353). -/
def rampEvents (coop : Bool) (units : List (List Nat)) : List Nat :=
  let dies := units.flatMap (fun u => u.map (fun c => c / 128))
  if coop then dedup dies else dies

/-- Starts units of a launch one after another. -/
def State.startUnits (s : State) (l : Launch) (units : List (List Nat)) : State :=
  let s := units.foldl (fun s u => match s.launch? l.id with
    | some l => s.startUnit l u
    | none => s) s
  (rampEvents l.coop units).foldl (fun s d => s.rampUse d 1) s

/-- One search of the ranked rows; the state after a start, or none when nothing starts. -/
def State.dispatchOnce (s : State) (die : Nat) : List (Nat × Row × Launch) → List Nat → Option State
  | [], _ => none
  | (_, r, l) :: rest, blocked =>
    let cores := r.coreList.filter (fun c => !blocked.contains c)
    match s.placement die l cores with
    | some units =>
      let ev := rampEvents l.coop units
      if (dedup ev).all (fun d => s.rampAllows d (ev.filter (· = d)).length) then some (s.startUnits l units)
      else s.dispatchOnce die rest (if r.reserve || l.coop then blocked ++ r.coreList else blocked)
    | none => s.dispatchOnce die rest (if r.reserve || l.coop then blocked ++ r.coreList else blocked)

/-- The dispatch step: restarted while something starts. -/
def State.dispatch (s : State) (die : Nat) : Nat → State
  | 0 => s
  | n + 1 =>
    match s.dispatchOnce die s.ranked [] with
    | some s => s.dispatch die n
    | none => s

/-- DISPATCH_STEP. -/
def execDispatchStep (die : Nat) (s : State) : Outcome State Fault Refusal :=
  if s.halted || s.dies ≤ die then .next s else .next ((s.dispatch die 4096).refreshWaits)

/-- Whether a team may retire: its groups have retired, its writes are acknowledged, its jobs and the jobs that write into
its scratchpad, those of saved teams among them, are complete (R60, R288), and no drain is discarding it. -/
def State.canRetire (s : State) (t : Team) : Bool :=
  (s.groupsOf t.id).isEmpty && s.writes.all (fun w => w.team ≠ some t.id) && s.acks.all (fun a => a.team ≠ some t.id)
    && s.allJobs.all (fun j => j.team ≠ t.id && j.writes.all (fun f => f.win ≠ some t.id))
    && s.drains.all (fun d => !d.teams.contains t.id)

/-- TEAM_RETIRE. -/
def execTeamRetire (team : Nat) (s : State) : Outcome State Fault Refusal :=
  match s.team? team with
  | none => .next s
  | some t =>
    if !s.canRetire t then .next s
    else
      let s := ((s.dropTeam t).modLaunch t.launch (fun l => { l with retired := l.retired + 1 })).endGang t
      .next (((s.rampUse (t.core / 128) 1).settleLaunches).refreshWaits)

/-! ## Time (R295, R353, R357) -/

/-- The queues with a packet in flight, or a drain that has not ended, and no VALID row. -/
def State.unmappedQueues (s : State) : List Nat :=
  (dedup (s.packets.map Packet.desc ++ s.drains.map Drain.desc)).filter (fun d => (s.rowOf d).isNone)

/-- The queue of a watchdog: that of a VALID row, or from 128 on one of the unmapped queues, in the order of their packets
(R357, log 74). -/
def State.wdogQueue (s : State) (n : Nat) : Option Nat :=
  if n < 128 then (if (s.row n).valid then some (s.row n).qdesc.toNat else none) else s.unmappedQueues[n - 128]?

/-- Whether a queue's watchdog counts: it pauses under the PREEMPT of the VALID row that names the queue. -/
def State.watching (s : State) (d : Nat) : Bool :=
  !((s.rowOf d).map (fun q => (s.row q).preempt)).getD false && (s.qdescAt d).wdogus ≠ 0 && !s.draining d
    && !(s.inFlight d).isEmpty
    && ((s.inFlight d).any (fun p => p.typ = 3) || (s.launchesOf d).any (fun l => s.teams.any (fun t => t.launch = l.id)))

/-- One µs of the watchdogs. -/
def State.tickWdogs (s : State) : State :=
  ((dedup (s.packets.map Packet.desc)).filter s.watching).foldl (fun s d => s.setWdog d (s.wdog d + 1)) s

/-- Whether a context runs: it has a resident team on a core that has not stopped for it. -/
def State.ctxRuns (s : State) (c : CtxDesc) : Bool :=
  s.teams.any (fun t => t.ctx.ctxid = c.ctxid && !s.stopped.contains (t.core, c.ctxid))

/-- One µs of a clasp's timer. -/
def State.tickClasp (s : State) (r : ClaspRef) : State :=
  match s.claspCtx r with
  | some c => if c.claspTmo ≠ 0 && s.ctxRuns c then
      s.modClasp r (fun k => if k.failed then k else { k with timer := k.timer + 1 })
    else s
  | none => s

/-- The clasps on which a lane is parked. -/
def State.waitedClasps (s : State) : List ClaspRef :=
  dedup (s.groups.flatMap (fun g => g.lanes.filterMap (fun l => match l.st with
    | .park (.clasp k _) => s.claspRef g k
    | _ => none)))

/-- The next µs of a ramp: the events of retirements beyond the allowance wait for it (R353). -/
def State.tickRamp (s : State) (r : Ramp) : Ramp :=
  { r with used := if s.rampMax r = 0 then 0 else r.used - r.allowance, allowance := if r.used = 0 then r.init.toNat else min (r.allowance + s.rampStep r) (s.rampMax r) }

/-- RAMP_TICK: a µs passes: device time, the ramps, the clasp timers and the watchdogs. -/
def execRampTick (s : State) : Outcome State Fault Refusal :=
  let s := (s.waitedClasps.foldl State.tickClasp s).tickWdogs
  .next { s with time := s.time + 1000, ramps := s.ramps.map s.tickRamp }

/-! ## Continuation pools (R59, R351, R352) -/

/-- Changes the pool of a launch. -/
def State.modPool (s : State) (id : Nat) (f : Pool → Pool) : State := s.modLaunch id (fun l => { l with pool := l.pool.map f })

/-- A bin leaves as a group. -/
def Pool.flush (p : Pool) (b : Bin) : Pool := { p with formed := p.formed ++ [b.recs], bins := p.bins.filter (fun c => c.codeoff ≠ b.codeoff) }

/-- Bins a record: a full bin forms a group, and a record without a bin among 64 takes the oldest one's place. -/
def Pool.add (p : Pool) (r : PoolRecord) (now : Nat) : Pool :=
  match p.bins.find? (fun b => b.codeoff = r.codeoff) with
  | some b =>
    let b' := { b with recs := b.recs ++ [r] }
    let p := { p with bins := p.bins.map (fun c => if c.codeoff = r.codeoff then b' else c) }
    if 32 ≤ b'.recs.length then p.flush b' else p
  | none =>
    let p := if 64 ≤ p.bins.length then
        (match leastBy (fun (a b : Bin) => a.since < b.since) p.bins with | some b => p.flush b | none => p)
      else p
    { p with bins := p.bins ++ [({ codeoff := r.codeoff, recs := [r], since := now } : Bin)] }

/-- POOL_RECORD_TAKE: the next published record is binned or dropped and CONS advances; when END is seen and every
published record has been taken, every bin flushes. While one of its addresses does not translate, the launch waits (log 73). -/
def execPoolRecordTake (launch : Nat) (s : State) : Outcome State Fault Refusal :=
  match s.launch? launch with
  | none => .next s
  | some l =>
    match l.pool with
    | none => .next s
    | some p =>
      if p.ended || l.fate ≠ 0 then .next s
      else match s.frontBytes l.ctx p.pctl 1 with
        | none => .next s
        | some w =>
          let s := s.recallFront l.ctx p.pctl 1
          let pub := leNat w
          if p.taken = pub % 2 ^ 31 then
            if bitN pub 31 then
              let s := s.modPool launch (fun p => { (p.bins.foldl Pool.flush p) with ended := true })
              .next ((s.settleLaunches).refreshWaits)
            else .next s
          else
            match s.frontBytes l.ctx (p.recbase + BitVec.ofNat 64 (16 * (p.taken % 2 ^ p.reclog))) 4,
                s.frontPlace l.ctx (p.pctl + 4) 4 .store with
            | some b, some cons =>
              let r : PoolRecord := { codeoff := BitVec.ofNat 32 (field b 0 4), arg0 := BitVec.ofNat 32 (field b 4 4)
                                      arg1 := BitVec.ofNat 32 (field b 8 4), arg2 := BitVec.ofNat 32 (field b 12 4) }
              let n := (p.taken + 1) % 2 ^ 31
              let bad := r.codeoff.toNat % 4 ≠ 0 || l.textSize ≤ r.codeoff.toNat
              let now := s.time
              let s := s.recallFront l.ctx (p.recbase + BitVec.ofNat 64 (16 * (p.taken % 2 ^ p.reclog))) 4
              let s := s.modPool launch (fun p =>
                { (if bad then { p with dropped := p.dropped + 1 } else p.add r now) with taken := n })
              .next ((s.walked .none l.ctx (p.pctl + 4)).unitWrite l.ctx.ctxid cons (leBytes 4 n)).refreshWaits
            | _, _ => .next s

/-- BIN_TIMED_FLUSH: 2 µs after its oldest record arrived. -/
def execBinTimedFlush (launch bin : Nat) (s : State) : Outcome State Fault Refusal :=
  match (s.launch? launch).bind (fun l => l.pool.bind (fun p => p.bins[bin]?)) with
  | none => .next s
  | some b => if b.since + 2000 ≤ s.time then .next ((s.modPool launch (fun p => p.flush b)).refreshWaits) else .next s

/-! ## Pre-emption of a launch (R355, R356) -/

/-- PREEMPT_SET. -/
def execPreemptSet (row : Nat) (s : State) : Outcome State Fault Refusal :=
  if (s.row row).valid then .next (s.modRow row (fun r => { r with preempt := true })) else .next s

/-- A launch save entry. -/
def State.lsaveBytes (s : State) (l : Launch) : List Byte :=
  let saved := (s.savedTeams.filter (fun t => t.launch = l.id)).length
  leBytes 4 l.next ++ leBytes 4 l.retired ++ leBytes 4 saved ++ leBytes 4 (if l.coop && l.next = 0 then 2 else 1)
    ++ List.replicate 48 0 ++ l.body.take 64 ++ l.grid.flatMap Clasp.saveBytes

/-- Whether a team has nothing left to save: its groups have retired, and it stays only for the jobs of saved teams that are to
write its scratchpad (R288, log 76). -/
def State.nothingToSave (s : State) (t : Team) : Bool :=
  (s.groupsOf t.id).isEmpty && !s.jobs.any (fun j => j.team = t.id || j.writes.any (fun f => f.win = some t.id))
    && !s.canRetire t

/-- LAUNCH_SAVE_WRITE: every team of the row's launches is saved; one entry per launch in flight goes into LSAVE. -/
def execLaunchSaveWrite (row : Nat) (s : State) : Outcome State Fault Refusal :=
  let r := s.row row
  let ls := s.launchesOf r.qdesc.toNat
  if !(r.valid && r.preempt) || r.lsaved || ls.any (fun l => s.teams.any (fun t => t.launch = l.id && !s.nothingToSave t))
  then .next s
  else
    let d := s.qdescOf row
    let s := (number 0 ls).foldl (fun s e => s.deviceWrite (d.lsave + 256 * e.1) (s.lsaveBytes e.2)) s
    .next ((s.modRow row (fun r => { r with lsaved := true })).pushEvent 6 false d.addr)

/-- PREEMPT_CLEAR: the launches are read back from LSAVE, and the cores that stopped for this row go on: what became ready
while they were stopped releases their parked lanes now (R61). -/
def execPreemptClear (row : Nat) (s : State) : Outcome State Fault Refusal :=
  let r := s.row row
  if !(r.valid && r.preempt) then .next s
  else
    let d := s.qdescOf row
    let s := if r.lsaved then
        (number 0 (s.launchesOf d.addr)).foldl (fun (s : State) e =>
          let b := s.deviceBytes (d.lsave + 256 * e.1) 256
          s.modLaunch e.2.id (fun l => { l with
            next := field b 0 4, retired := field b 4 4, grid := loadClasps l.grid (slice b 128 128) })) (s.readRange d.lsave 1024)
      else s
    let s := s.modRow row (fun r => { r with preempt := false, lsaved := false })
    let keep := fun (e : Nat × Word) => s.stopAsked e.1 e.2
    let held := s.groups.filter s.isStopped
    let s := { s with stopped := s.stopped.filter keep, drained := s.drained.filter keep }
    let s := (held.filter (fun g => !s.isStopped g)).foldl State.retestClasps s
    .next (s.wakePresence.refreshWaits)

/-! ## Drains and destroys (R357 to R362) -/

/-- Saved teams that a drain reaches stand among the others again, without groups, for the jobs that they hold: their
scratchpads as their save areas have them, their snapshots released (R63, R247, R288, R358). They occupy nothing. -/
def State.takeSaved (s : State) (p : SavedTeam → Bool) : State :=
  let back := s.savedTeams.filter p
  let team := fun (t : SavedTeam) => { t.team with
    scratch := ssets [] (number 0 (s.deviceBytes (t.area + 0x1000) (65536 * t.team.granules)))
    granules := 0, reserved := 0, tiles := 0, accs := 0, copyq := 0, ngroups := 0, clasps := [], claims := [] }
  let s := s.closeSaved back
  { s with
    teams := s.teams ++ back.map team
    jobs := s.jobs ++ back.flatMap SavedTeam.jobs
    savedTeams := s.savedTeams.filter (fun t => !p t) }

/-- Whether an access or a job that a drain waits for may yet reach a team's scratchpad. -/
def State.windowAwaited (s : State) (d : Drain) (t : Nat) : Bool :=
  s.writes.any (fun w => d.writes.contains w.id && w.space = .scratch t)
    || s.jobs.any (fun j => d.jobs.contains j.id && !j.stopped && (j.reads ++ j.writes).any (fun f => f.win = some t))

/-- Discards the teams of a drain that pass a test; the others stay its own. -/
def State.endTeams (s : State) (d : Drain) (p : Nat → Bool) : State :=
  (s.teams.filter (fun t => d.teams.contains t.id && p t.id)).foldl (fun s t => s.discardTeam t d.status) s

/-- Consumes the ready packets of a queue from RDIDX on, at most n, with a STATUS. -/
def State.sweep (s : State) (desc status : Nat) : Nat → State
  | 0 => s
  | n + 1 =>
    let d := s.qdescAt desc
    let b := s.deviceBytes (d.slot d.rdidx) 64
    if hdrType b = 0 then s
    else
      let p := s.packetOf d 0xFF (BitVec.ofNat 32 d.rdidx) b
      (((s.consume d).completePacket p status 0 0)).sweep desc status n

/-- Ends the launches and barriers of a queue with a STATUS. -/
def State.endPackets (s : State) (desc status : Nat) : State :=
  let ls := s.launchesOf desc
  let s := ls.foldl (fun s l => (s.dropSaved l.id).modLaunch l.id (fun l => l.ends status)) s
  let s := (s.inFlight desc).foldl (fun s p => if p.typ = 3 then s.completePacket p status 0 0 else s) s
  s.settleLaunches

/-- The queues that the device knows: of a VALID row, of an unmapped watch, or with a packet in flight. -/
def State.knownQueues (s : State) : List Nat :=
  dedup ((s.rows.filter Row.valid).map (fun r => r.qdesc.toNat) ++ s.unmapped.map Unmapped.desc ++ s.packets.map Packet.desc)

/-- The queues of a partition. -/
def State.partQueues (s : State) (part : Nat) : List Nat := s.knownQueues.filter (fun d => (s.qdescAt d).part = part)

/-- The stop report (R358). -/
def stopReport (row part teams pktidx desc time : Nat) : List Byte :=
  [0x09, 0, 0, 0, 0, BitVec.ofNat 8 row] ++ leBytes 2 part ++ leBytes 4 teams ++ leBytes 4 pktidx ++ leBytes 8 desc
    ++ leBytes 8 time ++ List.replicate 32 0

/-- The launches of some queues are to complete with a STATUS: they start no further unit, and their saved teams go. -/
def State.doom (s : State) (queues : List Nat) (status : Nat) : State :=
  (queues.flatMap s.launchesOf).foldl (fun s l => (s.dropSaved l.id).modLaunch l.id (fun l => l.ends status)) s

/-- Whether everything that a drain waits for has been performed or completed, or is abandoned because it has stopped. -/
def State.drainReady (s : State) (d : Drain) : Bool :=
  s.writes.all (fun w => !d.writes.contains w.id) && s.jobs.all (fun j => j.stopped || !d.jobs.contains j.id)

/-- The end of a drain: steps 4 and 5 of R358 for a partition, the consumption and the completions of R361 for a queue. -/
def State.finishDrain (s : State) (d : Drain) : State :=
  let s := { s with drains := s.drains.filter (fun e => e ≠ d), jobs := s.jobs.filter (fun j => !d.jobs.contains j.id) }
  let s := s.endTeams d (fun _ => true)
  let sweep := fun (s : State) => d.queues.foldl (fun s a => s.sweep a d.status (2 ^ (s.qdescAt a).sizelog)) s
  let ends := fun (s : State) => d.queues.foldl (fun s a => s.endPackets a d.status) s
  match d.report with
  | some (a, b) => ((sweep (ends s)).deviceWrite a b).pushEvent 3 false d.desc
  | none => ends (sweep s)

/-- Steps 2 and 3 of R358 for some teams and jobs: the teams' groups leave their cores, matrix operations that have not been
granted are abandoned (R266) and jobs that have stopped too; the accesses that the teams have issued are performed at their
homes and the other jobs complete, in the order that binds them (R218, R227, R228, R235). The drain waits for that, if anything
is left, and so do the teams whose scratchpads it may reach; the others are discarded at once. -/
def State.beginDrain (s : State) (d : Drain) (ts : List Team) (js : List Job) : State :=
  let s := (ts.map Team.launch).foldl (fun s l => (s.dropSaved l).modLaunch l (fun l => l.ends d.status)) (ts.foldl State.clearTeam s)
  let s := s.doom d.queues d.status
  let mine := fun (t : Option Nat) => ts.any (fun u => t = some u.id)
  let d := { d with
    writes := (s.writes.filter (fun (w : Write) => mine w.team)).map Write.id, jobs := js.map Job.id, teams := ts.map Team.id }
  let s := { s with
    acks := s.acks.filter (fun a => !mine a.team)
    jobs := s.jobs.map (fun (j : Job) => if d.jobs.contains j.id then { j with gate := false } else j) }
  if s.drainReady d then s.finishDrain d
  else { s.endTeams d (fun t => !s.windowAwaited d t) with drains := s.drains ++ [d] }

/-- WATCHDOG_EXPIRY: a watchdog has reached WDOGUS, and its partition is drained (R358); or a drain of the queue, begun
before, ends once nothing of it is held any more (log 48). -/
def execWatchdogExpiry (row : Nat) (s : State) : Outcome State Fault Refusal :=
  match s.wdogQueue row with
  | none => .next s
  | some a =>
    match s.drains.find? (fun e => e.desc = a) with
    | some e => .next (if s.drainReady e then (s.finishDrain e).refreshWaits else s)
    | none =>
      let d := s.qdescAt a
      if d.wdogus = 0 || s.draining a || s.wdog a < d.wdogus then .next s
      else
        let qs := s.partQueues d.part
        let oldest := match s.inFlight a with
          | p :: _ => p.idx.toNat
          | [] => d.rdidx
        let ctxs := qs.map (fun a => (s.readCtx (s.qdescAt a).ctxdesc).ctxid)
        let ts := s.teams.filter (fun t => ctxs.contains t.ctx.ctxid)
        let s := { s with rows := s.rows.map (fun (r : Row) => if qs.contains r.qdesc.toNat then
          { r with hold := r.hold || r.valid, prefetched := [] } else r) }
        let s := s.setWdog a 0
        let s := s.takeSaved (fun t => ctxs.contains t.team.ctx.ctxid)
        let all := s.teams.filter (fun t => ctxs.contains t.ctx.ctxid)
        let e : Drain := { desc := a, queues := qs, status := 4
                           report := some (d.report, stopReport ((s.rowOf a).getD 0xFF) d.part ts.length oldest a s.time) }
        .next (s.beginDrain e all (s.jobs.filter (fun j => ctxs.contains j.ctx.ctxid))).refreshWaits

/-- Whether a command names a queue with nothing in flight and no VALID row (R362). -/
def State.idleQueue (s : State) (desc : Nat) : Bool := (s.inFlight desc).isEmpty && (s.rowOf desc).isNone

/-- An idle queue is destroyed at once. -/
def State.destroyIdle (s : State) (desc : Nat) : State :=
  ({ s with unmapped := s.unmapped.filter (fun u => u.desc ≠ desc) }).pushEvent 7 false desc

/-- A destroy of a queue is under way (R361). -/
def State.startDestroy (s : State) (a : Nat) : State :=
  let s := { s with destroying := if s.destroying.contains a then s.destroying else s.destroying ++ [a] }
  match s.rowOf a with
  | some q => s.modRow q (fun r => { r with prefetched := [] })
  | none => s

/-- The descriptor that a QCTL command names, and its CMD (R362). -/
def qctlDesc (desc : Nat) : Nat := desc % 2 ^ 39 / 64 * 64
def qctlCmd (v : DWord) : Nat := bits v.toNat 63 56

/-- DESTROY (R361). Where a drain of the queue is under way, what ends of it ends with the drain (R362); while the
device stands still no command acts (R27, R368). -/
def execDestroy (desc : Nat) (s : State) : Outcome State Fault Refusal :=
  let a := qctlDesc desc
  if s.halted then .next s
  else if s.idleQueue a then .next (s.destroyIdle a)
  else
    let s := s.startDestroy a
    if s.draining a then .next s
    else
      let s := s.sweep a 2 (2 ^ (s.qdescAt a).sizelog)
      let s := (s.inFlight a).foldl (fun s p => if p.typ = 3 then s.completePacket p 2 0 0 else s) s
      let s := (s.launchesOf a).foldl (fun s l => s.modLaunch l.id (fun l => l.ends 2)) s
      .next ((s.settleLaunches).refreshWaits)

/-- DESTROY.FORCE (R361). -/
def execDestroyForce (desc : Nat) (s : State) : Outcome State Fault Refusal :=
  let a := qctlDesc desc
  if s.halted then .next s
  else if s.idleQueue a then .next (s.destroyIdle a)
  else
    let s := s.startDestroy a
    if s.draining a then .next s
    else
      let ids := (s.launchesOf a).map Launch.id
      let s := s.takeSaved (fun t => ids.contains t.launch)
      let ts := s.teams.filter (fun t => ids.contains t.launch)
      let js := s.jobs.filter (fun j => (ts.map Team.id).contains j.team)
      let s := s.deviceWrite (s.qdescAt a).lsave (List.replicate 1024 0)
      .next (s.beginDrain { desc := a, queues := [a], status := 3 } ts js).refreshWaits

/-- FAILBAR (R360): the waiting BARRIER of a queue completes with DEADLOCK, and its queue goes on. -/
def execFailbar (desc : Nat) (s : State) : Outcome State Fault Refusal :=
  let a := qctlDesc desc
  if s.halted || s.draining a then .next s
  else if s.idleQueue a then .next (s.destroyIdle a)
  else match (s.inFlight a).find? (fun p => p.typ = 3) with
    | some p => .next (((s.completePacket p 6 0 0).settleLaunches).refreshWaits)
    | none => .next s

end Sys2Proof.Machine
end

