-- ==== Sys2Proof/Machine/Shake.lean ====
section
/-! DEFINITION. Shake: SHAKE256 on bytes (R368, R370, R379), as its standard defines it: the Keccak-f[1600] permutation
on 25 lanes of 64 bits, lane (x, y) at index x + 5y, a rate of 136 bytes and the suffix 0x1F. -/

namespace Sys2Proof.Machine

/-- Lane i of the state. -/
def kl (a : List DWord) (i : Nat) : DWord := a.getD i 0

/-- The rotation of each lane in ρ. -/
def rhoTab : List Nat := [0, 1, 62, 28, 27, 36, 44, 6, 55, 20, 3, 10, 43, 25, 39, 41, 45, 15, 21, 8, 18, 2, 61, 56, 14]

/-- θ. -/
def theta (a : List DWord) : List DWord :=
  let c := (List.range 5).map (fun x => kl a x ^^^ kl a (x + 5) ^^^ kl a (x + 10) ^^^ kl a (x + 15) ^^^ kl a (x + 20))
  let d := (List.range 5).map (fun x => kl c ((x + 4) % 5) ^^^ (kl c ((x + 1) % 5)).rotateLeft 1)
  (List.range 25).map (fun i => kl a i ^^^ kl d (i % 5))

/-- ρ and π: lane (x, y) of the result is lane (x + 3y, x) rotated. -/
def rhoPi (a : List DWord) : List DWord :=
  (List.range 25).map (fun i =>
    let j := (i % 5 + 3 * (i / 5)) % 5 + 5 * (i % 5)
    (kl a j).rotateLeft (rhoTab.getD j 0))

/-- χ. -/
def chi (a : List DWord) : List DWord :=
  (List.range 25).map (fun i =>
    let r := i / 5 * 5
    kl a i ^^^ (~~~(kl a (r + (i + 1) % 5)) &&& kl a (r + (i + 2) % 5)))

/-- The LFSR of the round constants: 8 bits, x^8 + x^6 + x^5 + x^4 + 1. -/
def lfsr (r : Nat) : Nat := if 128 ≤ r then (2 * r % 256) ^^^ 0x71 else 2 * r

/-- The constant of a round that starts with an LFSR value, and the value after it. -/
def roundConst (r : Nat) : DWord × Nat :=
  (List.range 7).foldl (fun (acc : DWord × Nat) j =>
    (if acc.2 % 2 = 1 then acc.1 ^^^ (1 <<< (2 ^ j - 1) : DWord) else acc.1, lfsr acc.2)) (0, r)

/-- The rounds of the permutation. -/
def keccakRounds : Nat → Nat → List DWord → List DWord
  | 0, _, a => a
  | n + 1, r, a =>
    let (c, r') := roundConst r
    keccakRounds n r' (upd (chi (rhoPi (theta a))) 0 (· ^^^ c))

/-- Keccak-f[1600]. -/
def keccakF (a : List DWord) : List DWord := keccakRounds 24 1 a

/-- Absorbs one block of 136 bytes. -/
def absorb (a : List DWord) (b : List Byte) : List DWord :=
  keccakF ((List.range 25).map (fun i => if i < 17 then kl a i ^^^ BitVec.ofNat 64 (field b (8 * i) 8) else kl a i))

/-- Absorbs n blocks, the last padded: suffix 0x1F, and 0x80 in the last byte. -/
def absorbAll : Nat → List DWord → List Byte → List DWord
  | 0, a, _ => a
  | n + 1, a, m =>
    if m.length < 136 then
      let p := m ++ [(0x1F : Byte)] ++ List.replicate (135 - m.length) 0
      absorb a (upd p 135 (· ||| 0x80))
    else absorbAll n (absorb a (m.take 136)) (m.drop 136)

/-- The first 136 bytes of a state. -/
def squeeze (a : List DWord) : List Byte := (List.range 17).flatMap (fun i => leBytes 8 (kl a i).toNat)

/-- SHAKE256 to n bytes, at most 136. -/
def shake256 (m : List Byte) (n : Nat) : List Byte :=
  (squeeze (absorbAll (m.length / 136 + 1) (List.replicate 25 0) m)).take n

end Sys2Proof.Machine
end

