-- ==== Sys2Proof/Machine/Platform.lean ====
section
/-! DEFINITION. Platform: resets, boot and thermal stop (R27, R368, R386), the host port (R364 to R367), inbound accesses
(R371), checkpoints (R375 to R380), identity and attestation (R369, R370), the links (R372) and the board controller (R384,
R385). -/

namespace Sys2Proof.Machine

open Host (Outcome)

/-! ## Measurement (R370) -/

/-- An extension of a measurement register with 64 bytes. -/
def State.extendMr (s : State) (i : Nat) (v : List Byte) : State :=
  { s with mrs := upd s.mrs i (fun m => BitVec.ofNat 512 (leNat (shake256 (leBytes 64 m.toNat ++ v) 64))) }

/-- MR_EXTEND: Filigree extends MR2 to MR7 through the engine. -/
def execMrExtend (reg : Nat) (v : List Byte) (s : State) : Outcome State Fault Refusal :=
  if 2 ≤ reg ∧ reg ≤ 7 ∧ v.length = 64 ∧ !s.halted then .next (s.extendMr reg v) else .next s

/-! ## Boot (R368) -/

/-- An image source: its bytes, where an image starts, and its extent. -/
structure BootSource where
  bytes : SMap 8
  base : Nat
  extent : Nat

/-- The sources in the order in which the boot ROM tries them. -/
def Boot.sources (b : Boot) : List BootSource :=
  [⟨b.flash, 0, 2 ^ 25⟩, ⟨b.flash, 2 ^ 25, 2 ^ 25⟩] ++ (if b.nvmeBoot then [⟨b.nvme, 0, b.nvmeSize⟩] else [])

/-- The header of the image in a source. -/
def BootSource.header (b : BootSource) : List Byte := sbytes b.bytes b.base 256

/-- The payload of the image in a source. -/
def BootSource.payload (b : BootSource) : List Byte := sbytes b.bytes (b.base + 256) (field b.header 16 8)

/-- The signed message: header bytes [96:0] and the payload. -/
def BootSource.message (b : BootSource) : List Byte := b.header.take 97 ++ b.payload

/-- The form of a header, and that the image lies within its source. -/
def BootSource.formed (b : BootSource) : Bool :=
  let h := b.header
  256 ≤ b.extent && field h 0 4 = 0x4C464947 && field h 4 2 = 1 && field h 6 2 = 0 && field h 211 45 = 0
    && field h 16 8 ≤ 2 ^ 28 && 256 + field h 16 8 ≤ b.extent

/-- Whether the public key of a header is that of its fuse key slot, which is not revoked. -/
def Boot.keyOk (c : Boot) (h : List Byte) : Bool :=
  let slot := field h 12 4
  slot < 4 && !c.revoked.getLsbD slot
    && (match c.keys[slot]? with
      | some k => k.toNat = leNat (shake256 (slice h 40 57) 32)
      | none => false)

/-- Whether the image in a source passes. -/
def Boot.passes (c : Boot) (b : BootSource) : Bool :=
  b.formed && c.keyOk b.header && c.minSvn.toNat ≤ field b.header 8 4
    && Config.ed448phVerify (slice b.header 40 57) (slice b.header 97 114) b.message

/-- What a device reset leaves: everything as at reset, but for memory, the log, and what lies outside the device. -/
def State.cleared (s : State) : State :=
  { State.reset with
    mem := s.mem, peer := s.peer, peerInb := s.peerInb, faulty := s.faulty, elogBase := s.elogBase, elogHead := s.elogHead
    elogWrapped := s.elogWrapped, boot := s.boot, temp := s.temp
    power := s.power, agenda := s.agenda, turn := s.turn, nextId := s.nextId, free := s.free }

/-- The boot shard starts: the other signet cores of the clusters present are released to the entry that it names, and the
boot core goes on at the image's (R368). -/
def State.releaseSignets (s : State) : State :=
  { s with signets := updAll (fun cl (c : SignetCore) =>
      if cl < s.nclusters then
        let at' := if cl = 0 then s.bootEntry.getD 0 else s.boot.signetEntry
        { held := false, entry := at', hart := { pc := at' } }
      else c) 0 s.signets }

/-- The keeper groups of the cores present run the keeper code object from its entry (R302, log 66). -/
def State.startKeepers (s : State) : State :=
  match s.boot.keeper with
  | none => s
  | some k =>
    { s with
      keeperText := k.text, keeperSize := k.size, keeperCallmax := k.callmax
      groups := s.groups.map (fun (g : Group) => if g.keeper && g.core < s.ncores then
        { g with lanes := List.replicate 32 { st := .run, pc := k.entry } } else g) }

/-- The boot ROM: the first image that passes is loaded, measured and started; with none, the boot fails. -/
def State.bootRom (s : State) : State :=
  match s.boot.sources.find? s.boot.passes with
  | some b =>
    let s := s.extendMr 0 (leBytes 64 (Config.bootConfigValue s.boot.config).toNat)
    let s := s.extendMr 1 (shake256 b.message 64)
    (State.releaseSignets { s.deviceWrite (field b.header 24 8) b.payload with
      boardState := 2, bootEntry := some (BitVec.ofNat 64 (field b.header 24 8 + field b.header 32 8)) }).startKeepers
  | none => { s.elog 6 noUnit 0 with
      boardState := 3, hostUp := false, signets := s.signets.map (fun c => { c with held := true }) }

/-- A full reset of the device. -/
def State.deviceReset (s : State) : State := s.cleared.bootRom

/-- DEVICE_RESET. -/
def execDeviceReset (s : State) : Outcome State Fault Refusal := .next s.deviceReset

/-- POWER_LOSS: everything is lost, the error log and the memories with it (R386); other devices keep theirs. -/
def execPowerLoss (s : State) : Outcome State Fault Refusal :=
  .next { State.reset with
    boot := s.boot, peer := s.peer, peerInb := s.peerInb, agenda := s.agenda, turn := s.turn, nextId := s.nextId, free := s.free }

/-! ## Thermal stop (R27) -/

/-- A unit of a die reaches its limit: all issue stops, every context is lost, and the port stops mastering. -/
def State.thermalStop (s : State) : State :=
  let s := s.elog 7 noUnit 0
  { s with
    thermal := true, boardState := 4, hostUp := false
    fns := s.fns.map (fun f => { f with needsReset := true })
    groups := s.groups.filter Group.keeper
    teams := [], gangs := [], launches := [], packets := [], savedTeams := [], jobs := [], loads := [], writes := []
    acks := [], watches := [], snaps := [], contexts := [], storeIrqs := [], tlb := [], utlb := [], upartials := [], issueQ := [], ckpt := none
    engines := s.engines.map (fun e => { e with entries := [] })
    rows := s.rows.map (fun r => { r with valid := false, watch := false, prefetched := [], waits := 0, waitKind := 0 })
    unmapped := [], destroying := [], drains := [], wdogs := [], stopped := [], drained := [] }

/-- The dies present: the compute dies, two SRAM cache dies under each, the I/O die, and the media die where there is one, as
THERMAL_STOP numbers them (R7, R27, log 66). -/
def State.allDies (s : State) : Nat := 3 * s.dies + 1 + (if s.mediaDie then 1 else 0)

/-- THERMAL_STOP: a die reaches its limit. -/
def execThermalStop (die : Nat) (s : State) : Outcome State Fault Refusal :=
  if s.thermal ∨ s.allDies ≤ die then .next s else .next s.thermalStop

/-! ## The host port (R363 to R367) -/

/-- Raises a host event; an unread one of its kind takes it up. -/
def State.hostEvent (s : State) (kind func : Nat) : State :=
  if s.hostEvents.any (fun e => e.toNat / 2 ^ 60 = kind) then s
  else { s with hostEvents := s.hostEvents ++ [BitVec.ofNat 64 (kind * 2 ^ 60 + func * 2 ^ 56)] }

/-- A function after its reset: its virtqueues are dropped and its MSI-X vectors masked. -/
def resetFn : VirtioFn := { masked := true }

/-- An upstream hot reset, link disable or loss of link. Only the module's reset input ends a thermal stop (R27). -/
def State.portLost (s : State) (kind : Nat) : State :=
  if s.thermal then s
  else if s.boot.attach then s.deviceReset
  else if s.boardState = 3 then s
  else { s with fns := s.fns.map (fun _ => resetFn), hostUp := false }.hostEvent kind 0xF

/-- HOT_RESET. -/
def execHotReset (s : State) : Outcome State Fault Refusal := .next (s.portLost 1)

/-- LINK_DOWN. -/
def execLinkDown (s : State) : Outcome State Fault Refusal := .next (s.portLost 2)

/-- LINK_UP: the link has trained again, and the port masters; a device that did not boot presents no host function
(R368). -/
def execLinkUp (s : State) : Outcome State Fault Refusal :=
  if s.thermal ∨ s.boardState = 3 then .next s else .next ({ s with hostUp := true }.hostEvent 3 0xF)

/-- FUNCTION_LEVEL_RESET. -/
def execFunctionLevelReset (func : Nat) (s : State) : Outcome State Fault Refusal :=
  if 4 ≤ func ∨ s.thermal ∨ s.boardState = 3 then .next s
  else .next ({ s with fns := upd s.fns func (fun _ => resetFn) }.hostEvent 4 func)

/-- What a virtio function offers (R365): its PCI device ID, its queues, and the entries that one of them holds at most. -/
structure VirtioDevice where
  device : Nat
  queues : Nat
  entries : Nat := 1024
  /-- The PCI vendor and subsystem vendor. -/
  vendor : Nat := 0x1AF4
  subsystem : Nat := 0x5059
  /-- Transport features by bit: INDIRECT_DESC, EVENT_IDX, VERSION_1, ACCESS_PLATFORM, RING_PACKED (log 56). -/
  transport : List Nat := [28, 29, 32, 33, 34]
  /-- Device features by bit. -/
  features : List Nat := []
  /-- MTU of virtio-net, block size of virtio-blk; 0 elsewhere. -/
  mtu : Nat := 0
  block : Nat := 0
  deriving DecidableEq, Repr

/-- The four functions: vsock, net, blk, console. The bit numbers and the queues of vsock and console are those of virtio
1.2 (log 56). -/
def virtioDevice : Nat → VirtioDevice
  | 0 => { device := 0x1053, queues := 3, features := [0] }
  | 1 => { device := 0x1041, queues := 33, features := [0, 1, 3, 5, 16, 17, 22], mtu := 9216 }
  | 2 => { device := 0x1042, queues := 16, features := [1, 2, 6, 9, 12, 13], block := 4096 }
  | _ => { device := 0x1043, queues := 2, features := [0] }

/-- The MSI-X vectors of a function: one for each virtqueue and one for configuration changes (R365). -/
def VirtioDevice.vectors (d : VirtioDevice) : Nat := d.queues + 1

/-- The device status that a function reads: 0 while its HOSTCTL bit is clear (R365). -/
def State.fnStatus (s : State) (func : Nat) : Byte := if s.hostCtl.getLsbD func then (s.fns.getD func {}).status else 0

/-- DRIVER_OK of the device status of virtio 1.2. -/
def driverOk (v : Byte) : Bool := v.getLsbD 2

/-- The driver writes the device status: 0 resets the function; a disabled function keeps status 0 and sets
DEVICE_NEEDS_RESET on DRIVER_OK (R365). -/
def VirtioFn.writeStatus (f : VirtioFn) (on : Bool) (v : Byte) : VirtioFn :=
  if !on then { f with status := 0, needsReset := f.needsReset || driverOk v }
  else if v = 0 then { f with status := 0, needsReset := false, pending := [], used := [] }
  else { f with status := v }

/-- DRIVER_STATUS_CHANGE. -/
def execDriverStatusChange (func : Nat) (status : Byte) (s : State) : Outcome State Fault Refusal :=
  if 4 ≤ func ∨ s.thermal ∨ !s.hostUp then .next s
  else .next ({ s with fns := upd s.fns func (fun f => f.writeStatus (s.hostCtl.getLsbD func) status) }.hostEvent 5 func)

/-- The virtqueue of a descriptor, and its index there (log 56). -/
def vqOf (desc : Nat) : Nat := desc / 65536
def vqIndex (desc : Nat) : Nat := desc % 65536

/-- A descriptor is made available where its virtqueue exists and has an entry of that index and one free, or, once Filigree
has served it, its used entry is written. -/
def VirtioFn.request (f : VirtioFn) (d : VirtioDevice) (desc : Nat) : VirtioFn :=
  if f.pending.contains desc then { f with pending := f.pending.filter (· ≠ desc), used := f.used ++ [desc] }
  else if d.queues ≤ vqOf desc || d.entries ≤ vqIndex desc
      || d.entries ≤ (f.pending.filter (fun e => vqOf e = vqOf desc)).length then f
  else { f with pending := f.pending ++ [desc], used := f.used.filter (· ≠ desc) }

/-- VIRTIO_REQUEST: of a function that is enabled and whose driver runs. -/
def execVirtioRequest (func desc : Nat) (s : State) : Outcome State Fault Refusal :=
  if 4 ≤ func ∨ s.thermal ∨ !s.hostUp ∨ !s.hostCtl.getLsbD func ∨ !driverOk (s.fnStatus func) then .next s
  else .next { s with fns := upd s.fns func (fun f => f.request (virtioDevice func) desc) }

/-- HOSTEV: the next host event, or all ones. -/
def execHostev (s : State) : Outcome State Fault Refusal :=
  match if s.halted then [] else s.hostEvents with
  | e :: r => .next { s with hostEvents := r, busRead := e }
  | [] => .next { s with busRead := 0xFFFFFFFFFFFFFFFF }

/-! ## Inbound accesses (R237, R371) -/

/-- Whether a VALID inbound entry admits a source's access to n bytes with a right (bit 62 or 61 of word 0). -/
def State.admits (s : State) (src pa n right : Nat) : Bool := inbAdmits s.inbWord src pa n right

/-- The contexts with a live snapshot that must see the current version of a line. -/
def State.preservers (s : State) (line : Nat) : List Word :=
  (dedup (s.snaps.map Snapshot.ctx)).filter (fun c => s.mustPreserve c line)

/-- Whether a peer's write may be applied now: the versions that a cameo write must preserve find room, and no write is held
on its lines, behind which it would wait (R243). -/
def State.inboundRoom (s : State) (lines : List Nat) (cameo : Bool) : Bool :=
  lines.all (fun line => !s.heldAt line && (!cameo || (s.preservers line).all (fun c => (s.context c).room)))

/-- A peer's write of bytes, line by line; a cameo line keeps its version and takes this device's clock. -/
def State.inboundWrite (s : State) (pa : Nat) (l : List Byte) (cameo : Bool) : State :=
  let cells := number pa l
  (dedup (cells.map (fun c => c.1 / 128))).foldl (fun s line =>
    let s := if cameo then (s.preservers line).foldl (fun s c => s.preserve c line) s else s
    let s := s.homeWriteLine none line (cells.filter (fun c => c.1 / 128 = line))
    if cameo then s.stampLine line else s) s

/-- INBOUND_ACCESS: what no entry lets in is refused and has no effect here; a reading that meets a lasting error retires its
frame, and one of a retired frame has no other effect (R328). What a read, an atomic or the check of an MWAIT returns to the
peer stands in `busRead`, and, when a watch is taken back, whether it has ended (R254, R373). A peer's agents also write the peer's own memory, where this device's watches see it, and its
own inbound entries (R371, R373). -/
def execInboundAccess (src : Nat) (req : InboundReq) (s : State) : Outcome State Fault Refusal :=
  if s.thermal then .next s
  else match req with
    | .read pa n =>
      if !s.admits src pa n 62 then .next s
      else if (s.badIn pa n).isSome then .next (s.readRange pa n)
      else
        let s := s.readRange pa n
        .next { s with busRead := BitVec.ofNat 64 (leNat (s.bytes .mem pa n)) }
    | .write pa bs cameo =>
      if s.admits src pa bs.length 61 && !s.framesLost pa bs.length && s.inboundRoom (linesAt pa bs.length) cameo then
        .next (s.inboundWrite pa bs cameo)
      else .next s
    | .atom op pa b d cameo =>
      if pa % 4 ≠ 0 || !s.admits src pa 4 61 then .next s
      else if (s.badIn pa 4).isSome then .next (s.readRange pa 4)
      else if s.inboundRoom [pa / 128] cameo then
        let s := s.readRange pa 4
        let old := s.word .mem pa
        .next { s.inboundWrite pa (leBytes 4 (atomNew op old b d).toNat) cameo with busRead := old.setWidth 64 }
      else .next s
    | .watch pa b ne =>
      if pa % 4 ≠ 0 || !s.admits src pa 4 62 then .next s
      else if (s.badIn pa 4).isSome then .next (s.readRange pa 4)
      else
        let s := s.readRange pa 4
        let w : PeerWatch := { src := src, addr := pa, b := b, ne := ne, age := s.nextId }
        let s := { s with busRead := (s.word .mem pa).setWidth 64 }
        if !s.peerHolds w then .next s
        else
          let s := s.watchRoom (0, s.sliceOf pa)
          .next { s with peerWatches := s.peerWatches ++ [w], nextId := s.nextId + 1 }
    | .unwatch pa =>
      let mine := fun (w : PeerWatch) => w.src = src && w.addr = pa
      .next { s with
        peerWatches := s.peerWatches.filter (fun w => !mine w)
        busRead := if s.peerWatches.any (fun w => mine w && w.fired) then 1 else 0 }
    | .own pa bs =>
      if src = s.boot.domIdx.toNat then .next s else .next (s.put (.peer src) (number pa bs)).fire
    | .entry key v =>
      if src = s.boot.domIdx.toNat ∨ 512 ≤ key then .next s
      else .next { s with peerInb := sset s.peerInb (512 * src + key) v }

/-! ## Checkpoints (R375 to R380) -/

/-- The page list of a checkpoint descriptor; entries of no block are left out. -/
def State.pageList (s : State) (list nent : Nat) : List (DWord × Nat) :=
  let b := s.deviceBytes list (16 * nent)
  ((List.range nent).map (fun i => ((BitVec.ofNat 64 (field b (16 * i) 8) : DWord), field b (16 * i + 8) 8))).filter
    (fun e => e.2 ≠ 0)

/-- The checks of a checkpoint descriptor. -/
def State.ckptOk (s : State) (a : Nat) (b : List Byte) : Bool :=
  let buddy := field b 46 2 % 512
  s.backedRange a 128 && s.backed (field b 0 8)
    && buddy < s.boot.domSize.toNat && buddy ≠ s.boot.domIdx.toNat
    && s.backedRange (field b 32 8) (16 * field b 40 4)
    && (s.pageList (field b 32 8) (field b 40 4)).all (fun e => e.1.toNat % 4096 = 0)

/-- The queue record of R376. -/
def State.queueRecord (s : State) (ctx : Word) : List Byte :=
  (s.knownQueues.filter (fun d => (s.readCtx (s.qdescAt d).ctxdesc).ctxid = ctx)).flatMap (fun d =>
    leBytes 8 d ++ leBytes 8 (match s.inFlight d with
      | p :: _ => p.idx.toNat
      | [] => (s.qdescAt d).rdidx))

/-- A checkpoint job from its descriptor. -/
def State.ckptOf (s : State) (a : Nat) (b : List Byte) : Checkpoint :=
  { desc := a, ctx := s.readCtx (field b 0 8), snap := BitVec.ofNat 64 (field b 24 8), snapNow := bitN (field b 44 1) 0
    verify := bitN (field b 44 1) 1, buddy := field b 46 2 % 512, born := s.time, list := field b 32 8, nent := field b 40 4
    store := field b 48 8, manifest := field b 56 8, blocks := s.pageList (field b 32 8) (field b 40 4) }

/-- Starts a checkpoint job: under SNAPNOW with a snapshot and the record of the queues in one step. A job that cannot
start ends with status 5. -/
def State.startCkpt (s : State) (a : Nat) : State :=
  let b := s.deviceBytes a 128
  if !s.ckptOk a b then
    { s with ckpt := some { s.ckptOf a b with snapNow := false, blocks := [], outcome := some 5 } }
  else
    let c := s.ckptOf a b
    if c.snapNow then
      match s.takeSnap c.ctx.ctxid true with
      | none => { s with ckpt := some { c with snapNow := false, outcome := some 5 } }
      | some (n, s') =>
        let q := field b 64 8
        let s' := s'.deviceWrite (a + 24) (leBytes 8 n.toNat)
        let s' := if q = 0 then s' else s'.deviceWrite q (s.queueRecord c.ctx.ctxid)
        { s' with ckpt := some { c with snap := n } }
    else { s with ckpt := some (if s.snapLive c.ctx.ctxid c.snap then c else { c with outcome := some 5 }) }

/-- CKCMD: ignored while a job runs. -/
def execCkcmd (v : DWord) (s : State) : Outcome State Fault Refusal :=
  if s.ckpt.isSome ∨ s.halted then .next s else .next (s.startCkpt v.toNat)

/-- The next bytes of a block as R377 reads them, once `n` of it have been read, and what the reading leaves at the homes
(R224, R328): of a cameo page all at the snapshot, of another page one word; none for a fault, which a cameo page of a peer is
too: no snapshot of this device reaches it (R237, R241). -/
def State.blockRead (s : State) (c : Checkpoint) (va : DWord) (n : Nat) : Option (List Byte) × State :=
  let p := s.frontPlace c.ctx va 4096 { r := true }
  let s := s.walked .none c.ctx va
  match p with
  | none => (none, s)
  | some p =>
    match p.space with
    | .mem =>
      let at' := if p.cameo then p.addr else p.addr + n
      let len := if p.cameo then 4096 else 4
      let s' := s.readRange at' len
      if (s.badIn at' len).isSome then (none, s')
      else (some (if p.cameo then (linesAt at' len).flatMap (fun l => s'.lineAt l c.snap) else s'.bytes .mem at' len), s')
    | .peer d => (if s.routeTo d && !p.cameo then some (s.bytes p.space (p.addr + n) 4) else none, s)
    | .scratch _ => (none, s)

/-- What storing a block comes to. -/
inductive Stored where
  /-- The entry that holds the block now. -/
  | at (entry : Nat) (s : State)
  /-- An entry is being filled by another job: the block is tried again later. -/
  | busy
  /-- The store is full; what the attempt wrote stays. -/
  | full (s : State)
  /-- The buddy's inbound entries refuse an access; what was done before it stays (R371, R378). -/
  | refused (s : State)

/-- An empty entry is taken: frame, digest, count, block, and STATE released last. -/
def State.fillEntry (s : State) (dev store e : Nat) (digest block : List Byte) : Stored :=
  let b := Space.peer dev
  let s := s.put b (number (e + 28) (leBytes 4 1))
  if !s.peerAdmits dev (store + 24) 4 false true then .refused s
  else
    let next := s.num b (store + 24) 4
    let bound := (s.num b (store + 28) 4 + 2 ^ 32 - 1) % 2 ^ 32
    let next' := if bound ≤ next then 0 else next + 1
    let s := s.put b (number (store + 24) (leBytes 4 next'))
    if next' = 0 then .full s
    else
      let frame := s.num b (store + 16) 8 + 4096 * next
      if !(s.peerAdmits dev e 32 false true && s.peerAdmits dev frame 4096 false true) then .refused s
      else
        let s := s.put b (number e (digest ++ leBytes 8 frame ++ leBytes 4 1))
        let s := s.put b (number frame block)
        .at e (s.put b (number (e + 28) (leBytes 4 2)))

/-- The probes of R379 from the i-th on. -/
def State.storeBlock (s : State) (c : Checkpoint) (digest block : List Byte) : Nat → Nat → Stored
  | 0, _ => .full s
  | n + 1, i =>
    let b := Space.peer c.buddy
    let e := s.num b c.store 8 + 32 * ((field digest 0 4 + i) % 2 ^ s.num b (c.store + 8) 1)
    let ok := s.peerAdmits c.buddy
    if !(ok c.store 32 true false && ok (e + 28) 4 false true) then .refused s
    else match s.num b (e + 28) 4 with
    | 0 => s.fillEntry c.buddy c.store e digest block
    | 2 =>
      let frame := s.num b (e + 16) 8
      let same := s.bytes b e 16 = digest
      if !ok e 32 true false || (same && c.verify && !ok frame 4096 true false) then .refused s
      else if same && (!c.verify || s.bytes b frame 4096 = block) then
        .at e (s.put b (number (e + 24) (leBytes 4 (s.num b (e + 24) 4 + 1))))
      else s.storeBlock c digest block n (i + 1)
    | _ => .busy

/-- The page list after one block. -/
def nextBlocks : List (DWord × Nat) → List (DWord × Nat)
  | (va, n + 2) :: r => (va + 4096, n + 1) :: r
  | _ :: r => r
  | [] => []

/-- A block that has been read is stored at the buddy, and its manifest slot is written. -/
def State.blockStore (s : State) (c : Checkpoint) (va : DWord) (block : List Byte) : State :=
  let fail := fun (s : State) (n : Nat) => { s with ckpt := some { c with outcome := some n } }
  let digest := shake256 block 16
  match s.storeBlock c digest block 16 0 with
  | .busy => s
  | .full s => fail s 3
  | .refused s => fail s 2
  | .at e s =>
    let slot := c.manifest + 32 * c.done.toNat
    if !s.peerAdmits c.buddy slot 32 false true then fail s 2
    else
      let s := s.put (.peer c.buddy) (number slot (leBytes 8 va.toNat ++ digest ++ leBytes 8 e))
      { s.fire with ckpt := some { c with blocks := nextBlocks c.blocks, done := c.done + 1, part := [], born := s.time } }

/-- CHECKPOINT_BLOCK: reads what is next of the next block, or, once all of it has been read, stores it and writes its
manifest slot. -/
def execCheckpointBlock (s : State) : Outcome State Fault Refusal :=
  match if s.halted then none else s.ckpt with
  | none => .next s
  | some c =>
    let fail := fun (s : State) (n : Nat) => { s with ckpt := some { c with outcome := some n } }
    match c.outcome, c.blocks with
    | none, (va, _) :: _ =>
      if !s.routeTo c.buddy then .next (fail s 4)
      else if 4096 ≤ c.part.length then .next (s.blockStore c va c.part)
      else match s.blockRead c va c.part.length with
        | (none, s) => .next (fail s 2)
        | (some b, s) => .next { s with ckpt := some { c with part := c.part ++ b, born := s.time } }
    | _, _ => .next s

/-- CHECKPOINT_END: every block is stored, or a failure ends the job. -/
def execCheckpointEnd (s : State) : Outcome State Fault Refusal :=
  match if s.halted then none else s.ckpt with
  | none => .next s
  | some c =>
    if c.outcome.isNone && !c.blocks.isEmpty then .next s
    else
      let s := if c.snapNow then s.releaseCkpt else s
      let s := s.deviceWrite (c.desc + 16) (leBytes 8 c.done.toNat)
      .next ({ s with ckpt := none, ckStatus := BitVec.ofNat 8 (c.outcome.getD 1) }.pushEvent 2 false 0)

/-! ## Attestation (R369) -/

/-- AREQ: ignored while a request is busy. -/
def execAreq (v : DWord) (s : State) : Outcome State Fault Refusal :=
  if s.areq.isSome ∨ s.halted then .next s
  else if v.toNat % 64 = 0 && s.backedRange v.toNat 1024 then .next { s with areq := some v.toNat, astatErr := false }
  else .next { s with astatErr := true }

/-- DOMID (R363). -/
def State.domId (s : State) : Nat := s.boot.domIdx.toNat + s.boot.domSize.toNat * 2 ^ 16

/-- The fields that the engine writes at bytes [607:64]. -/
def State.evidence (s : State) : List Byte :=
  leBytes 8 (s.capRecord 0) ++ leBytes 8 (s.capRecord 0x100) ++ leBytes 8 (s.capRecord 0x101) ++ leBytes 8 s.domId
    ++ s.mrs.flatMap (fun m => leBytes 64 m.toNat)

/-- EVIDENCE_SIGNED: the block is filled and signed over bytes [671:0], and ASTAT[0] clears. -/
def execEvidenceSigned (s : State) : Outcome State Fault Refusal :=
  match if s.halted then none else s.areq with
  | none => .next s
  | some a =>
    let s := s.deviceWrite (a + 64) s.evidence
    let sig := leBytes 114 (Config.ed448Sign (s.deviceBytes a 672)).toNat
    .next { s.deviceWrite (a + 672) (sig ++ List.replicate 238 0) with areq := none }

/-! ## Links (R372) and the board controller (R384, R385) -/

/-- WEABER_LINK_DOWN. -/
def execWeaberLinkDown (link : Nat) (s : State) : Outcome State Fault Refusal :=
  if link < 9 * s.dies then .next { s with linksDown := setBit s.linksDown link true } else .next s

/-- WEABER_LINK_UP: the link is up; a flit that its check finds wrong is resent, which only the error log shows (R372,
R386). -/
def execWeaberLinkUp (l : LinkUp) (s : State) : Outcome State Fault Refusal :=
  if l.link < 9 * s.dies then
    let s := { s with linksDown := setBit s.linksDown l.link false }
    .next (if l.resent then s.elog 4 l.link 0 else s)
  else .next s

/-- PCAP: the board controller writes the cap. -/
def execPcap (v : DWord) (s : State) : Outcome State Fault Refusal := .next { s with pcap := v.setWidth 16 }

/-- The cap that a PCAP value asks for: 0 means the envelope, and no cap lies below 600 W. -/
def capOf (v : BitVec 16) : Nat := if v = 0 then 2400 else min 2400 (max 600 v.toNat)

/-- POWER_CAP_APPLY: the written cap takes effect. -/
def execPowerCapApply (s : State) : Outcome State Fault Refusal := .next { s with capInForce := capOf s.pcap }

/-- DYNAMIC_ADDRESS. -/
def execDynamicAddress (addr : BitVec 7) (s : State) : Outcome State Fault Refusal := .next { s with i3cAddr := addr }

/-- A register that the board controller reads. -/
def State.boardRead (s : State) (n : Nat) : Nat :=
  match n with
  | 0x0000 => s.capRecord 0
  | 0x0008 => s.capRecord 0x100
  | 0x0010 => s.boardState.toNat
  | 0x0018 => s.temp.toNat
  | 0x0020 => s.power.toNat
  | 0x0028 => s.pcap.toNat
  | 0x0030 => s.elogHead.toNat
  | n =>
    if 0x0100 ≤ n ∧ n < 0x2100 ∧ n % 32 = 0 then
      leNat (s.homeRead (s.elogBase.toNat + (n - 0x100)) 32).1
    else 0

end Sys2Proof.Machine
end

