-- ==== Sys2Proof/Machine/Riscv.lean ====
section
/-! DEFINITION. Riscv: what the instructions of the service cores do (R9, R22, R301, log 10): RV64GC with the machine,
supervisor and user modes for the signet cores and the policy core, RV32E in machine mode for the packet cores. The spec names
these instruction sets; their encodings and effects are those of the RISC-V manuals, which stand outside the spec (PRESUMED, log
10). The registers of RV32E stand sign-extended to 64 bits. -/

namespace Sys2Proof.Machine

/-! ## Instructions as sequences of accesses -/

/-- What a service core does next: an access of the instruction under way (its fetch, an entry of a page table, its data), or
the end of the instruction with the registers that it leaves. -/
inductive HartAct where
  | access (place : BusAddr) (op : BusOp)
  | retire (h : Hart)
  deriving DecidableEq, Repr

/-- An instruction: its end, or an access and what follows from what it gives, none for an access fault. -/
inductive Prog where
  | done (h : Hart)
  | ask (place : BusAddr) (op : BusOp) (k : Option DWord → Prog)

/-- Where an instruction stands once some of its accesses have been made. -/
def Prog.after : Prog → List (Option DWord) → HartAct
  | .done h, _ => .retire h
  | .ask place op _, [] => .access place op
  | .ask _ _ k, v :: r => (k v).after r

/-- A service core as its instructions find it. -/
structure Rv where
  m : BusMaster
  h : Hart
  irq : Bool
  deriving DecidableEq, Repr

/-- Whether it is a packet core, of RV32E; whether the policy core, which has an MMU of its own (R22). -/
def Rv.e (c : Rv) : Bool := match c.m with | .packet _ => true | _ => false
def Rv.mmu (c : Rv) : Bool := match c.m with | .policy => true | _ => false

/-! ## Registers -/

/-- A value as a register holds it: RV32E keeps 32 bits. -/
def Rv.fit (c : Rv) (v : DWord) : DWord := if c.e then (v.setWidth 32).signExtend 64 else v

/-- x[n]; x0 reads zero. -/
def Hart.gx (h : Hart) (n : Nat) : DWord := if n = 0 then 0 else h.x.getD (n - 1) 0

/-- Writes x[n]; x0 discards. -/
def Rv.sx (c : Rv) (h : Hart) (n : Nat) (v : DWord) : Hart :=
  if n = 0 then h else { h with x := upd h.x (n - 1) (fun _ => c.fit v) }

/-- A control and status register as it stands, and its new value. -/
def Hart.csrRaw (h : Hart) (n : Nat) : DWord := ((h.csr.find? (fun e => e.1 = n)).map Prod.snd).getD 0
def Hart.setCsr (h : Hart) (n : Nat) (v : DWord) : Hart :=
  { h with csr := h.csr.filter (fun e => e.1 ≠ n) ++ (if v = 0 then [] else [(n, v)]) }

/-! ## Modes and traps (R301) -/

/-- The number of a mode, and the mode of a number; 2 is none. -/
def modeNum : SvcMode → Nat
  | .u => 0
  | .s => 1
  | .m => 3
def modeOf : Nat → SvcMode
  | 0 => .u
  | 1 => .s
  | _ => .m

/-- mstatus. -/
def Hart.mstatus (h : Hart) : DWord := h.csrRaw 0x300

/-- Writes a field of w bits of mstatus. -/
def Hart.setStatus (h : Hart) (lo w v : Nat) : Hart :=
  let m := BitVec.ofNat 64 ((2 ^ w - 1) * 2 ^ lo)
  h.setCsr 0x300 ((h.mstatus &&& ~~~m) ||| (BitVec.ofNat 64 (v * 2 ^ lo) &&& m))

/-- The value of a trap register's cause: an interrupt has the top bit of the register set. -/
def Rv.cause (c : Rv) (intr : Bool) (n : Nat) : DWord :=
  c.fit (BitVec.ofNat 64 (n + if intr then (if c.e then 2 ^ 31 else 2 ^ 63) else 0))

/-- A core takes a trap: in S mode where it is delegated and the core stands below M, else in M mode. -/
def Rv.trapped (c : Rv) (h : Hart) (intr : Bool) (n : Nat) (tval : DWord) : Hart :=
  let deleg := h.mode ≠ .m && (h.csrRaw (if intr then 0x303 else 0x302)).getLsbD n
  let b := if deleg then 0x100 else 0x300
  let vec := h.csrRaw (b + 5)
  let old := modeNum h.mode
  let h' := ((h.setCsr (b + 0x41) h.pc).setCsr (b + 0x42) (c.cause intr n)).setCsr (b + 0x43) (c.fit tval)
  let ie := if deleg then 1 else 3
  let h' := (h'.setStatus (ie + 4) 1 (if h.mstatus.getLsbD ie then 1 else 0)).setStatus ie 1 0
  let h' := if deleg then h'.setStatus 8 1 old else h'.setStatus 11 2 old
  { h' with
    mode := if deleg then .s else .m
    pc := (vec &&& ~~~(3 : DWord)) + (if intr && vec.getLsbD 0 then BitVec.ofNat 64 (4 * n) else 0) }

/-- The instruction under way takes an exception. -/
def Rv.raise (c : Rv) (n : Nat) (tval : DWord) : Prog := .done (c.trapped c.h false n tval)

/-- mip: the bits that software writes, and the external interrupt (R314, R342, R363). -/
def Rv.mip (c : Rv) : DWord := (c.h.csrRaw 0x344 &&& 0x222) ||| (if c.irq then 0x800 else 0)

/-- The interrupt to take: the first pending and enabled one, those of M mode before those that are delegated. -/
def Rv.interrupt (c : Rv) : Option Nat :=
  let p := c.mip &&& c.h.csrRaw 0x304
  let d := c.h.csrRaw 0x303
  let st := c.h.mstatus
  let order := [11, 3, 7, 9, 1, 5]
  let m := if c.h.mode ≠ .m || st.getLsbD 3 then order.find? (fun n => p.getLsbD n && !d.getLsbD n) else none
  let s := if c.h.mode = .u || (c.h.mode = .s && st.getLsbD 1) then order.find? (fun n => p.getLsbD n && d.getLsbD n) else none
  m.or s

/-- Return from a trap taken in M mode, or in S mode. -/
def Rv.mret (c : Rv) : Hart :=
  let h := c.h
  let back := if c.e then .m else modeOf (bits h.mstatus.toNat 12 11)
  let h' := ((h.setStatus 3 1 (if h.mstatus.getLsbD 7 then 1 else 0)).setStatus 7 1 1).setStatus 11 2 (if c.e then 3 else 0)
  let h' := if back = .m then h' else h'.setStatus 17 1 0
  { h' with mode := back, pc := h.csrRaw 0x341 }
def Rv.sret (c : Rv) : Hart :=
  let h := c.h
  let back : SvcMode := if h.mstatus.getLsbD 8 then .s else .u
  let h' := ((h.setStatus 1 1 (if h.mstatus.getLsbD 5 then 1 else 0)).setStatus 5 1 1).setStatus 8 1 0
  { h'.setStatus 17 1 0 with mode := back, pc := h.csrRaw 0x141 }

/-! ## Control and status registers -/

/-- The bits of mstatus that software writes, and those of sstatus. -/
def statusMask : DWord := 0x7E79AA
def sstatusMask : DWord := 0xC6122

/-- mstatus as it reads: SXL and UXL of 64 bits, SD. -/
def Rv.readStatus (c : Rv) : DWord :=
  let v := c.h.mstatus
  if c.e then (v &&& 0x88) ||| 0x1800
  else v ||| 0xA00000000 ||| (if bits v.toNat 14 13 = 3 then 0x8000000000000000 else 0)

/-- Whether counter 0 or 2 may be read below M mode. -/
def Rv.counts (c : Rv) (n : Nat) : Bool :=
  (c.h.mode = .m || (c.h.csrRaw 0x306).getLsbD n) && (c.h.mode ≠ .u || (c.h.csrRaw 0x106).getLsbD n)

/-- What a control and status register reads; none where there is none, or not in this mode. -/
def Rv.csrRead (c : Rv) (n : Nat) : Option DWord :=
  let h := c.h
  if modeNum h.mode < bits n 9 8 then none
  else match n with
    | 0x001 | 0x002 | 0x003 =>
      if c.e || bits h.mstatus.toNat 14 13 = 0 then none
      else some (let v := h.csrRaw 3; if n = 1 then v &&& 0x1F else if n = 2 then (v >>> 5) &&& 7 else v)
    | 0x100 => if c.e then none else some (c.readStatus &&& (sstatusMask ||| 0x8000000200000000))
    | 0x104 => if c.e then none else some (h.csrRaw 0x304 &&& h.csrRaw 0x303)
    | 0x144 => if c.e then none else some (c.mip &&& h.csrRaw 0x303)
    | 0x105 | 0x106 | 0x10A | 0x140 | 0x141 | 0x142 | 0x143 => if c.e then none else some (h.csrRaw n)
    | 0x180 =>
      if c.e || (h.mode = .s && h.mstatus.getLsbD 20) then none else some (if c.mmu then h.csrRaw n else 0)
    | 0x300 => some c.readStatus
    | 0x301 => some (if c.e then 0x40000010 else 0x800000000014112D)
    | 0x302 | 0x303 | 0x306 => if c.e then none else some (h.csrRaw n)
    | 0x304 | 0x305 | 0x340 | 0x341 | 0x342 | 0x343 | 0x30A => some (h.csrRaw n)
    | 0x344 => some c.mip
    | 0x310 | 0xB80 | 0xB82 => if c.e then some (if n = 0x310 then 0 else (h.csrRaw (n - 0x80)).sshiftRight 32) else none
    | 0xB00 | 0xB02 => some (c.fit (h.csrRaw n))
    | 0xC00 | 0xC02 => if c.e || !c.counts (n - 0xC00) then none else some (h.csrRaw (n - 0x100))
    | 0xF11 | 0xF12 | 0xF13 | 0xF15 => some 0
    | 0xF14 => some (match c.m with
        | .signet cl _ | .signetPad cl _ => BitVec.ofNat 64 cl
        | .packet k => BitVec.ofNat 64 k
        | .policy => 0)
    | n =>
      if 0x3A0 ≤ n ∧ n < 0x3F0 ∨ 0x323 ≤ n ∧ n < 0x340 ∨ 0xB03 ≤ n ∧ n < 0xB20 then some 0
      else if 0xC03 ≤ n ∧ n < 0xC20 ∧ !c.e ∧ c.counts (n - 0xC00) then some 0
      else none

/-- The program-counter bits that an exception register holds: RV32E has no 16-bit instructions. -/
def Rv.pcMask (c : Rv) (v : DWord) : DWord := if c.e then v &&& ~~~(3 : DWord) else v &&& ~~~(1 : DWord)

/-- Writes the bits of a mask. -/
def mergeBits (old v mask : DWord) : DWord := (old &&& ~~~mask) ||| (v &&& mask)

/-- Writes mstatus through a mask; MPP holds only a mode that exists. -/
def Rv.writeStatus (c : Rv) (h : Hart) (v mask : DWord) : Hart :=
  let old := h.mstatus
  let new := mergeBits old v (if c.e then 0x88 else mask)
  let h := h.setCsr 0x300 new
  if bits new.toNat 12 11 = 2 then h.setStatus 11 2 (bits old.toNat 12 11) else h

/-- A write of a control and status register that csrRead has found. -/
def Rv.csrWrite (c : Rv) (h : Hart) (n : Nat) (v : DWord) : Hart :=
  match n with
  | 0x001 => (h.setCsr 3 (mergeBits (h.csrRaw 3) v 0x1F)).setStatus 13 2 3
  | 0x002 => (h.setCsr 3 (mergeBits (h.csrRaw 3) (v <<< 5) 0xE0)).setStatus 13 2 3
  | 0x003 => (h.setCsr 3 (v &&& 0xFF)).setStatus 13 2 3
  | 0x100 => c.writeStatus h v sstatusMask
  | 0x104 => h.setCsr 0x304 (mergeBits (h.csrRaw 0x304) v (h.csrRaw 0x303 &&& 0xAAA))
  | 0x144 => h.setCsr 0x344 (mergeBits (h.csrRaw 0x344) v (h.csrRaw 0x303 &&& 2))
  | 0x105 | 0x305 => h.setCsr n (v &&& ~~~(2 : DWord))
  | 0x106 | 0x306 => h.setCsr n (v &&& 0xFFFFFFFF)
  | 0x141 | 0x341 => h.setCsr n (c.pcMask v)
  | 0x140 | 0x142 | 0x143 | 0x340 | 0x342 | 0x343 => h.setCsr n v
  | 0x180 => if c.mmu && (v >>> 60 = 0 || v >>> 60 = 8) then h.setCsr n v else h
  | 0x300 => c.writeStatus h v statusMask
  | 0x302 => h.setCsr n (v &&& 0xB3FF)
  | 0x303 => h.setCsr n (v &&& 0x222)
  | 0x304 => h.setCsr n (v &&& 0xAAA)
  | 0x344 => h.setCsr n (v &&& 0x222)
  | 0xB00 | 0xB02 => h.setCsr n (if c.e then mergeBits (h.csrRaw n) v 0xFFFFFFFF else v)
  | 0xB80 | 0xB82 => h.setCsr (n - 0x80) (mergeBits (h.csrRaw (n - 0x80)) (v <<< 32) 0xFFFFFFFF00000000)
  | _ => h

/-! ## Reaching memory -/

/-- The kinds of access, with the exceptions that they raise: an access fault, a page fault, a misaligned address. -/
inductive RvKind where
  | fetch
  | load
  | store
  deriving DecidableEq, Repr

def RvKind.accessFault : RvKind → Nat
  | .fetch => 1
  | .load => 5
  | .store => 7
def RvKind.pageFault : RvKind → Nat
  | .fetch => 12
  | .load => 13
  | .store => 15
def RvKind.misaligned : RvKind → Nat
  | .fetch => 0
  | .load => 4
  | .store => 6

/-- The mode in which an access is made: under MPRV that of MPP. -/
def Rv.mode (c : Rv) (k : RvKind) : SvcMode :=
  if k ≠ .fetch && c.h.mstatus.getLsbD 17 && !c.e then modeOf (bits c.h.mstatus.toNat 12 11) else c.h.mode

/-- Where an access of this core goes once it has its address. -/
def Rv.place (c : Rv) (mode : SvcMode) (a : DWord) : BusAddr :=
  { master := match c.m with
      | .signet cl _ | .signetPad cl _ => .signet cl mode
      | m => m
    addr := a }

/-- Whether a leaf of Sv39 lets an access through. -/
def Rv.leafOk (c : Rv) (mode : SvcMode) (k : RvKind) (pte : Nat) : Bool :=
  let st := c.h.mstatus
  let user := bitN pte 4
  (if mode = .u then user else !user || (k ≠ .fetch && st.getLsbD 18))
    && (match k with
      | .fetch => bitN pte 3
      | .load => bitN pte 1 || (st.getLsbD 19 && bitN pte 3)
      | .store => bitN pte 2)
    && bitN pte 6 && (k ≠ .store || bitN pte 7)

/-- A walk of the policy core's tables, Sv39, from a level on (R22); what follows gets the physical address. -/
def Rv.sv39 (c : Rv) (mode : SvcMode) (k : RvKind) (va : DWord) (then' : DWord → Prog) : Nat → Nat → Prog
  | 0, _ => c.raise k.pageFault va
  | level + 1, table =>
    let at' := table + 8 * bits va.toNat (20 + 9 * level) (12 + 9 * level)
    .ask (c.place .m (BitVec.ofNat 64 at')) .read (fun r =>
      match r with
      | none => c.raise k.accessFault va
      | some e =>
        let pte := e.toNat
        let ppn := bits pte 53 10
        if !bitN pte 0 || (!bitN pte 1 && bitN pte 2) || bits pte 63 54 ≠ 0 then c.raise k.pageFault va
        else if bitN pte 1 || bitN pte 3 then
          if !c.leafOk mode k pte || ppn % 2 ^ (9 * level) ≠ 0 then c.raise k.pageFault va
          else then' (BitVec.ofNat 64 (4096 * ppn + va.toNat % 2 ^ (12 + 9 * level)))
        else if bitN pte 6 || bitN pte 7 || bitN pte 4 then c.raise k.pageFault va
        else c.sv39 mode k va then' level (4096 * ppn))

/-- Makes an access at a virtual address: the policy core's through its MMU; a signet core's in S and U mode goes through its
cluster's translation unit (R9, R317). -/
def Rv.reach (c : Rv) (k : RvKind) (va : DWord) (op : BusOp) (then' : DWord → Prog) : Prog :=
  let mode := c.mode k
  let go := fun (a : DWord) => Prog.ask (c.place mode a) op (fun r => match r with
    | none => c.raise k.accessFault va
    | some v => then' v)
  let satp := c.h.csrRaw 0x180
  if c.mmu && mode ≠ .m && satp >>> 60 = 8 then
    if (va.setWidth 39).signExtend 64 ≠ va then c.raise k.pageFault va
    else c.sv39 mode k va go 3 (4096 * bits satp.toNat 43 0)
  else go (if c.e then va &&& 0xFFFFFFFF else va)

/-! ## Fields and immediates -/

def rvOp (w : Nat) : Nat := bits w 6 0
def rvRd (w : Nat) : Nat := bits w 11 7
def rvF3 (w : Nat) : Nat := bits w 14 12
def rvRs1 (w : Nat) : Nat := bits w 19 15
def rvRs2 (w : Nat) : Nat := bits w 24 20
def rvF7 (w : Nat) : Nat := bits w 31 25

/-- A number of n bits, sign-extended. -/
def rvSext (n v : Nat) : DWord := (BitVec.ofNat n v).signExtend 64
def rvImmI (w : Nat) : DWord := rvSext 12 (bits w 31 20)
def rvImmS (w : Nat) : DWord := rvSext 12 (bits w 31 25 * 32 + bits w 11 7)
def rvImmB (w : Nat) : DWord :=
  rvSext 13 (bits w 31 31 * 4096 + bits w 7 7 * 2048 + bits w 30 25 * 32 + bits w 11 8 * 2)
def rvImmU (w : Nat) : DWord := rvSext 32 (bits w 31 12 * 4096)
def rvImmJ (w : Nat) : DWord :=
  rvSext 21 (bits w 31 31 * 1048576 + bits w 19 12 * 4096 + bits w 20 20 * 2048 + bits w 30 21 * 2)

/-- The integer registers that a word names; RV32E has x0 to x15. -/
def rvRegs (w : Nat) : List Nat :=
  match rvOp w with
  | 0x37 | 0x17 | 0x6F => [rvRd w]
  | 0x67 | 0x03 | 0x13 => [rvRd w, rvRs1 w]
  | 0x63 | 0x23 => [rvRs1 w, rvRs2 w]
  | 0x33 => [rvRd w, rvRs1 w, rvRs2 w]
  | 0x73 => if rvF3 w = 0 then [] else if rvF3 w < 4 then [rvRd w, rvRs1 w] else [rvRd w]
  | _ => []

/-! ## Integer arithmetic -/

/-- The operation of OP and OP-IMM; `alt` selects SUB and SRA. -/
def Rv.alu (c : Rv) (f3 : Nat) (alt : Bool) (a b : DWord) : DWord :=
  let n := b.toNat % (if c.e then 32 else 64)
  match f3 with
  | 0 => if alt then a - b else a + b
  | 1 => a <<< n
  | 2 => if a.slt b then 1 else 0
  | 3 => if a < b then 1 else 0
  | 4 => a ^^^ b
  | 5 => if alt then a.sshiftRight n else if c.e then (a &&& 0xFFFFFFFF) >>> n else a >>> n
  | 6 => a ||| b
  | _ => a &&& b

/-- The same of 32-bit words, sign-extended. -/
def rvAluW (f3 : Nat) (alt : Bool) (a b : DWord) : DWord :=
  let x : Word := a.setWidth 32
  let n := b.toNat % 32
  let r : Word := match f3 with
    | 0 => if alt then x - b.setWidth 32 else x + b.setWidth 32
    | 1 => x <<< n
    | _ => if alt then x.sshiftRight n else x >>> n
  r.signExtend 64

/-- The operation of the M extension on n-bit values. -/
def rvMul (n f3 : Nat) (a b : BitVec n) : BitVec n :=
  match f3 with
  | 0 => a * b
  | 1 => BitVec.ofInt n (a.toInt * b.toInt / 2 ^ n)
  | 2 => BitVec.ofInt n (a.toInt * (b.toNat : Int) / 2 ^ n)
  | 3 => BitVec.ofNat n (a.toNat * b.toNat / 2 ^ n)
  | 4 => if b = 0 then BitVec.allOnes n else a.sdiv b
  | 5 => if b = 0 then BitVec.allOnes n else a / b
  | 6 => if b = 0 then a else a.srem b
  | _ => if b = 0 then a else a % b

/-- The conditions of BRANCH; none where f3 names none. -/
def rvTaken (f3 : Nat) (a b : DWord) : Option Bool :=
  match f3 with
  | 0 => some (a = b)
  | 1 => some (a ≠ b)
  | 4 => some (a.slt b)
  | 5 => some (!a.slt b)
  | 6 => some (a < b)
  | 7 => some (!(a < b))
  | _ => none

/-- The operation of an AMO by its five bits. -/
def rvAmo : Nat → Option AtomOp
  | 0x00 => some .add
  | 0x01 => some .xchg
  | 0x04 => some .xor
  | 0x08 => some .or
  | 0x0C => some .and
  | 0x10 => some .min
  | 0x14 => some .max
  | 0x18 => some .minU
  | 0x1C => some .maxU
  | _ => none

/-! ## Floating point (the F and D extensions) -/

/-- Single or double precision. -/
def rvFmt (d : Bool) : Fmt := if d then fp64 else fp32

/-- f[n] as a value of a precision: a single that is not NaN-boxed reads as the default NaN. -/
def Hart.gf (h : Hart) (d : Bool) (n : Nat) : Nat :=
  let v := (h.f.getD n 0).toNat
  if d then v else if v / 2 ^ 32 = 2 ^ 32 - 1 then v % 2 ^ 32 else fp32.nan

/-- Writes f[n], NaN-boxed; mstatus.FS becomes dirty. -/
def Hart.sf (h : Hart) (d : Bool) (n : Nat) (v : Nat) : Hart :=
  { h.setStatus 13 2 3 with f := upd h.f n (fun _ => BitVec.ofNat 64 (if d then v else v % 2 ^ 32 + (2 ^ 64 - 2 ^ 32))) }

/-- Accrues exception flags, whose order is the reverse of R109's. -/
def Hart.accrue (h : Hart) (fl : BitVec 5) : Hart :=
  let b := fun (i n : Nat) => if fl.getLsbD i then (2 ^ n : Nat) else 0
  let v := BitVec.ofNat 64 (b 0 4 + b 1 3 + b 2 2 + b 3 1 + b 4 0)
  if v = 0 then h else (h.setCsr 3 (h.csrRaw 3 ||| v)).setStatus 13 2 3

/-- The rounding mode of an instruction, 7 that of frm; none where it names none. -/
def Hart.rm (h : Hart) (n : Nat) : Option Rm :=
  let n := if n = 7 then bits (h.csrRaw 3).toNat 7 5 else n
  if n ≤ 4 then some (rmOf n) else none

/-- A value converted to an integer of w bits: NaN gives the greatest, and a value out of range sets NV alone. -/
def rvToInt (s : Bool) (w : Nat) (rm : Rm) (v : FVal) : Int × BitVec 5 :=
  match v with
  | .nan _ => (intMax s w, FI)
  | .inf n => (if n then intMin s w else intMax s w, FI)
  | .fin n m e =>
    let (k, inx) := roundAt rm (exFin n m e) 0
    let i : Int := if n then -(k : Int) else k
    if i < intMin s w then (intMin s w, FI)
    else if intMax s w < i then (intMax s w, FI)
    else (i, if inx then FX else 0)

/-- OP-FP: the registers that it leaves; none for a word that is no instruction. -/
def Rv.fpOp (c : Rv) (w : Nat) : Option Hart :=
  let h := c.h
  let d := bits w 26 25 = 1
  let f := rvFmt d
  let a := h.gf d (rvRs1 w)
  let b := h.gf d (rvRs2 w)
  let rd := rvRd w
  let out := fun (r : FRes) => some ((h.accrue r.2).sf d rd r.1)
  let int := fun (v : DWord) (fl : BitVec 5) => some (c.sx (h.accrue fl) rd v)
  let rounded := fun (g : Rm → Option Hart) => (h.rm (rvF3 w)).bind g
  if 1 < bits w 26 25 then none
  else match bits w 31 27 with
  | 0x00 => rounded (fun rm => out (fadd f rm false a b))
  | 0x01 => rounded (fun rm => out (fsub f rm false a b))
  | 0x02 => rounded (fun rm => out (fmul f rm false a b))
  | 0x03 => rounded (fun rm => out (fdiv f rm false a b))
  | 0x0B => if rvRs2 w ≠ 0 then none else rounded (fun rm => out (fsqrt f rm false a))
  | 0x04 =>
    let top := f.signBit
    let sa := bitN a (f.width - 1)
    let sb := bitN b (f.width - 1)
    let put := fun (s : Bool) => some (h.sf d rd (a % top + if s then top else 0))
    (match rvF3 w with
    | 0 => put sb
    | 1 => put (!sb)
    | 2 => put (sa != sb)
    | _ => none)
  | 0x05 => if rvF3 w ≤ 1 then out (fminmax f (rvF3 w = 1) false false a b) else none
  | 0x08 =>
    if (d && rvRs2 w ≠ 0) || (!d && rvRs2 w ≠ 1) then none
    else rounded (fun rm =>
      match (rvFmt (!d)).val (h.gf (!d) (rvRs1 w)) with
      | .nan s => out (f.nan, if s then FI else 0)
      | .inf n => out (f.inf n, 0)
      | .fin n m e => out (f.round rm false (exFin n m e)))
  | 0x14 =>
    (match rvF3 w with
    | 0 => let r := fcmp f 3 false a b; int (if r.1 then 1 else 0) r.2
    | 1 => let r := fcmp f 2 false a b; int (if r.1 then 1 else 0) r.2
    | 2 => let r := fcmp f 0 false a b; int (if r.1 then 1 else 0) r.2
    | _ => none)
  | 0x18 =>
    if 3 < rvRs2 w then none
    else rounded (fun rm =>
      let n := if rvRs2 w < 2 then 32 else 64
      let r := rvToInt (rvRs2 w % 2 = 0) n rm (f.val a)
      int ((BitVec.ofInt n r.1).signExtend 64) r.2)
  | 0x1A =>
    if 3 < rvRs2 w then none
    else rounded (fun rm =>
      let i := intVal (rvRs2 w % 2 = 0) (if rvRs2 w < 2 then 32 else 64) (h.gx (rvRs1 w)).toNat
      out (f.round rm false { neg := i < 0, m := i.natAbs, e := 0 }))
  | 0x1C =>
    if rvRs2 w ≠ 0 then none
    else (match rvF3 w with
    | 0 =>
      let v := h.f.getD (rvRs1 w) 0
      int (if d then v else (v.setWidth 32).signExtend 64) 0
    | 1 => int (BitVec.ofNat 64 (2 ^ fclass f a)) 0
    | _ => none)
  | 0x1E => if rvRs2 w ≠ 0 || rvF3 w ≠ 0 then none else some (h.sf d rd ((h.gx (rvRs1 w)).toNat % 2 ^ f.width))
  | _ => none

/-- FMADD, FMSUB, FNMSUB and FNMADD. -/
def Rv.fpFused (c : Rv) (w : Nat) : Option Hart :=
  let h := c.h
  let d := bits w 26 25 = 1
  let f := rvFmt d
  let a := h.gf d (rvRs1 w)
  let b := h.gf d (rvRs2 w)
  let x := h.gf d (bits w 31 27)
  let (na, nx) := match rvOp w with
    | 0x43 => (false, false)
    | 0x47 => (false, true)
    | 0x4B => (true, false)
    | _ => (true, true)
  if 1 < bits w 26 25 then none
  else (h.rm (rvF3 w)).map (fun rm =>
    let r := ffma f rm false (if na then f.negate a else a) b (if nx then f.negate x else x)
    (h.accrue r.2).sf d (rvRd w) r.1)

/-! ## Instructions of 32 bits -/

/-- An instruction ends: the pc goes on, and the counters of cycles and instructions (log 10). -/
def Rv.retired (c : Rv) (h : Hart) (pc : DWord) : Prog :=
  let h := (h.setCsr 0xB02 (h.csrRaw 0xB02 + 1)).setCsr 0xB00 (h.csrRaw 0xB00 + 1)
  .done { h with pc := if c.e then pc &&& 0xFFFFFFFF else pc }

/-- A load of 2^log bytes into a register. -/
def Rv.load (c : Rv) (va : DWord) (log : Nat) (put : DWord → Prog) : Prog :=
  if va.toNat % 2 ^ log ≠ 0 then c.raise RvKind.load.misaligned va
  else c.reach .load va (.readN (BitVec.ofNat 2 log)) put

/-- A store of 2^log bytes. -/
def Rv.store (c : Rv) (va : DWord) (log : Nat) (v : DWord) (k : Prog) : Prog :=
  if va.toNat % 2 ^ log ≠ 0 then c.raise RvKind.store.misaligned va
  else c.reach .store va (.writeN (BitVec.ofNat 2 log) v) (fun _ => k)

/-- CSRRW, CSRRS, CSRRC and their immediate forms. -/
def Rv.csrOp (c : Rv) (w : Nat) (next : DWord) (ill : Prog) : Prog :=
  let n := bits w 31 20
  let src := if 4 ≤ rvF3 w then BitVec.ofNat 64 (rvRs1 w) else c.h.gx (rvRs1 w)
  let writes := rvF3 w % 4 = 1 || rvRs1 w ≠ 0
  match c.csrRead n with
  | none => ill
  | some old =>
    if writes && bits n 11 10 = 3 then ill
    else
      let new := match rvF3 w % 4 with
        | 1 => src
        | 2 => old ||| src
        | _ => old &&& ~~~src
      let h := if writes then c.csrWrite c.h n new else c.h
      c.retired (c.sx h (rvRd w) old) next

/-- SYSTEM with f3 = 0: calls, returns, WFI, which ends at once, and SFENCE.VMA. -/
def Rv.system (c : Rv) (w : Nat) (next : DWord) (ill : Prog) : Prog :=
  let h := c.h
  match w with
  | 0x00000073 => c.raise (8 + modeNum h.mode) 0
  | 0x00100073 => c.raise 3 h.pc
  | 0x30200073 => if h.mode = .m then c.retired c.mret (h.csrRaw 0x341) else ill
  | 0x10200073 => if c.e || h.mode = .u || (h.mode = .s && h.mstatus.getLsbD 22) then ill else c.retired c.sret (h.csrRaw 0x141)
  | 0x10500073 => if h.mode = .u || (h.mode = .s && h.mstatus.getLsbD 21) then ill else c.retired h next
  | _ =>
    if rvF7 w = 0x09 && rvRd w = 0 && !c.e && h.mode ≠ .u && !(h.mode = .s && h.mstatus.getLsbD 20) then c.retired h next else ill

/-- An instruction word at the pc; `next` is the address after it, and `raw` what an illegal one leaves in the trap value. -/
def Rv.exec (c : Rv) (w raw : Nat) (next : DWord) : Prog :=
  let h := c.h
  let a := h.gx (rvRs1 w)
  let b := h.gx (rvRs2 w)
  let rd := rvRd w
  let f3 := rvF3 w
  let ill := c.raise 2 (BitVec.ofNat 64 raw)
  let give := fun (v : DWord) => c.retired (c.sx h rd v) next
  let fp := !c.e && bits h.mstatus.toNat 14 13 ≠ 0
  let jump := fun (h : Hart) (t : DWord) => if c.e && t.toNat % 4 ≠ 0 then c.raise RvKind.fetch.misaligned t else c.retired h t
  if c.e && (rvRegs w).any (16 ≤ ·) then ill
  else match rvOp w with
  | 0x37 => give (rvImmU w)
  | 0x17 => give (h.pc + rvImmU w)
  | 0x6F => jump (c.sx h rd next) (h.pc + rvImmJ w)
  | 0x67 => if f3 ≠ 0 then ill else jump (c.sx h rd next) ((a + rvImmI w) &&& ~~~(1 : DWord))
  | 0x63 =>
    (match rvTaken f3 a b with
    | none => ill
    | some t => if t then jump h (h.pc + rvImmB w) else c.retired h next)
  | 0x03 =>
    let va := a + rvImmI w
    (match f3 with
    | 0 => c.load va 0 (fun v => give ((v.setWidth 8).signExtend 64))
    | 1 => c.load va 1 (fun v => give ((v.setWidth 16).signExtend 64))
    | 2 => c.load va 2 (fun v => give ((v.setWidth 32).signExtend 64))
    | 3 => if c.e then ill else c.load va 3 give
    | 4 => c.load va 0 (fun v => give ((v.setWidth 8).setWidth 64))
    | 5 => c.load va 1 (fun v => give ((v.setWidth 16).setWidth 64))
    | 6 => if c.e then ill else c.load va 2 (fun v => give ((v.setWidth 32).setWidth 64))
    | _ => ill)
  | 0x23 => if f3 ≤ (if c.e then 2 else 3) then c.store (a + rvImmS w) f3 b (c.retired h next) else ill
  | 0x13 =>
    let sh := if c.e then bits w 31 25 else bits w 31 26
    let alt := if c.e then 0x20 else 0x10
    if f3 = 1 && sh ≠ 0 || f3 = 5 && sh ≠ 0 && sh ≠ alt then ill
    else give (c.alu f3 (f3 = 5 && sh = alt) a (if f3 = 1 || f3 = 5 then BitVec.ofNat 64 (bits w 25 20) else rvImmI w))
  | 0x1B =>
    if c.e then ill
    else (match f3 with
    | 0 => give (rvAluW 0 false a (rvImmI w))
    | 1 => if rvF7 w = 0 then give (rvAluW 1 false a (BitVec.ofNat 64 (rvRs2 w))) else ill
    | 5 => if rvF7 w = 0 || rvF7 w = 0x20 then give (rvAluW 5 (rvF7 w = 0x20) a (BitVec.ofNat 64 (rvRs2 w))) else ill
    | _ => ill)
  | 0x33 =>
    if rvF7 w = 0 then give (c.alu f3 false a b)
    else if rvF7 w = 0x20 && (f3 = 0 || f3 = 5) then give (c.alu f3 true a b)
    else if rvF7 w = 1 && !c.e then give (rvMul 64 f3 a b)
    else ill
  | 0x3B =>
    if c.e then ill
    else if (rvF7 w = 0 && (f3 = 0 || f3 = 1 || f3 = 5)) || (rvF7 w = 0x20 && (f3 = 0 || f3 = 5)) then
      give (rvAluW f3 (rvF7 w = 0x20) a b)
    else if rvF7 w = 1 && (f3 = 0 || 4 ≤ f3) then give ((rvMul 32 f3 (a.setWidth 32) (b.setWidth 32)).signExtend 64)
    else ill
  | 0x0F =>
    if f3 = 0 || (f3 = 1 && !c.e) then .ask (c.place h.mode h.pc) .fence (fun _ => c.retired h next) else ill
  | 0x2F =>
    if c.e || (f3 ≠ 2 && f3 ≠ 3) then ill
    else
      let wide : Bool := f3 = 3
      let al := if wide then 8 else 4
      (match bits w 31 27 with
      | 0x02 =>
        if rvRs2 w ≠ 0 then ill
        else if a.toNat % al ≠ 0 then c.raise RvKind.load.misaligned a
        else c.reach .load a (.lr wide) (fun v => give (if wide then v else (v.setWidth 32).signExtend 64))
      | 0x03 =>
        if a.toNat % al ≠ 0 then c.raise RvKind.store.misaligned a else c.reach .store a (.sc wide b) give
      | n => match rvAmo n with
        | none => ill
        | some op =>
          if a.toNat % al ≠ 0 then c.raise RvKind.store.misaligned a else c.reach .store a (.amo op wide b) give)
  | 0x07 =>
    if !fp || (f3 ≠ 2 && f3 ≠ 3) then ill
    else c.load (a + rvImmI w) f3 (fun v => c.retired (h.sf (f3 = 3) rd v.toNat) next)
  | 0x27 =>
    if !fp || (f3 ≠ 2 && f3 ≠ 3) then ill
    else c.store (a + rvImmS w) f3 (h.f.getD (rvRs2 w) 0) (c.retired h next)
  | 0x53 =>
    (match if fp then c.fpOp w else none with
    | some h => c.retired h next
    | none => ill)
  | 0x43 | 0x47 | 0x4B | 0x4F =>
    (match if fp then c.fpFused w else none with
    | some h => c.retired h next
    | none => ill)
  | 0x73 => if f3 = 0 then c.system w next ill else if f3 = 4 then ill else c.csrOp w next ill
  | _ => ill

/-! ## Instructions of 16 bits (the C extension) -/

def rvI (op f3 rd rs1 imm : Nat) : Nat := imm % 4096 * 2 ^ 20 + rs1 * 2 ^ 15 + f3 * 2 ^ 12 + rd * 2 ^ 7 + op
def rvS (op f3 rs1 rs2 imm : Nat) : Nat :=
  imm / 32 % 128 * 2 ^ 25 + rs2 * 2 ^ 20 + rs1 * 2 ^ 15 + f3 * 2 ^ 12 + imm % 32 * 2 ^ 7 + op
def rvR (op f3 f7 rd rs1 rs2 : Nat) : Nat := f7 * 2 ^ 25 + rs2 * 2 ^ 20 + rs1 * 2 ^ 15 + f3 * 2 ^ 12 + rd * 2 ^ 7 + op
def rvU (op rd imm : Nat) : Nat := imm % 2 ^ 20 * 2 ^ 12 + rd * 2 ^ 7 + op
def rvB (f3 rs1 rs2 imm : Nat) : Nat :=
  bits imm 12 12 * 2 ^ 31 + bits imm 10 5 * 2 ^ 25 + rs2 * 2 ^ 20 + rs1 * 2 ^ 15 + f3 * 2 ^ 12 + bits imm 4 1 * 2 ^ 8
    + bits imm 11 11 * 2 ^ 7 + 0x63
def rvJ (rd imm : Nat) : Nat :=
  bits imm 20 20 * 2 ^ 31 + bits imm 10 1 * 2 ^ 21 + bits imm 11 11 * 2 ^ 20 + bits imm 19 12 * 2 ^ 12 + rd * 2 ^ 7 + 0x6F

/-- The first and the second register of a 16-bit word, in their short forms x8 to x15, and rd. -/
def rvcA (c : Nat) : Nat := 8 + bits c 9 7
def rvcB (c : Nat) : Nat := 8 + bits c 4 2
def rvcD (c : Nat) : Nat := bits c 11 7
def rvcR (c : Nat) : Nat := bits c 6 2

/-- Six bits, sign-extended to n. -/
def rvc6 (c n : Nat) : Nat := bits c 6 2 + bits c 12 12 * (2 ^ n - 32)

/-- The 32-bit instruction that a 16-bit word stands for; none where it stands for none. -/
def rvExpand (c : Nat) : Option Nat :=
  let lw := bits c 6 6 * 4 + bits c 12 10 * 8 + bits c 5 5 * 64
  let ld := bits c 12 10 * 8 + bits c 6 5 * 64
  let lwsp := bits c 6 4 * 4 + bits c 12 12 * 32 + bits c 3 2 * 64
  let ldsp := bits c 6 5 * 8 + bits c 12 12 * 32 + bits c 4 2 * 64
  let swsp := bits c 12 9 * 4 + bits c 8 7 * 64
  let sdsp := bits c 12 10 * 8 + bits c 9 7 * 64
  let sh := bits c 6 2 + 32 * bits c 12 12
  let d := rvcD c
  match bits c 1 0, bits c 15 13 with
  | 0, 0 =>
    let imm := bits c 6 6 * 4 + bits c 5 5 * 8 + bits c 12 11 * 16 + bits c 10 7 * 64
    if imm = 0 then none else some (rvI 0x13 0 (rvcB c) 2 imm)
  | 0, 1 => some (rvI 0x07 3 (rvcB c) (rvcA c) ld)
  | 0, 2 => some (rvI 0x03 2 (rvcB c) (rvcA c) lw)
  | 0, 3 => some (rvI 0x03 3 (rvcB c) (rvcA c) ld)
  | 0, 5 => some (rvS 0x27 3 (rvcA c) (rvcB c) ld)
  | 0, 6 => some (rvS 0x23 2 (rvcA c) (rvcB c) lw)
  | 0, 7 => some (rvS 0x23 3 (rvcA c) (rvcB c) ld)
  | 1, 0 => some (rvI 0x13 0 d d (rvc6 c 12))
  | 1, 1 => if d = 0 then none else some (rvI 0x1B 0 d d (rvc6 c 12))
  | 1, 2 => some (rvI 0x13 0 d 0 (rvc6 c 12))
  | 1, 3 =>
    if d = 2 then
      let imm := bits c 6 6 * 16 + bits c 2 2 * 32 + bits c 5 5 * 64 + bits c 4 3 * 128 + bits c 12 12 * (4096 - 512)
      if imm = 0 then none else some (rvI 0x13 0 2 2 imm)
    else
      let imm := rvc6 c 20
      if imm = 0 then none else some (rvU 0x37 d imm)
  | 1, 4 =>
    let a := rvcA c
    let b := rvcB c
    (match bits c 11 10 with
    | 0 => some (rvI 0x13 5 a a sh)
    | 1 => some (rvI 0x13 5 a a (0x400 + sh))
    | 2 => some (rvI 0x13 7 a a (rvc6 c 12))
    | _ => match bits c 12 12, bits c 6 5 with
      | 0, 0 => some (rvR 0x33 0 0x20 a a b)
      | 0, 1 => some (rvR 0x33 4 0 a a b)
      | 0, 2 => some (rvR 0x33 6 0 a a b)
      | 0, _ => some (rvR 0x33 7 0 a a b)
      | _, 0 => some (rvR 0x3B 0 0x20 a a b)
      | _, 1 => some (rvR 0x3B 0 0 a a b)
      | _, _ => none)
  | 1, 5 =>
    let imm := bits c 5 3 * 2 + bits c 11 11 * 16 + bits c 2 2 * 32 + bits c 7 7 * 64 + bits c 6 6 * 128 + bits c 10 9 * 256
      + bits c 8 8 * 1024 + bits c 12 12 * (2 ^ 21 - 2048)
    some (rvJ 0 imm)
  | 1, n =>
    let imm := bits c 4 3 * 2 + bits c 11 10 * 8 + bits c 2 2 * 32 + bits c 6 5 * 64 + bits c 12 12 * (2 ^ 13 - 256)
    some (rvB (n - 6) (rvcA c) 0 imm)
  | 2, 0 => some (rvI 0x13 1 d d sh)
  | 2, 1 => some (rvI 0x07 3 d 2 ldsp)
  | 2, 2 => if d = 0 then none else some (rvI 0x03 2 d 2 lwsp)
  | 2, 3 => if d = 0 then none else some (rvI 0x03 3 d 2 ldsp)
  | 2, 4 =>
    let b := rvcR c
    if bits c 12 12 = 0 then
      if b ≠ 0 then some (rvR 0x33 0 0 d 0 b) else if d = 0 then none else some (rvI 0x67 0 0 d 0)
    else if b ≠ 0 then some (rvR 0x33 0 0 d d b)
    else if d = 0 then some 0x00100073 else some (rvI 0x67 0 1 d 0)
  | 2, 5 => some (rvS 0x27 3 2 (rvcR c) sdsp)
  | 2, 6 => some (rvS 0x23 2 2 (rvcR c) swsp)
  | 2, 7 => some (rvS 0x23 3 2 (rvcR c) sdsp)
  | _, _ => none

/-! ## The next act of a service core -/

/-- The instruction at the pc, with its fetch of 16 bits at a time. -/
def Rv.prog (c : Rv) : Prog :=
  let pc := c.h.pc
  c.reach .fetch pc .fetch (fun lo =>
    let lo := lo.toNat % 65536
    if lo % 4 ≠ 3 then
      (if c.e then c.raise 2 (BitVec.ofNat 64 lo)
      else match rvExpand lo with
        | some w => c.exec w lo (pc + 2)
        | none => c.raise 2 (BitVec.ofNat 64 lo))
    else c.reach .fetch (pc + 2) .fetch (fun hi =>
      let w := lo + 65536 * (hi.toNat % 65536)
      c.exec w w (pc + 4)))

/-- What a service core does next, from its registers and what the instruction under way has read: before an instruction it
takes an interrupt that is pending and enabled. -/
def hartNext (m : BusMaster) (h : Hart) (irq : Bool) : HartAct :=
  let c : Rv := { m := m, h := { h with got := [] }, irq := irq }
  match if h.got.isEmpty then c.interrupt else none with
  | some n => .retire (c.trapped c.h true n 0)
  | none => c.prog.after h.got

end Sys2Proof.Machine
end

