-- ==== Sys2Proof/Machine/Bus.lean ====
section
/-! DEFINITION. Bus: the registers that the service cores reach, read and written: the control space (R316, R317, R363), the
front registers (R342, R343, R353, R359, R362), and the service cores' own accesses to memory (R9, R22, R317). -/

namespace Sys2Proof.Machine

open Host (Outcome)

/-- The state that a step leaves. -/
def nextOr (s : State) : Outcome State Fault Refusal → State
  | .next t => t
  | _ => s

/-! ## Core service blocks and translation-unit blocks (R317) -/

/-- A register of a core service block that has no step of its own; reserved bits read zero (R3). -/
def CoreBlock.write (c : CoreBlock) (off : Nat) (v : DWord) : CoreBlock :=
  match off with
  | 0x000 => { c with mbxBase := v &&& 0xFFFFFFFFFFFF0000 }
  | 0x010 => { c with resVal := v &&& 0xFFFFFFFF }
  | 0x018 => { c with resPc := v &&& 0xFFFFFFFC }
  | 0x020 => { c with stepMask := v.setWidth 15 }
  | 0x038 => { c with savePtr := v &&& 0xFFFFFFFFFFFFF000 }
  | 0x068 => { c with kpcd0 := v &&& 0x01FFFFFFFFFFFFFF }
  | 0x070 => { c with kpcd1 := v &&& 0x01FFFFFFFFFFF000 }
  | _ => c

/-- A write to a core service block: LANECTL, JOBCTL and SAVECTL act at once. -/
def State.coreWrite (s : State) (core off : Nat) (v : DWord) : State :=
  match off with
  | 0x008 => nextOr s (match selAct v with
    | 0 => execLanectlComplete core v s
    | 1 => execLanectlRetry core v s
    | 2 => execLanectlKill core v s
    | _ => execLanectlSetpc core v s)
  | 0x028 => nextOr s (if v.getLsbD 8 then execJobctlFail core v s else execJobctlResume core v s)
  | 0x030 => nextOr s (
      if v.getLsbD 9 then execSavectlDiscard core v s
      else if v.getLsbD 8 then execSavectlRestore core v s
      else execSavectlSave core v s)
  | off => s.modCore core (fun c => c.write off v)

/-- SAVESTAT. -/
def CoreBlock.saveStat (c : CoreBlock) : DWord :=
  (if c.saveBusy then 1 else 0) ||| (if c.saveNoFit then 2 else 0) ||| (if c.saveUnreadable then 4 else 0)

/-- SLOTGEN of four slots from n on: 16 bits each, slot 15 the keeper's. -/
def CoreBlock.slotGen (c : CoreBlock) (n : Nat) : DWord :=
  sget c.gens (n + 3) ++ (sget c.gens (n + 2) ++ (sget c.gens (n + 1) ++ sget c.gens n))

/-- What a register of a core service block reads; a reserved or write-only one reads zero. -/
def CoreBlock.read (c : CoreBlock) (off : Nat) : DWord :=
  match off with
  | 0x000 => c.mbxBase
  | 0x010 => c.resVal
  | 0x018 => c.resPc
  | 0x020 => c.stepMask.setWidth 64
  | 0x038 => c.savePtr
  | 0x040 => c.saveStat
  | 0x048 => c.slotGen 0
  | 0x050 => c.slotGen 4
  | 0x058 => c.slotGen 8
  | 0x060 => c.slotGen 12
  | 0x068 => c.kpcd0
  | 0x070 => c.kpcd1
  | _ => 0

/-- A register of a translation-unit block that has no step of its own. -/
def TuBlock.write (t : TuBlock) (off : Nat) (v : DWord) : TuBlock :=
  match off with
  | 0x000 => { t with sqBase := v &&& 0xFFFFFFFFFFE00000 }
  | 0x018 => { t with invAddr := v }
  | 0x030 => { t with sigRoot := v }
  | _ => t

/-- INVSTAT: an invalidation is busy until every access translated before it has been performed (R323). -/
def State.invBusy (s : State) (cluster : Nat) : Bool := !s.performed (s.tu cluster).invUpto

/-- What a register of a translation-unit block reads; SQPOP is a step of its own. -/
def State.tuRead (s : State) (cluster off : Nat) : DWord :=
  let t := s.tu cluster
  match off with
  | 0x000 => t.sqBase
  | 0x010 => t.sqCount.setWidth 64
  | 0x018 => t.invAddr
  | 0x028 => if s.invBusy cluster then 1 else 0
  | 0x030 => t.sigRoot
  | _ => 0

/-! ## The device block (R363) -/

/-- HOSTCTL: a function whose bit is clear reads device status 0 (R365). -/
def State.writeHostCtl (s : State) (v : BitVec 4) : State :=
  { s with
    hostCtl := v
    fns := updAll (fun i (f : VirtioFn) => if v.getLsbD i then f else { f with status := 0 }) 0 s.fns }

/-- A write to the device block. -/
def State.deviceBlockWrite (s : State) (off : Nat) (v : DWord) : State :=
  if off = 0x10 then s.writeHostCtl (v.setWidth 4)
  else if off = 0x6000 then nextOr s (execCkcmd v s)
  else if off = 0x7000 then nextOr s (execAreq v s)
  else if 0x1000 ≤ off ∧ off < 0x2000 then
    let n := (off - 0x1000) / 16
    if off % 16 = 0 then nextOr s (if v.getLsbD 63 then execInbCommit n v s else execInbClear n v s)
    else if bitN (s.inbWord n 0) 63 then s else s.setInb n 1 (v &&& 0x7FFFFFF)
  else if 0x3000 ≤ off ∧ off < 0x5000 ∧ (off - 0x3000) % 0x1000 < 8 * 288 then
    let d := (off - 0x3000) / 0x1000
    if d < s.dies then { s with route := sset s.route (512 * d + (off - 0x3000) % 0x1000 / 8) (v &&& 0x1FF) } else s
  else s

/-- CKSTAT and ASTAT. -/
def State.ckStat (s : State) : DWord := (if s.ckpt.isSome then 1 else 0) ||| (s.ckStatus.setWidth 64 <<< 8)
def State.aStat (s : State) : DWord := (if s.areq.isSome then 1 else 0) ||| (if s.astatErr then 2 else 0)

/-- What a register of the device block reads; HOSTEV is a step of its own. -/
def State.deviceBlockRead (s : State) (off : Nat) : DWord :=
  if 0x1000 ≤ off ∧ off < 0x2000 then sget s.inb ((off - 0x1000) / 8)
  else if 0x3000 ≤ off ∧ off < 0x5000 then
    (if (off - 0x3000) % 0x1000 < 8 * 288 then sget s.route (512 * ((off - 0x3000) / 0x1000) + (off - 0x3000) % 0x1000 / 8) else 0)
  else match off with
    | 0x0000 => BitVec.ofNat 64 s.domId
    | 0x0010 => s.hostCtl.setWidth 64
    | 0x6008 => s.ckStat
    | 0x7008 => s.aStat
    | 0x8000 => s.elogBase
    | 0x8008 => s.elogHead.setWidth 64
    | _ => 0

/-! ## The control space (R316) -/

/-- The unit that an offset of the control space names. -/
def ctlUnit (off : Nat) : Nat := off % 0x1000000000 / 0x10000

/-- Whether the unit is present: an access to an absent one takes an access fault. -/
def State.ctlPresent (s : State) (off : Nat) : Bool :=
  match off / 0x1000000000 with
  | 0 => ctlUnit off < s.dies
  | 1 => ctlUnit off < s.ncores
  | 2 => ctlUnit off < s.nclusters
  | 3 => ctlUnit off = 0
  | _ => false

/-- A write in the control space, to a unit that is present. -/
def State.controlWrite (s : State) (off : Nat) (v : DWord) : State :=
  let unit := ctlUnit off
  let r := off % 0x10000
  match off / 0x1000000000 with
  | 0 =>
    let n := r / 16
    if 64 ≤ n then s
    else if r % 16 = 0 then nextOr s (if v.getLsbD 63 then execArtCommit unit n v s else execArtClear unit n v s)
    else if bitN (s.artWord unit n 0) 63 then s else s.setArt unit n 1 (v &&& 0x7FFFFFF)
  | 1 => s.coreWrite unit r v
  | 2 => if r = 0x020 then nextOr s (execInvcmd unit v s) else s.modTu unit (fun t => t.write r v)
  | 3 => s.deviceBlockWrite r v
  | _ => s

/-- A read in the control space, of a unit that is present. -/
def State.controlRead (s : State) (off : Nat) : State :=
  let unit := ctlUnit off
  let r := off % 0x10000
  let gives := fun (v : DWord) => { s with busRead := v }
  match off / 0x1000000000 with
  | 0 => gives (if r < 1024 then sget s.art (128 * unit + r / 8) else 0)
  | 1 => gives ((s.coreBlock unit).read r)
  | 2 => if r = 0x008 then nextOr s (execSqpop unit s) else gives (s.tuRead unit r)
  | 3 => if r = 0x008 then nextOr s (execHostev s) else gives (s.deviceBlockRead r)
  | _ => s

/-! ## Front registers (R342, R343, R359, R362) -/

/-- A write of CTL: a commit, an unmap, or the fields that take effect at once. -/
def State.ctlWrite (s : State) (q : Nat) (v : DWord) : State :=
  let r := s.row q
  if r.valid then
    if !v.getLsbD 0 then nextOr s (execRowUnmap q v s)
    else
      let s := s.modRow q (fun r => { r with reserve := v.getLsbD 3, band := (v >>> 4).setWidth 2 })
      let s := nextOr s (if v.getLsbD 1 then execHoldSet q s else execHoldClear q s)
      if v.getLsbD 2 = r.preempt then s else nextOr s (if v.getLsbD 2 then execPreemptSet q s else execPreemptClear q s)
  else if v.getLsbD 0 then nextOr s (execRowCommit q v s)
  else s.modRow q (fun r => { r with
    hold := v.getLsbD 1, preempt := v.getLsbD 2, reserve := v.getLsbD 3, band := (v >>> 4).setWidth 2 })

/-- A write to a slot-table row (R343). -/
def State.rowWrite (s : State) (q off : Nat) (v : DWord) : State :=
  let r := s.row q
  if off = 0 then s.ctlWrite q v
  else if off = 16 then if r.valid then s else s.modRow q (fun r => { r with qdesc := v })
  else if 32 ≤ off then
    let sh := 8 * (off - 32)
    let m := (r.cores &&& ~~~((0xFFFFFFFFFFFFFFFF : BitVec 256) <<< sh)) ||| (v.setWidth 256 <<< sh)
    if r.valid && !s.coresPresent m then s else s.modRow q (fun r => { r with cores := m })
  else s

/-- What a word of a slot-table row reads. -/
def Row.read (r : Row) (off : Nat) : DWord :=
  if off = 0 then
    (if r.valid then 1 else 0) ||| (if r.hold then 2 else 0) ||| (if r.preempt then 4 else 0) ||| (if r.reserve then 8 else 0)
      ||| (r.band.setWidth 64 <<< 4)
  else if off = 16 then r.qdesc
  else if 32 ≤ off then (r.cores >>> (8 * (off - 32))).setWidth 64
  else 0

/-- What a word of a wait-for entry reads (R359). -/
def Row.waitRead (r : Row) (off : Nat) : DWord :=
  match off with
  | 0 => r.waitKind.setWidth 64
  | 16 => r.waits.setWidth 64
  | 24 => (r.waits >>> 64).setWidth 64
  | _ => 0

/-- A QCTL command (R362). It is accepted at once, so QSTAT reads 0. -/
def State.qctl (s : State) (v : DWord) : State :=
  match qctlCmd v with
  | 1 => nextOr s (execDestroy v.toNat s)
  | 2 => nextOr s (execDestroyForce v.toNat s)
  | 3 => nextOr s (execFailbar v.toNat s)
  | _ => s

/-- A RAMP register: its limits, without its reserved bits. -/
def Ramp.read (r : Ramp) : DWord := r.init.setWidth 64 ||| (r.step.setWidth 64 <<< 16) ||| (r.max.setWidth 64 <<< 32)

/-- A write to a front register; one of RAMP acts on the allowance from the next µs on (log 14). -/
def State.frontWrite (s : State) (off : Nat) (v : DWord) : State :=
  if off < 0x2000 then s.rowWrite (off / 64) (off % 64) v
  else if off = 0x3008 then s.qctl v
  else if 0x3020 ≤ off ∧ off < 0x3020 + 8 * s.dies then
    { s with ramps := upd s.ramps ((off - 0x3020) / 8) (fun r =>
      { r with init := v.setWidth 16, step := (v >>> 16).setWidth 16, max := (v >>> 32).setWidth 16 }) }
  else s

/-- A read of a front register; EVPOP takes the next event. -/
def State.frontRead (s : State) (off : Nat) : State :=
  let gives := fun (v : DWord) => { s with busRead := v }
  if off < 0x2000 then gives ((s.row (off / 64)).read (off % 64))
  else if off < 0x3000 then gives ((s.row ((off - 0x2000) / 32)).waitRead ((off - 0x2000) % 32))
  else if off = 0x3000 then nextOr s (execEvpop s)
  else if off = 0x3018 then gives (BitVec.ofNat 64 s.time)
  else if 0x3020 ≤ off ∧ off < 0x3020 + 8 * s.dies then gives (s.ramps.getD ((off - 0x3020) / 8) {}).read
  else gives 0

/-- A pending event holds the policy core's external interrupt (R342). -/
def State.policyIrq (s : State) : Bool := !s.events.isEmpty

/-! ## Accesses of the service cores (R9, R22, R316, R317) -/

/-- The number under which the writes of a service core are held at their homes (R243). -/
def busUnit : BusMaster → Nat
  | .signet cl _ | .signetPad cl _ => unitCore + 1 + cl
  | .policy => unitCore + 9
  | .packet n => unitCore + 10 + n

/-- Whether a master is a signet core. -/
def isSignet : BusMaster → Bool
  | .signet .. | .signetPad .. => true
  | _ => false

/-- What an access of a service core comes to: an access fault, nothing yet, or the state that it leaves. -/
inductive BusResult where
  | fault
  /-- An access fault whose reading of tables or memory has left something at the homes (R224, R328). -/
  | lost (s : State)
  | wait
  | done (s : State)
  deriving DecidableEq, Repr

/-- Whether an access is one of LR or SC, which local memory alone takes (log 10). -/
def noPair : BusOp → Bool
  | .lr _ | .sc .. => true
  | _ => false

/-- The bytes of an access. -/
def busSize : BusOp → Nat
  | .amo _ false _ | .lr false | .sc false _ => 4
  | .fetch => 2
  | .readN log | .writeN log _ => 2 ^ log.toNat
  | _ => 8

/-- The rights that an access needs. -/
def busRights : BusOp → Access
  | .write _ | .writeN .. | .sc .. => Access.store
  | .fetch => Access.fetch
  | .amo .. => { r := true, w := true }
  | _ => Access.load

/-- What an AMO of RISC-V writes (R229): the operations of its A extension; none for another. -/
def amoNew (op : AtomOp) (wide : Bool) (m b : DWord) : Option DWord :=
  let x := if wide then m else (m.setWidth 32).signExtend 64
  let y := if wide then b else (b.setWidth 32).signExtend 64
  match op with
  | .add => some (x + y)
  | .min => some (if x.slt y then x else y)
  | .minU => some (if x < y then x else y)
  | .max => some (if x.slt y then y else x)
  | .maxU => some (if x < y then y else x)
  | .and => some (x &&& y)
  | .or => some (x ||| y)
  | .xor => some (x ^^^ y)
  | .xchg => some y
  | _ => none

/-- What an access reads of a little-endian number of its size: an AMO of 4 bytes sign-extends it. -/
def busValue (op : BusOp) (n : Nat) : DWord :=
  match op with
  | .amo _ false _ => (BitVec.ofNat 32 n).signExtend 64
  | _ => BitVec.ofNat 64 n

/-- The bytes that an access writes over a number of its size; none for one that writes nothing. -/
def busWrites (op : BusOp) (old : DWord) : Option (List Byte) :=
  match op with
  | .write v => some (leBytes 8 v.toNat)
  | .writeN log v => some (leBytes (2 ^ log.toNat) v.toNat)
  | .amo o wide v => (amoNew o wide old v).map (fun x => leBytes (busSize op) (x.toNat % 2 ^ (8 * busSize op)))
  | _ => none

/-- An access at its home once nothing holds it: what it reads stands in busRead, and `put` writes its bytes. -/
def busRun (op : BusOp) (s : State) (n : Nat) (put : State → List Byte → State) : State :=
  let s' := match busWrites op (busValue op n) with
    | some bs => put s bs
    | none => s
  match op with
  | .write _ | .writeN .. => s'
  | _ => { s' with busRead := busValue op n }

/-- A write of a service core that finds no version room, or a held write on a line, is held there line by line (R243). -/
def State.holdBytes (s : State) (unit pa : Nat) (cameo : Bool) (l : List Byte) : State :=
  let cells := number pa l
  (linesAt pa l.length).foldl (fun s line =>
    s.holdWrite ((s.preservers line).headD 0) line cameo (cells.filter (fun c => c.1 / 128 = line)) unit) s

/-- A service core's access at a physical address of local memory, to a cameo line or not; a fault where no stack backs it or
an AMO is misaligned, and where its frame is retired or its reading meets a lasting error (R328). It waits while its slice serves a group's request first (R218); what reads waits for the core's own
held writes, and an AMO or an SC for version room; an SC stores where its core's reservation stands and its slice has applied no
write since (log 10); a write without room is held (R227, R243). -/
def State.physAccess (s : State) (unit pa : Nat) (cameo : Bool) (op : BusOp) : BusResult :=
  let n := busSize op
  let lines := linesAt pa n
  if !s.backedRange pa n then .fault
  else if !s.unitServed unit s.time lines then .wait
  else match op with
  | .sc _ v =>
    let mine := fun (r : Reservation) => r.unit = unit && r.pa = pa && r.number = sget s.slices (s.sliceOf pa)
    let gone : State := { s with reservations := s.reservations.filter (fun r => r.unit ≠ unit) }
    if pa % n ≠ 0 || s.framesLost pa n then .fault
    else if !s.reservations.any mine then .done { gone with busRead := 1 }
    else if !s.inboundRoom lines cameo then .wait
    else .done { gone.inboundWrite pa (leBytes n v.toNat) cameo with busRead := 0 }
  | .amo .. =>
    if pa % n ≠ 0 then .fault
    else if (s.badIn pa n).isSome then .lost (s.readRange pa n)
    else if !s.inboundRoom lines cameo then .wait
    else
      let s := s.readRange pa n
      .done (busRun op s (s.num .mem pa n) (fun s l => s.inboundWrite pa l cameo))
  | _ =>
    match busWrites op 0 with
    | some l => if s.framesLost pa n then .fault else .done (if s.inboundRoom lines cameo then s.inboundWrite pa l cameo else s.holdBytes unit pa cameo l)
    | none =>
      if s.writes.any (fun w => w.core = unit && lines.contains w.line) then .wait
      else if (s.badIn pa n).isSome then .lost (s.readRange pa n)
      else
        let s := s.readRange pa n
        let s := match op with
          | .lr _ => { s with reservations := s.reservations.filter (fun (r : Reservation) => r.unit ≠ unit)
                                ++ [({ unit := unit, pa := pa, number := sget s.slices (s.sliceOf pa) } : Reservation)] }
          | _ => s
        .done { s with busRead := BitVec.ofNat 64 (s.num .mem pa n) }

/-- An access of a signet core in S or U mode, through the page tables at SIGROOT with what its cluster's TLB has cached of
them (R9, R317); the control space is out of its reach. -/
def State.signetAccess (s : State) (cluster : Nat) (va : DWord) (op : BusOp) : BusResult :=
  let n := busSize op
  if 0x01F0000000000000 < va.toNat + n ∨ va.toNat % n ≠ 0 then .fault
  else
    let c : CtxDesc := { ptroot := (s.tu cluster).sigRoot.toNat }
    match s.translateCtx (.signet cluster) c va (busRights op) with
    | .error _ => .lost (s.walked (.signet cluster) c va)
    | .ok p =>
      let s := s.walked (.signet cluster) c va
      match p.space with
      | .mem => (match s.physAccess (busUnit (.signet cluster .s)) p.addr p.cameo op with
        | .fault => .lost s
        | r => r)
      | sp =>
        if !s.reachable sp || noPair op then .lost s
        else .done (busRun op s (s.num sp p.addr n) (fun s l => (s.put sp (number p.addr l)).fire))

/-- An access of a signet core at an offset of the scratchpad of a team on a core of its cluster, made at the owning core
(R9, R207); one on an absent line waits. The spec gives no address for it (log 65). -/
def State.padAccess (s : State) (cluster team off : Nat) (op : BusOp) : BusResult :=
  match s.team? team with
  | none => .fault
  | some t =>
    let n := busSize op
    if t.core / 32 ≠ cluster ∨ t.size < off + n ∨ off % n ≠ 0 ∨ noPair op then .fault
    else if !(t.absentOf off n).isEmpty then .wait
    else .done (busRun op s (s.num (.scratch team) off n) (fun s l => (s.put (.scratch team) (number off l)).fire))

/-- An access to the registers at a base, of 8 aligned bytes; an unaligned one, one of another size and an AMO do nothing
(log 65). -/
def State.regAccess (s : State) (a : Nat) (op : BusOp) (wr : State → DWord → State) (rd : State → State) : State :=
  if a % 8 ≠ 0 then s else match op with
    | .write v | .writeN 3 v => wr s v
    | .read | .readN 3 => rd s
    | _ => s

/-- An access of a signet core in M mode, by physical address, which carries no cameo attribute (log 65). -/
def State.machineAccess (s : State) (cluster a : Nat) (op : BusOp) : BusResult :=
  if 0x0000800000000000 ≤ a ∧ a < 0x0000900000000000 then
    if op = .fetch || noPair op then .fault else
    let off := a - 0x0000800000000000
    let resumes := off / 0x1000000000 = 1 && off % 0x10000 = 0x008 && (busWrites op 0).isSome
    if s.ctlPresent off && resumes && s.signetHeld (ctlUnit off / 32) then .wait
    else if s.ctlPresent off then .done (s.regAccess a op (fun s v => s.controlWrite off v) (fun s => s.controlRead off)) else .fault
  else s.physAccess (busUnit (.signet cluster .m)) a false op

/-- An access of the policy core: the front registers, or local memory, by physical address. -/
def State.policyAccess (s : State) (a : Nat) (op : BusOp) : BusResult :=
  if 0x0000900000000000 ≤ a ∧ a < 0x0000900000004000 then
    if op = .fetch || noPair op then .fault else
    let off := a - 0x0000900000000000
    .done (s.regAccess a op (fun s v => (s.frontWrite off v).refreshWaits) (fun s => s.frontRead off))
  else s.physAccess (busUnit .policy) a false op

/-- An access of a packet core to its tightly coupled memory, of a size that the spec does not give (log 65), 4 bytes at most;
an RV32E core has no AMO. -/
def State.tcmAccess (s : State) (n a : Nat) (op : BusOp) : BusResult :=
  let size := min 4 (busSize op)
  if s.tcm.length ≤ n ∨ noPair op ∨ 2 ^ 32 < a + size ∨ Config.tcmBytes < a + size then .fault
  else .done (match op, busWrites op 0 with
    | .amo .., _ => s
    | _, some l => { s with tcm := upd s.tcm n (fun m => ssets m (number a (l.take size))) }
    | _, none => { s with busRead := BitVec.ofNat 64 (leNat (sbytes (s.tcm.getD n []) a size)) })

/-- Whether a master runs: none in thermal stop or after a failed boot, and of the signet cores one that is present and
released. -/
def State.masterRuns (s : State) (m : BusMaster) : Bool :=
  !s.halted && (match m with
    | .signet cl _ | .signetPad cl _ => cl < s.nclusters && !(s.signets.getD cl {}).held
    | _ => true)

/-- Whether every page of n bytes at an address of a context is mapped with some rights. -/
def State.mapped (s : State) (c : CtxDesc) (va : DWord) (n : Nat) (acc : Access) : Bool :=
  n = 0 || (List.range ((va.toNat + n - 1) / 4096 + 1 - va.toNat / 4096)).all (fun i =>
    (s.frontPlace c (BitVec.ofNat 64 (max va.toNat (4096 * (va.toNat / 4096 + i)))) 1 acc).isSome)

/-- The loader fills n bytes of a data region from the object's data, a word at a time; the last may be shorter. -/
def State.copyData (s : State) (c : CtxDesc) (src dst : DWord) (n : Nat) : State :=
  (List.range ((n + 3) / 4)).foldl (fun s i =>
    let o := BitVec.ofNat 64 (4 * i)
    let s := s.recallFront c (src + o) 1
    match s.frontBytes c (src + o) 1, s.frontPlace c (dst + o) 4 .store with
    | some w, some p => (s.walked .none c (dst + o)).unitWrite c.ctxid p (w.take (n - 4 * i))
    | _, _ => s) s

/-- Whether an object's text is mapped with R and X and its data region, on a 128-byte boundary, with R and W (R103). -/
def State.placed (s : State) (c : CtxDesc) (o : CodeObject) (h : List Byte) : Bool :=
  o.data.toNat % 128 = 0
    && s.mapped c (o.addr + BitVec.ofNat 64 (field h 16 4)) (field h 20 4) { r := true, x := true }
    && s.mapped c o.data (field h 28 4) { r := true, w := true }

/-- The loader is given a code object and the address of its data region: it rejects it with a code, which stands in busRead,
or registers it in the context of a descriptor, where a later object of the same address takes the place of an earlier one,
with the object's data in the region; one whose text or region is not mapped as R103 has it is neither (R348, log 51). -/
def State.registerObject (s : State) (addr : DWord) (desc : Nat) (data : DWord) : State :=
  let s := s.readRange desc 256
  let c := s.readCtx desc
  let o : CodeObject := { addr := addr, data := data }
  let h := (s.frontBytes c addr 16).getD []
  let n := min 4096 (field h 8 4)
  let from' := addr + BitVec.ofNat 64 (field h 24 4)
  let s := (List.range n).foldl (fun s i => s.recallKernel c o from' i) (s.recallFront c addr 16)
  match s.loaderCode c o with
  | some code => { s with busRead := BitVec.ofNat 64 code }
  | none =>
    if !s.placed c o h then s
    else
      let s := if from' = data then s else s.copyData c from' data (field h 28 4)
      { s.modContext c.ctxid (fun k => { k with objects := k.objects.filter (fun p => p.addr ≠ addr) ++ [o] }) with busRead := 0 }

/-- An access of a service core at an address. -/
def State.busAccess (s : State) (place : BusAddr) (op : BusOp) : BusResult :=
  let a := place.addr.toNat
  match place.master with
  | .signet cl .m => s.machineAccess cl a op
  | .signet cl _ => s.signetAccess cl place.addr op
  | .signetPad cl t => s.padAccess cl t a op
  | .policy => s.policyAccess a op
  | .packet n => s.tcmAccess n a op

/-- Whether a held write of a service core keeps its FENCE waiting (R229, R243). -/
def State.fenceHeld (s : State) (m : BusMaster) : Bool := s.writes.any (fun w => w.core = busUnit m)

/-! ## The service cores' own instructions (R9, R22) -/

/-- The service core of a master. -/
def busCore : BusMaster → BusMaster
  | .signet cl _ | .signetPad cl _ => .signet cl .m
  | m => m

/-- The registers of a packet core as its instructions find them, sign-extended, and back. -/
def PacketHart.wide (h : PacketHart) : Hart :=
  { pc := h.pc.setWidth 64, x := h.x.map (fun v => v.signExtend 64), f := [], csr := h.csr, got := h.got }
def Hart.narrow (h : Hart) : PacketHart :=
  { pc := h.pc.setWidth 32, x := h.x.map (fun v => v.setWidth 32), csr := h.csr, got := h.got }

/-- The registers of the service core that a master names, and the registers set. -/
def State.hart (s : State) : BusMaster → Hart
  | .signet cl _ | .signetPad cl _ => (s.signets.getD cl {}).hart
  | .policy => s.policyHart
  | .packet n => (s.packetHarts.getD n {}).wide
def State.setHart (s : State) (m : BusMaster) (h : Hart) : State :=
  match m with
  | .signet cl _ | .signetPad cl _ => { s with signets := upd s.signets cl (fun c => { c with hart := h }) }
  | .policy => { s with policyHart := h }
  | .packet n => { s with packetHarts := upd s.packetHarts n (fun _ => h.narrow) }

/-- The external interrupt of a service core (R314, R342, R367). -/
def State.busIrq (s : State) : BusMaster → Bool
  | .signet cl _ | .signetPad cl _ => s.signetIrq cl
  | .policy => !s.events.isEmpty
  | .packet _ => false

/-- Whether an access is one that a service core's instruction can make: at its own place and in no higher mode. -/
def hartMay (h : Hart) (m : BusMaster) (place : BusAddr) (op : BusOp) : Bool :=
  (match op with
   | .register .. | .guestCid _ | .run => false
   | _ => true)
    && (match m, place.master with
      | .signet a _, .signet b p | .signetPad a _, .signet b p => a = b && (h.mode = .m || p ≠ .m) && (h.mode ≠ .u || p = .u)
      | .signet a _, .signetPad b _ | .signetPad a _, .signetPad b _ => a = b
      | .policy, .policy => true
      | .packet a, .packet b => a = b
      | _, _ => false)

/-- The registers that an instruction leaves: the satp of a signet core, register 0x180, reads 0 and ignores writes (R317). -/
def hartEnded (h : Hart) (m : BusMaster) : Hart :=
  { h with got := [], csr := if isSignet m then h.csr.filter (fun e => e.1 ≠ 0x180) else h.csr }

/-- Whether a service core executes instructions: the boot signet core does once its ROM has started an image (R368). -/
def State.hartRuns (s : State) : BusMaster → Bool
  | .signet 0 _ | .signetPad 0 _ => s.bootEntry.isSome
  | _ => true

/-- A service core goes on with its instructions: the next access of the one under way, whose result it keeps, or its end
(hartNext, log 10). -/
def State.runHart (s : State) (m : BusMaster) : State :=
  let h := s.hart m
  let told := fun (t : State) (v : Option DWord) => t.setHart m { h with got := h.got ++ [v] }
  match hartNext (busCore m) h (s.busIrq m) with
  | .retire h => s.setHart m (hartEnded h m)
  | .access place op =>
    if !hartMay h m place op then told s none
    else match op with
      | .fence => if s.fenceHeld m then s else told s (some 0)
      | op => match s.busAccess place op with
        | .fault => told { s with busFault := true } none
        | .lost t => told { t with busFault := true } none
        | .wait => s
        | .done t => told { t with busFault := false } (some t.busRead)

/-- REGISTER_WRITE: an access of a service core to a register or to memory. Only a signet core in M mode reaches the control
space, and only the policy core the front registers; what takes an access fault has no other effect (R316, R342). A FENCE
waits for the core's held writes, for its other accesses are performed in their own steps (R229, log 65). Filigree, on a
signet core, gives code objects to the loader and sets the guest_cid (R348, R365). A core's own instructions make their
accesses by `run`. -/
def execRegisterWrite (place : BusAddr) (op : BusOp) (s : State) : Outcome State Fault Refusal :=
  if !s.masterRuns place.master then .next s
  else match op with
  | .fence => .next (if s.fenceHeld place.master then s else { s with busFault := false })
  | .register desc data => .next (if isSignet place.master then s.registerObject place.addr desc.toNat data else s)
  | .guestCid v => .next (if isSignet place.master then { s with guestCid := v } else s)
  | .run => .next (if s.hartRuns place.master then s.runHart place.master else s)
  | op => .next (match s.busAccess place op with
      | .done t => { t with busFault := false }
      | .wait => s
      | .lost t => { t with busFault := true }
      | .fault => { s with busFault := true })

end Sys2Proof.Machine
end

