-- ==== Sys2Proof/Machine/Auto.lean ====
section
/-! DEFINITION. Auto: the device's own choice of its next step where the agenda is empty: the steps that its hardware may
make now, one after another in turn (log 1). Steps that software or the outside world makes come from the agenda alone. -/

namespace Sys2Proof.Machine

/-- The cores with a running lane. -/
def State.autoCores (s : State) : List Instr :=
  (dedup ((s.groups.filter (fun g => g.lanes.any Lane.running)).map Group.core)).map (fun c => .issueOpportunity ⟨c, []⟩)

/-- The next step of a request on its way to its slice: its injection, or its arrival. -/
def State.autoWay (s : State) (r : Request) (inject arrive : Instr) : Option Instr :=
  match r.way.stage with
  | .source => if s.canInject r then some inject else none
  | .bangle => if s.canArrive r then some arrive else none
  | .slice => none

/-- The next step of a write. -/
def State.autoWrite (s : State) (w : Write) : Option Instr :=
  if s.canEnter w then some (.homeApplyWrite w.id .enter)
  else if w.held then (if s.canRelease w then some (.heldWriteRelease w.id) else none)
  else if s.canApply w then some (.homeApplyWrite w.id .apply)
  else match w.space with
    | .mem => if s.mayGo w then s.autoWay w.request (.homeApplyWrite w.id .inject) (.homeApplyWrite w.id .arrive) else none
    | .scratch _ => none
    | .peer d => if s.overdue d w.born then some (.remoteGiveUp (.request w.id)) else none

/-- Whether a device that a load is yet to reach has not answered it in time. -/
def State.loadOverdue (s : State) (l : PendingLoad) : Bool :=
  l.lanes.any (fun x => match x.space with
    | .peer d => x.data.isEmpty && s.overdue d l.born
    | _ => false)

/-- The next step of a load's request for one line. -/
def State.autoLine (s : State) (l : PendingLoad) (line : Nat) : Option Instr :=
  let r := l.request line
  if !s.mayRead l .mem line then none
  else if s.served r && !s.readFails (128 * line) then some (.loadReturn l.id (.line line))
  else s.autoWay r (.loadReturn l.id (.inject line)) (.loadReturn l.id (.arrive line))

/-- The next steps of a load. -/
def State.autoLoad (s : State) (l : PendingLoad) : List Instr :=
  if s.canDeliver l then [.loadReturn l.id .deliver]
  else if s.canSample l then
    [.loadReturn l.id (match l.local? with
     | some a => if s.readFails a then .lasting else .sample
     | none => .sample)]
  else (l.linesLeft.filterMap (s.autoLine l)) ++ (if s.canOrder l then [.loadReturn l.id .order] else [])
    ++ (if s.canHome l then [.loadReturn l.id .home] else [])
    ++ (if s.loadOverdue l then [.remoteGiveUp (.request l.id)] else [])

/-- The next step of an acknowledgement: it arrives, or is given up with a route that is down. -/
def State.autoAck (s : State) (a : Ack) : Instr :=
  match a.space with
  | .peer d => if s.overdue d a.born then .remoteGiveUp (.request a.id) else .writeAck a.id
  | _ => .writeAck a.id

/-- Requests on their way. -/
def State.autoMem (s : State) : List Instr :=
  s.acks.map s.autoAck ++ s.writes.filterMap s.autoWrite ++ s.loads.flatMap s.autoLoad

/-- The next step of a job. -/
def State.autoJob (s : State) (j : Job) : Option Instr :=
  if j.stopped then none
  else if !j.started then (if s.canStart j then some (.jobStart j.id) else none)
  else match s.meets j with
    | .done _ => if !s.jobServed j j.nextAccesses && !j.asked.isEmpty then none
        else some (if j.units.isEmpty then .jobComplete j.id else .copyDelivery j.id 0)
    | .stop _ => some (.jobFault j.id .translation)
    | .unreachable _ => some (.jobFault j.id .unreachable)
    | .fatal _ => some (.jobFault j.id .fatal)
    | .held => none

/-- Engines. -/
def State.autoEngines (s : State) : List Instr :=
  s.jobs.filterMap s.autoJob ++ (number 0 s.engines).filterMap (fun e =>
    if e.2.entries.isEmpty then none
    else if e.2.entries.any MatEntry.granted then some (.matrixOpComplete e.1)
    else some (.engineGrant e.1))

/-- Whether a lane's memory wait may have ended. -/
def State.waitOver (s : State) (g : Group) (w : WaitFor) (lane : Nat) : Bool :=
  match w with
  | .watch => (match s.watches.find? (fun v => v.core = g.core && v.slot = g.slot && v.lane = lane) with
    | some v => v.fired && !s.hidden g.core g.slot v.space (v.addr / 128)
    | none => true)
  | _ => true

/-- Parked lanes of a group. -/
def State.autoGroup (s : State) (g : Group) : List Instr :=
  (if g.joinReady = 0 then [] else [.joinRelease g.core g.slot])
    ++ (number 0 g.lanes).filterMap (fun e => match e.2.st with
      | .park (.memWait w) => if s.waitOver g w e.1 then some (.mwaitWake g.core g.slot e.1) else none
      | _ => none)
    ++ (match g.team with
      | some t => if g.lanes.any (fun l => match l.st with | .park (.regroup ..) => true | _ => false)
          then [.regroupExecute t g.roleId] else []
      | none => [])

/-- Claims and the end of a team. -/
def State.autoTeam (s : State) (t : Team) : List Instr :=
  (if t.claims.isEmpty then [] else if s.claimDeadlock t then [.claimGrant t.id, .claimdl t.id] else [.claimGrant t.id])
    ++ (if s.canRetire t then [.teamRetire t.id] else [])

/-- A row's next steps. -/
def State.autoRow (s : State) (q : Nat) : List Instr :=
  let r := s.row q
  if !r.valid then []
  else
    (if s.rowWoken q then [.queueWake q] else [])
      ++ (match s.headPacket q with
        | none => if s.headGone q then [.packetNop q] else []
        | some (_, b) => if !s.mayIssue q b then []
            else if !hdrOk b then [.badpkt q]
            else match hdrType b with
              | 1 => [.packetLaunch q]
              | 2 => [.packetPool q]
              | 3 => [.packetBarrier q]
              | _ => [.packetNop q])
      ++ (if r.preempt && !r.lsaved then [.launchSaveWrite q] else [])

/-- A launch's next steps. -/
def State.autoLaunch (s : State) (l : Launch) : List Instr :=
  (if l.allStarted then [] else (List.range s.dies).map .dispatchStep)
    ++ (match l.pool with
      | some p => .poolRecordTake l.id :: (List.range p.bins.length).map (.binTimedFlush l.id)
      | none => [])

/-- Whether a queue's watchdog has expired, or the drain that it began may end. -/
def State.wdogDue (s : State) (d : Nat) : Bool :=
  match s.drains.find? (fun e => e.desc = d) with
  | some e => s.drainReady e
  | none => !s.draining d && (s.qdescAt d).wdogus ≠ 0 && (s.qdescAt d).wdogus ≤ s.wdog d

/-- The watchdogs and the drains. -/
def State.autoDrains (s : State) : List Instr :=
  (List.range (128 + s.unmappedQueues.length)).filterMap (fun n =>
    if ((s.wdogQueue n).map s.wdogDue).getD false then some (.watchdogExpiry n) else none)

/-- The front complex. -/
def State.autoFront (s : State) : List Instr :=
  (List.range 128).flatMap s.autoRow ++ s.autoDrains
    ++ s.unmapped.filterMap (fun u => if u.fired then none else some (.unmappedWake u.desc))
    ++ s.launches.flatMap s.autoLaunch
    ++ s.packets.filterMap (fun p => if p.typ = 3 then some (.barrierComplete p.id) else none)

/-- Pre-emption, saves and the version collector. -/
def State.autoService (s : State) : List Instr :=
  let places := dedup (s.teams.map (fun t => (t.core, t.ctx.ctxid)))
  places.filterMap (fun e =>
      if s.stopped.contains e then (if s.drained.contains e then none else some (.preemptDrainDone e.1 e.2))
      else if s.stopAsked e.1 e.2 then some (.preemptStop e.1 e.2) else none)
    ++ (number 0 s.cores).filterMap (fun e => if e.2.saveBusy then some (.saveComplete e.1) else none)
    ++ s.contexts.flatMap (fun c =>
      (c.versions.filter (fun v => v.succ ≤ s.floor c.id || !s.reaches c.id v)).map (fun v => .versionReclaim c.id v.line v.stamp)
        ++ (if c.full && c.used < c.vsSize then [.fullConditionClear c.id] else []))

/-- Checkpoints, evidence and the power cap. -/
def State.autoPlatform (s : State) : List Instr :=
  (match s.ckpt with
    | some c => if c.outcome.isSome || c.blocks.isEmpty then [.checkpointEnd] else [.checkpointBlock]
    | none => [])
    ++ (if s.areq.isSome then [.evidenceSigned] else [])
    ++ (if capOf s.pcap = s.capInForce then [] else [.powerCapApply])

/-- The steps that the hardware may make now; time always passes. -/
def State.candidates (s : State) : List Instr :=
  .rampTick :: (s.autoCores ++ s.autoMem ++ s.autoEngines ++ s.groups.flatMap s.autoGroup ++ s.teams.flatMap s.autoTeam
    ++ s.waitedClasps.map .claspTimeout ++ s.autoFront ++ s.autoService ++ s.autoPlatform)

/-- The next step: the candidates take turns. -/
def State.autoEvent (s : State) : Instr :=
  if s.halted then .rampTick
  else
    let l := s.candidates
    l.getD ((s.turn + s.turn / l.length) % l.length) .rampTick

end Sys2Proof.Machine
end

