-- ==== Sys2Proof/Machine/Dispatch.lean ====
section
/-! DEFINITION. Dispatch: one arm for each instruction and each step of the device. -/

namespace Sys2Proof.Machine

def exec (i : Instr) (s : State) : Host.Outcome State Fault Refusal :=
  match i with
  | .bra x n g o => Sys2Proof.Machine.execBra x n g o s
  | .call x n g o => Sys2Proof.Machine.execCall x n g o s
  | .loop x d a imm => Sys2Proof.Machine.execLoop x d a imm s
  | .loopi x d a imm => Sys2Proof.Machine.execLoopi x d a imm s
  | .bri x a => Sys2Proof.Machine.execBri x a s
  | .calli x a => Sys2Proof.Machine.execCalli x a s
  | .ret x => Sys2Proof.Machine.execRet x s
  | .exit x => Sys2Proof.Machine.execExit x s
  | .cjoin x a => Sys2Proof.Machine.execCjoin x a s
  | .yield x => Sys2Proof.Machine.execYield x s
  | .nop x => Sys2Proof.Machine.execNop x s
  | .cmark x d => Sys2Proof.Machine.execCmark x d s
  | .wbase x imm => Sys2Proof.Machine.execWbase x imm s
  | .sadd x d a b => Sys2Proof.Machine.execSadd x d a b s
  | .ssub x d a b => Sys2Proof.Machine.execSsub x d a b s
  | .smul x d a b => Sys2Proof.Machine.execSmul x d a b s
  | .smad x d a b => Sys2Proof.Machine.execSmad x d a b s
  | .sand x d a b => Sys2Proof.Machine.execSand x d a b s
  | .sor x d a b => Sys2Proof.Machine.execSor x d a b s
  | .sxor x d a b => Sys2Proof.Machine.execSxor x d a b s
  | .sshl x d a b => Sys2Proof.Machine.execSshl x d a b s
  | .sshr x d a b => Sys2Proof.Machine.execSshr x d a b s
  | .ssra x d a b => Sys2Proof.Machine.execSsra x d a b s
  | .smin x d a b => Sys2Proof.Machine.execSmin x d a b s
  | .smax x d a b => Sys2Proof.Machine.execSmax x d a b s
  | .scmp x d a b => Sys2Proof.Machine.execScmp x d a b s
  | .smov x d a => Sys2Proof.Machine.execSmov x d a s
  | .smovi x d imm => Sys2Proof.Machine.execSmovi x d imm s
  | .sread x d imm => Sys2Proof.Machine.execSread x d imm s
  | .swrite x a imm => Sys2Proof.Machine.execSwrite x a imm s
  | .iadd x d a b => Sys2Proof.Machine.execIadd x d a b s
  | .iaddc x d a b => Sys2Proof.Machine.execIaddc x d a b s
  | .isub x d a b => Sys2Proof.Machine.execIsub x d a b s
  | .imul x d a b => Sys2Proof.Machine.execImul x d a b s
  | .imulh x d a b => Sys2Proof.Machine.execImulh x d a b s
  | .imad x d a b => Sys2Proof.Machine.execImad x d a b s
  | .imadw x d a b => Sys2Proof.Machine.execImadw x d a b s
  | .iand x d a b => Sys2Proof.Machine.execIand x d a b s
  | .ior x d a b => Sys2Proof.Machine.execIor x d a b s
  | .ixor x d a b => Sys2Proof.Machine.execIxor x d a b s
  | .inot x d a => Sys2Proof.Machine.execInot x d a s
  | .ishl x d a b => Sys2Proof.Machine.execIshl x d a b s
  | .ishr x d a b => Sys2Proof.Machine.execIshr x d a b s
  | .isra x d a b => Sys2Proof.Machine.execIsra x d a b s
  | .imin x d a b => Sys2Proof.Machine.execImin x d a b s
  | .imax x d a b => Sys2Proof.Machine.execImax x d a b s
  | .iabs x d a => Sys2Proof.Machine.execIabs x d a s
  | .icmp x d a b => Sys2Proof.Machine.execIcmp x d a b s
  | .isel x d a b => Sys2Proof.Machine.execIsel x d a b s
  | .popc x d a => Sys2Proof.Machine.execPopc x d a s
  | .clz x d a => Sys2Proof.Machine.execClz x d a s
  | .brev x d a => Sys2Proof.Machine.execBrev x d a s
  | .bfx x d a b => Sys2Proof.Machine.execBfx x d a b s
  | .bfi x d a b => Sys2Proof.Machine.execBfi x d a b s
  | .lea x d a b => Sys2Proof.Machine.execLea x d a b s
  | .pand x d a b => Sys2Proof.Machine.execPand x d a b s
  | .por x d a b => Sys2Proof.Machine.execPor x d a b s
  | .pxor x d a b => Sys2Proof.Machine.execPxor x d a b s
  | .pnot x d a => Sys2Proof.Machine.execPnot x d a s
  | .pmov x d a => Sys2Proof.Machine.execPmov x d a s
  | .voteP x d a => Sys2Proof.Machine.execVoteP x d a s
  | .voteS x d a => Sys2Proof.Machine.execVoteS x d a s
  | .matchV x d a => Sys2Proof.Machine.execMatchV x d a s
  | .matchS x d a => Sys2Proof.Machine.execMatchS x d a s
  | .redIV x d a => Sys2Proof.Machine.execRedIV x d a s
  | .redIS x d a => Sys2Proof.Machine.execRedIS x d a s
  | .scanIV x d a => Sys2Proof.Machine.execScanIV x d a s
  | .scanIS x d a => Sys2Proof.Machine.execScanIS x d a s
  | .fadd x d a b => Sys2Proof.Machine.execFadd x d a b s
  | .fsub x d a b => Sys2Proof.Machine.execFsub x d a b s
  | .fmul x d a b => Sys2Proof.Machine.execFmul x d a b s
  | .ffma x d a b => Sys2Proof.Machine.execFfma x d a b s
  | .fmin x d a b => Sys2Proof.Machine.execFmin x d a b s
  | .fmax x d a b => Sys2Proof.Machine.execFmax x d a b s
  | .fcmp x d a b => Sys2Proof.Machine.execFcmp x d a b s
  | .fclass x d a => Sys2Proof.Machine.execFclass x d a s
  | .frnd x d a => Sys2Proof.Machine.execFrnd x d a s
  | .faddX x d a b => Sys2Proof.Machine.execFaddX x d a b s
  | .fsubX x d a b => Sys2Proof.Machine.execFsubX x d a b s
  | .fmulX x d a b => Sys2Proof.Machine.execFmulX x d a b s
  | .dwadd x d a b => Sys2Proof.Machine.execDwadd x d a b s
  | .dwsub x d a b => Sys2Proof.Machine.execDwsub x d a b s
  | .dwmul x d a b => Sys2Proof.Machine.execDwmul x d a b s
  | .dwnorm x d a => Sys2Proof.Machine.execDwnorm x d a s
  | .faddF64 x d a b => Sys2Proof.Machine.execFaddF64 x d a b s
  | .fsubF64 x d a b => Sys2Proof.Machine.execFsubF64 x d a b s
  | .fmulF64 x d a b => Sys2Proof.Machine.execFmulF64 x d a b s
  | .ffmaF64 x d a b => Sys2Proof.Machine.execFfmaF64 x d a b s
  | .fminF64 x d a b => Sys2Proof.Machine.execFminF64 x d a b s
  | .fmaxF64 x d a b => Sys2Proof.Machine.execFmaxF64 x d a b s
  | .fcmpF64 x d a b => Sys2Proof.Machine.execFcmpF64 x d a b s
  | .fclassF64 x d a => Sys2Proof.Machine.execFclassF64 x d a s
  | .frndF64 x d a => Sys2Proof.Machine.execFrndF64 x d a s
  | .faddXF64 x d a b => Sys2Proof.Machine.execFaddXF64 x d a b s
  | .fsubXF64 x d a b => Sys2Proof.Machine.execFsubXF64 x d a b s
  | .fmulXF64 x d a b => Sys2Proof.Machine.execFmulXF64 x d a b s
  | .dwaddF64 x d a b => Sys2Proof.Machine.execDwaddF64 x d a b s
  | .dwsubF64 x d a b => Sys2Proof.Machine.execDwsubF64 x d a b s
  | .dwmulF64 x d a b => Sys2Proof.Machine.execDwmulF64 x d a b s
  | .dwnormF64 x d a => Sys2Proof.Machine.execDwnormF64 x d a s
  | .fdiv x d a b => Sys2Proof.Machine.execFdiv x d a b s
  | .fsqrt x d a => Sys2Proof.Machine.execFsqrt x d a s
  | .frcp x d a => Sys2Proof.Machine.execFrcp x d a s
  | .frsq x d a => Sys2Proof.Machine.execFrsq x d a s
  | .fex2 x d a => Sys2Proof.Machine.execFex2 x d a s
  | .flg2 x d a => Sys2Proof.Machine.execFlg2 x d a s
  | .fsin x d a => Sys2Proof.Machine.execFsin x d a s
  | .fcos x d a => Sys2Proof.Machine.execFcos x d a s
  | .fdivF64 x d a b => Sys2Proof.Machine.execFdivF64 x d a b s
  | .fsqrtF64 x d a => Sys2Proof.Machine.execFsqrtF64 x d a s
  | .frcpF64 x d a => Sys2Proof.Machine.execFrcpF64 x d a s
  | .frsqF64 x d a => Sys2Proof.Machine.execFrsqF64 x d a s
  | .cvt x d a src t => Sys2Proof.Machine.execCvt x d a src t s
  | .redFV x d a => Sys2Proof.Machine.execRedFV x d a s
  | .redFS x d a => Sys2Proof.Machine.execRedFS x d a s
  | .redFcV x d a => Sys2Proof.Machine.execRedFcV x d a s
  | .redFcS x d a => Sys2Proof.Machine.execRedFcS x d a s
  | .scanF x d a => Sys2Proof.Machine.execScanF x d a s
  | .redFF64V x d a => Sys2Proof.Machine.execRedFF64V x d a s
  | .redFF64S x d a => Sys2Proof.Machine.execRedFF64S x d a s
  | .redFcF64 x d a => Sys2Proof.Machine.execRedFcF64 x d a s
  | .scanFF64 x d a => Sys2Proof.Machine.execScanFF64 x d a s
  | .flgr x d => Sys2Proof.Machine.execFlgr x d s
  | .flgc x m => Sys2Proof.Machine.execFlgc x m s
  | .qset x d a => Sys2Proof.Machine.execQset x d a s
  | .nset x d a => Sys2Proof.Machine.execNset x d a s
  | .ld x d a imm => Sys2Proof.Machine.execLd x d a imm s
  | .st x d a imm => Sys2Proof.Machine.execSt x d a imm s
  | .atomAdd x d a b => Sys2Proof.Machine.execAtomAdd x d a b s
  | .atomMin x d a b => Sys2Proof.Machine.execAtomMin x d a b s
  | .atomMax x d a b => Sys2Proof.Machine.execAtomMax x d a b s
  | .atomAnd x d a b => Sys2Proof.Machine.execAtomAnd x d a b s
  | .atomOr x d a b => Sys2Proof.Machine.execAtomOr x d a b s
  | .atomXor x d a b => Sys2Proof.Machine.execAtomXor x d a b s
  | .atomXchg x d a b => Sys2Proof.Machine.execAtomXchg x d a b s
  | .atomCas x d a b => Sys2Proof.Machine.execAtomCas x d a b s
  | .atomInc x d a b => Sys2Proof.Machine.execAtomInc x d a b s
  | .atomDec x d a b => Sys2Proof.Machine.execAtomDec x d a b s
  | .atomXchgT x d a b => Sys2Proof.Machine.execAtomXchgT x d a b s
  | .redMAdd x a b => Sys2Proof.Machine.execRedMAdd x a b s
  | .redMMin x a b => Sys2Proof.Machine.execRedMMin x a b s
  | .redMMax x a b => Sys2Proof.Machine.execRedMMax x a b s
  | .redMAnd x a b => Sys2Proof.Machine.execRedMAnd x a b s
  | .redMOr x a b => Sys2Proof.Machine.execRedMOr x a b s
  | .redMXor x a b => Sys2Proof.Machine.execRedMXor x a b s
  | .mwait x a b => Sys2Proof.Machine.execMwait x a b s
  | .fenceAcq x src => Sys2Proof.Machine.execFenceAcq x src s
  | .fenceRel x src => Sys2Proof.Machine.execFenceRel x src s
  | .fenceSc x src => Sys2Proof.Machine.execFenceSc x src s
  | .fenceEngine x => Sys2Proof.Machine.execFenceEngine x s
  | .fenceCode x => Sys2Proof.Machine.execFenceCode x s
  | .icinv x a => Sys2Proof.Machine.execIcinv x a s
  | .dcflush x a => Sys2Proof.Machine.execDcflush x a s
  | .dcinv x a => Sys2Proof.Machine.execDcinv x a s
  | .pref x a => Sys2Proof.Machine.execPref x a s
  | .hprobe x d a b => Sys2Proof.Machine.execHprobe x d a b s
  | .snap x d => Sys2Proof.Machine.execSnap x d s
  | .snrel x a => Sys2Proof.Machine.execSnrel x a s
  | .txb x d => Sys2Proof.Machine.execTxb x d s
  | .txc x d => Sys2Proof.Machine.execTxc x d s
  | .txa x => Sys2Proof.Machine.execTxa x s
  | .mma x d a b => Sys2Proof.Machine.execMma x d a b s
  | .mzero x d => Sys2Proof.Machine.execMzero x d s
  | .mld x d a => Sys2Proof.Machine.execMld x d a s
  | .mst x d a => Sys2Proof.Machine.execMst x d a s
  | .mdrain x d a b => Sys2Proof.Machine.execMdrain x d a b s
  | .mmap x d a => Sys2Proof.Machine.execMmap x d a s
  | .mburst x a => Sys2Proof.Machine.execMburst x a s
  | .tld x d a => Sys2Proof.Machine.execTld x d a s
  | .tmovTv x d a => Sys2Proof.Machine.execTmovTv x d a s
  | .tmovVt x d a => Sys2Proof.Machine.execTmovVt x d a s
  | .copy x a b => Sys2Proof.Machine.execCopy x a b s
  | .copyMc x a b => Sys2Proof.Machine.execCopyMc x a b s
  | .gather x a b => Sys2Proof.Machine.execGather x a b s
  | .coll x a b => Sys2Proof.Machine.execColl x a b s
  | .media x a b => Sys2Proof.Machine.execMedia x a b s
  | .arrive x a => Sys2Proof.Machine.execArrive x a s
  | .wait x d a => Sys2Proof.Machine.execWait x d a s
  | .arwait x d a => Sys2Proof.Machine.execArwait x d a s
  | .expect x a b => Sys2Proof.Machine.execExpect x a b s
  | .cltest x d a => Sys2Proof.Machine.execCltest x d a s
  | .rclaim x n => Sys2Proof.Machine.execRclaim x n s
  | .rrel x n => Sys2Proof.Machine.execRrel x n s
  | .regroup x a b => Sys2Proof.Machine.execRegroup x a b s
  | .sysc x a b => Sys2Proof.Machine.execSysc x a b s
  | .trap x n => Sys2Proof.Machine.execTrap x n s
  | .bkpt x n => Sys2Proof.Machine.execBkpt x n s
  | .mbxrd x d a => Sys2Proof.Machine.execMbxrd x d a s
  | .laneres x a b => Sys2Proof.Machine.execLaneres x a b s
  | .tlbinv x a b => Sys2Proof.Machine.execTlbinv x a b s
  | .eret x => Sys2Proof.Machine.execEret x s
  | .capr x d imm => Sys2Proof.Machine.execCapr x d imm s
  | .joinRelease core slot => Sys2Proof.Machine.execJoinRelease core slot s
  | .mwaitWake core slot lane => Sys2Proof.Machine.execMwaitWake core slot lane s
  | .engineGrant engine => Sys2Proof.Machine.execEngineGrant engine s
  | .matrixOpComplete engine => Sys2Proof.Machine.execMatrixOpComplete engine s
  | .jobStart job => Sys2Proof.Machine.execJobStart job s
  | .copyDelivery job unit => Sys2Proof.Machine.execCopyDelivery job unit s
  | .jobComplete job => Sys2Proof.Machine.execJobComplete job s
  | .jobFault job why => Sys2Proof.Machine.execJobFault job why s
  | .claspTimeout ref => Sys2Proof.Machine.execClaspTimeout ref s
  | .claimGrant team => Sys2Proof.Machine.execClaimGrant team s
  | .claimdl team => Sys2Proof.Machine.execClaimdl team s
  | .regroupExecute team role => Sys2Proof.Machine.execRegroupExecute team role s
  | .issueOpportunity c => Sys2Proof.Machine.execIssueOpportunity c s
  | .loadReturn id phase => Sys2Proof.Machine.execLoadReturn id phase s
  | .homeApplyWrite id phase => Sys2Proof.Machine.execHomeApplyWrite id phase s
  | .writeAck id => Sys2Proof.Machine.execWriteAck id s
  | .pageWalkComplete core ctx va => Sys2Proof.Machine.execPageWalkComplete core ctx va s
  | .versionReclaim ctx line stamp => Sys2Proof.Machine.execVersionReclaim ctx line stamp s
  | .heldWriteRelease id => Sys2Proof.Machine.execHeldWriteRelease id s
  | .preemptStop core ctx => Sys2Proof.Machine.execPreemptStop core ctx s
  | .preemptDrainDone core ctx => Sys2Proof.Machine.execPreemptDrainDone core ctx s
  | .saveComplete core => Sys2Proof.Machine.execSaveComplete core s
  | .queueWake row => Sys2Proof.Machine.execQueueWake row s
  | .unmappedWake desc => Sys2Proof.Machine.execUnmappedWake desc s
  | .packetLaunch row => Sys2Proof.Machine.execPacketLaunch row s
  | .packetPool row => Sys2Proof.Machine.execPacketPool row s
  | .packetBarrier row => Sys2Proof.Machine.execPacketBarrier row s
  | .packetNop row => Sys2Proof.Machine.execPacketNop row s
  | .badpkt row => Sys2Proof.Machine.execBadpkt row s
  | .barrierComplete packet => Sys2Proof.Machine.execBarrierComplete packet s
  | .dispatchStep die => Sys2Proof.Machine.execDispatchStep die s
  | .teamRetire team => Sys2Proof.Machine.execTeamRetire team s
  | .poolRecordTake launch => Sys2Proof.Machine.execPoolRecordTake launch s
  | .binTimedFlush launch bin => Sys2Proof.Machine.execBinTimedFlush launch bin s
  | .rampTick => Sys2Proof.Machine.execRampTick s
  | .launchSaveWrite row => Sys2Proof.Machine.execLaunchSaveWrite row s
  | .watchdogExpiry row => Sys2Proof.Machine.execWatchdogExpiry row s
  | .remoteGiveUp what => Sys2Proof.Machine.execRemoteGiveUp what s
  | .checkpointBlock => Sys2Proof.Machine.execCheckpointBlock s
  | .checkpointEnd => Sys2Proof.Machine.execCheckpointEnd s
  | .evidenceSigned => Sys2Proof.Machine.execEvidenceSigned s
  | .powerCapApply => Sys2Proof.Machine.execPowerCapApply s
  | .fullConditionClear ctx => Sys2Proof.Machine.execFullConditionClear ctx s
  | .onCoreError core slot err => Sys2Proof.Machine.execOnCoreError core slot err s
  | .lanectlComplete core sel => Sys2Proof.Machine.execLanectlComplete core sel s
  | .lanectlRetry core sel => Sys2Proof.Machine.execLanectlRetry core sel s
  | .lanectlKill core sel => Sys2Proof.Machine.execLanectlKill core sel s
  | .lanectlSetpc core sel => Sys2Proof.Machine.execLanectlSetpc core sel s
  | .jobctlResume core v => Sys2Proof.Machine.execJobctlResume core v s
  | .jobctlFail core v => Sys2Proof.Machine.execJobctlFail core v s
  | .savectlSave core v => Sys2Proof.Machine.execSavectlSave core v s
  | .savectlRestore core v => Sys2Proof.Machine.execSavectlRestore core v s
  | .savectlDiscard core v => Sys2Proof.Machine.execSavectlDiscard core v s
  | .sqpop cluster => Sys2Proof.Machine.execSqpop cluster s
  | .invcmd cluster v => Sys2Proof.Machine.execInvcmd cluster v s
  | .artCommit die entry v => Sys2Proof.Machine.execArtCommit die entry v s
  | .artClear die entry v => Sys2Proof.Machine.execArtClear die entry v s
  | .inbCommit entry v => Sys2Proof.Machine.execInbCommit entry v s
  | .inbClear entry v => Sys2Proof.Machine.execInbClear entry v s
  | .registerWrite place op => Sys2Proof.Machine.execRegisterWrite place op s
  | .rowCommit row ctl => Sys2Proof.Machine.execRowCommit row ctl s
  | .rowUnmap row ctl => Sys2Proof.Machine.execRowUnmap row ctl s
  | .holdClear row => Sys2Proof.Machine.execHoldClear row s
  | .holdSet row => Sys2Proof.Machine.execHoldSet row s
  | .preemptSet row => Sys2Proof.Machine.execPreemptSet row s
  | .preemptClear row => Sys2Proof.Machine.execPreemptClear row s
  | .evpop => Sys2Proof.Machine.execEvpop s
  | .destroy desc => Sys2Proof.Machine.execDestroy desc s
  | .destroyForce desc => Sys2Proof.Machine.execDestroyForce desc s
  | .failbar desc => Sys2Proof.Machine.execFailbar desc s
  | .deviceReset => Sys2Proof.Machine.execDeviceReset s
  | .thermalStop die => Sys2Proof.Machine.execThermalStop die s
  | .hotReset => Sys2Proof.Machine.execHotReset s
  | .linkDown => Sys2Proof.Machine.execLinkDown s
  | .linkUp => Sys2Proof.Machine.execLinkUp s
  | .functionLevelReset func => Sys2Proof.Machine.execFunctionLevelReset func s
  | .driverStatusChange func status => Sys2Proof.Machine.execDriverStatusChange func status s
  | .virtioRequest func desc => Sys2Proof.Machine.execVirtioRequest func desc s
  | .hostev => Sys2Proof.Machine.execHostev s
  | .inboundAccess src req => Sys2Proof.Machine.execInboundAccess src req s
  | .ckcmd v => Sys2Proof.Machine.execCkcmd v s
  | .areq v => Sys2Proof.Machine.execAreq v s
  | .mrExtend reg v => Sys2Proof.Machine.execMrExtend reg v s
  | .pcap v => Sys2Proof.Machine.execPcap v s
  | .contextEnd ctx => Sys2Proof.Machine.execContextEnd ctx s
  | .weaberLinkDown link => Sys2Proof.Machine.execWeaberLinkDown link s
  | .weaberLinkUp l => Sys2Proof.Machine.execWeaberLinkUp l s
  | .powerLoss => Sys2Proof.Machine.execPowerLoss s
  | .dynamicAddress addr => Sys2Proof.Machine.execDynamicAddress addr s

end Sys2Proof.Machine
end

