-- ==== Sys2Proof/Machine/Step.lean ====
section
/-! DEFINITION. Step: what happens next. An issue that a scheduler has selected comes first; then the agenda, the
device's next steps as plain data; and with neither, the deterministic choice of Auto.lean (log 1). -/

namespace Sys2Proof.Machine

/-- One step of the machine. -/
def step (s : State) : Host.Outcome State Fault Refusal :=
  match s.issueQ with
  | i :: r => match State.issueNext { s with issueQ := r } i with
    | .run j s => exec j s
    | .done s => .next s
  | [] => match s.agenda with
    | e :: r => exec e { s with agenda := r }
    | [] => exec s.autoEvent { s with turn := s.turn + 1 }

/-- `s` with an instruction placed where the next step fetches it. Where no issue is selected, a launch is loaded first
(log 3). -/
def State.withFetchWord (s : State) (nbits w : Nat) : State :=
  let s := if s.issueQ.isEmpty then s.loaded else s
  s.placeWords (fetchWords nbits w)

end Sys2Proof.Machine
end

