-- ==== Sys2Proof/Safety.lean ====
section
/-! DEFINITION. Safety: the terms in which claims are stated. A run is safe while every step answers a next state and the
invariant holds; an instruction's claim says what it writes and, through the frames below, that nothing else changes. -/

namespace Sys2Proof.Machine

open Host (Outcome)

/-! ## Safe runs -/

/-- A step that ends in neither a fault nor a refusal. -/
def Answers (o : Outcome State Fault Refusal) : Prop := ∃ t, o = .next t

/-- A group has its 32 lane positions (R43), and every map of it stands in canonical form. -/
def Group.Wf (g : Group) : Prop :=
  g.lanes.length = 32 ∧ SMapWf g.v = true ∧ SMapWf g.s = true ∧ SMapWf g.t = true ∧ SMapWf g.m = true ∧ SMapWf g.g = true

/-- Memory, the memory of the domain and every scratchpad stand in canonical form. -/
def State.MemWf (s : State) : Prop :=
  Memory.wf s.mem = true ∧ Memory.wf s.peer = true ∧ ∀ t ∈ s.teams, Memory.wf t.scratch = true

/-- Every group is well formed. -/
def State.GroupsWf (s : State) : Prop := ∀ g ∈ s.groups, g.Wf

/-- Only steps of the device stand in the agenda: no encoded instruction. -/
def State.AgendaOk (s : State) : Prop := ∀ e ∈ s.agenda, encode e = []

/-- Every update-only partial, and every reduction and ATOM on its way, names aligned words (R224, R248). -/
def State.WordsAligned (s : State) : Prop :=
  (∀ u ∈ s.upartials, u.addr % 4 = 0)
    ∧ ∀ w ∈ s.writes, match w.kind with
        | .reduce _ l => ∀ a ∈ l, a.addr % 4 = 0
        | .atom _ l _ => ∀ a ∈ l, a.addr % 4 = 0
        | .store _ => True

/-- One byte as any reader finds it at its home: the update-only partials of its line are combined first (R224). -/
def State.view (s : State) (sp : Space) (a : Nat) : Byte :=
  match sp with
  | .mem => (s.recall (a / 128)).byte .mem a
  | _ => s.byte sp a

/-- Partials of some lines have been combined at their homes, and nothing else has changed: no reader finds another byte
(R224). -/
structure State.Recalled (s t : State) : Prop where
  rest : { t with mem := s.mem, upartials := s.upartials } = s
  same : ∀ a, t.view .mem a = s.view .mem a

/-- Every group stands in a slot of its own. -/
def State.SlotsApart (s : State) : Prop := s.groups.Pairwise (fun g h => ¬(g.core = h.core ∧ g.slot = h.slot))

/-! ## Issuing and completing (R73, R135, R155, R164) -/

/-- The path `p` issues an instruction with the extension words `x` under the guard `gd`: it has a lane, its group has its
32 lane positions, and the slot is not stepped. -/
structure State.Issues (s : State) (x : Exts) (gd : BitVec 4) (p : Path) : Prop where
  path : s.pathG x gd = some p
  lanes : p.I ≠ 0
  width : p.g.lanes.length = 32
  free : ¬(p.slot < 15 ∧ (s.coreBlock p.core).stepMask.getLsbD p.slot = true)

/-- The address at which lanes go on that complete sequentially at `e`: the start of the body that a back-edge takes, or
`e` (R164). -/
def Group.goesTo (g : Group) (e : DWord) : DWord := (backEdge (g.backCounters e) g.lc).2.getD e

/-- The loop counters after that check. -/
def Group.loopsAt (g : Group) (e : DWord) : List LoopCounter := (backEdge (g.backCounters e) g.lc).1

/-- A lane that goes on at an address. -/
def Lane.resumed (l : Lane) (st : LaneState) (pc : DWord) : Lane := { l with st := st, pc := pc, svc := none }

/-- Nothing outside one group changes; `g'` is the group. -/
structure State.OnlyGroup (s t : State) (core slot : Nat) (g' : Group) : Prop where
  here : t.group? core slot = some g'
  others : ∀ c l, ¬(c = core ∧ l = slot) → t.group? c l = s.group? c l
  rest : { t with groups := s.groups } = s

/-- From `s`, in which an instruction has brought the group to `h`, the lanes of `m` go on at `e`, or where a back-edge
takes them (R155, R164), and nothing else changes. -/
def State.Resumes (s t : State) (core slot : Nat) (m : Word) (e : DWord) (h : Group) : Prop :=
  ∃ g', s.OnlyGroup t core slot g' ∧ g'.lc = h.loopsAt e
    ∧ (∀ j, j < 32 → g'.lane j =
        if m.getLsbD j then (h.lane j).resumed (s.runState core slot) (h.goesTo e) else h.lane j)
    ∧ { g' with lanes := h.lanes, lc := h.lc } = h

/-- The whole path goes on at the next instruction. -/
def State.Goes (s t : State) (p : Path) (h : Group) : Prop := s.Resumes t p.core p.slot p.I p.next h

/-- Every register of every kind of a group, and all that is not a lane or a loop counter, is the same. -/
def Group.SameRegs (g g' : Group) : Prop := { g' with lanes := g.lanes, lc := g.lc } = g

/-- A lane has taken an exception with a record that has the fields of `r` (R303 to R305): it stands parked at its own PC
with its sequence number raised by one, and its predicates, flags and return stack unchanged. The fields that its place
gives, and MATES, are said apart. -/
def Lane.Trapped (l l' : Lane) (r : SvcRecord) : Prop :=
  l'.pc = l.pc ∧ l'.preds = l.preds ∧ l'.flags = l.flags ∧ l'.rets = l.rets ∧ l'.yield = l.yield ∧ l'.wbits = l.wbits
    ∧ l'.seq = l.seq + 1 ∧ l'.st = .park (if sysCode r.code then .syscall else .fault)
    ∧ ∃ q, l'.svc = some q ∧ q.code = r.code ∧ q.kind = r.kind ∧ q.sub = r.sub ∧ q.areg = r.areg ∧ q.arg = r.arg
        ∧ q.addr = r.addr ∧ q.auxa = r.auxa ∧ q.auxb = r.auxb ∧ q.seq = l.seq + 1

/-- No group but one changes. -/
def State.OthersKept (s t : State) (core slot : Nat) : Prop :=
  ∀ c l, ¬(c = core ∧ l = slot) → t.group? c l = s.group? c l

/-- The lanes of `m` of a group have taken exceptions, lane j with the fields of `r j`, and nothing else of the groups has
changed (R303, R304). -/
def State.Traps (s t : State) (core slot : Nat) (m : Word) (r : Nat → SvcRecord) : Prop :=
  ∃ g g', s.group? core slot = some g ∧ t.group? core slot = some g' ∧ g.SameRegs g' ∧ g'.lc = g.lc
    ∧ (∀ j, j < 32 → if m.getLsbD j then (g.lane j).Trapped (g'.lane j) (r j) else g'.lane j = g.lane j)
    ∧ s.OthersKept t core slot

/-- A path whose lanes of `bad` take exceptions, lane j with the fields of `r j`; whose other lanes of L become what `e`
makes of them and transfer to their targets; while the lanes whose guard is false go on at the next instruction, or where
a back-edge takes them (R73, R155, R164). No register changes, and with no exception nothing outside the group does. -/
def State.Divides (s t : State) (p : Path) (bad : Word) (r : Nat → SvcRecord) (e : Lane → Lane) (target : Nat → DWord) :
    Prop :=
  ∃ g', t.group? p.core p.slot = some g' ∧ s.OthersKept t p.core p.slot ∧ p.g.SameRegs g'
    ∧ g'.lc = (if p.off = 0 then p.g.lc else p.g.loopsAt p.next)
    ∧ (∀ j, j < 32 →
        if p.L.getLsbD j ∧ bad.getLsbD j then (p.g.lane j).Trapped (g'.lane j) (r j)
        else g'.lane j =
          if p.L.getLsbD j then (e (p.g.lane j)).resumed (s.runState p.core p.slot) (target j)
          else if p.I.getLsbD j then (p.g.lane j).resumed (s.runState p.core p.slot) (p.g.goesTo p.next)
          else p.g.lane j)
    ∧ (bad = 0 → { t with groups := s.groups } = s)

/-- Every lane of L of a path takes an exception with the fields of `r`, the instruction has no other effect on the groups,
and the lanes whose guard is false go on (R73, R304). -/
def State.PathTraps (s t : State) (p : Path) (r : SvcRecord) : Prop := s.Divides t p p.L (fun _ => r) id (fun _ => 0)

/-- Every issuing lane takes it, whatever its guard (R92). -/
def State.AllTrap (s t : State) (p : Path) (r : SvcRecord) : Prop := s.Traps t p.core p.slot p.I (fun _ => r)

/-- The lanes of L become what `e` makes of them, each where it stands, and the lanes whose guard is false go on; no
register changes and nothing outside the group does. -/
def State.Parks (s t : State) (p : Path) (e : Nat → Lane → Lane) : Prop :=
  ∃ g', s.OnlyGroup t p.core p.slot g' ∧ p.g.SameRegs g' ∧ g'.lc = (if p.off = 0 then p.g.lc else p.g.loopsAt p.next)
    ∧ ∀ j, j < 32 → g'.lane j =
        if p.L.getLsbD j then e j (p.g.lane j)
        else if p.I.getLsbD j then (p.g.lane j).resumed (s.runState p.core p.slot) (p.g.goesTo p.next)
        else p.g.lane j

/-- In a slot with step enabled, the lanes of a path have gone on, each at its own target, and have then taken STEP there (R303,
R317); `h` is the group with the effect of the instruction. -/
def State.Steps (s t : State) (p : Path) (h : Group) (target : Nat → DWord) : Prop :=
  ∃ g', t.group? p.core p.slot = some g' ∧ s.OthersKept t p.core p.slot ∧ { g' with lanes := h.lanes, lc := h.lc } = h
    ∧ ∀ j, j < 32 →
        if p.I.getLsbD j then ((h.lane j).resumed .run (target j)).Trapped (g'.lane j) { code := 0x13 }
        else g'.lane j = h.lane j

/-- A path that has a lane, in a group with its 32 lane positions, issues in a slot with step enabled. -/
structure State.IssuesStepped (s : State) (x : Exts) (gd : BitVec 4) (p : Path) : Prop where
  path : s.pathG x gd = some p
  lanes : p.I ≠ 0
  width : p.g.lanes.length = 32
  stepped : p.slot < 15 ∧ (s.coreBlock p.core).stepMask.getLsbD p.slot = true

/-- The lanes that an issue finds still running at its PC. -/
def issuingLanes (q : Issue) (g : Group) : Word :=
  maskOf (fun j => q.lanes.getLsbD j && (g.lane j).running && decide ((g.lane j).pc = q.pc))

/-- The lanes of `m` in a group leave a park, each at its own target, and nothing else changes. -/
def Released (s t : State) (core slot : Nat) (m : Word) (target : Nat → DWord) : Prop :=
  ∃ g g', s.group? core slot = some g ∧ s.OnlyGroup t core slot g' ∧ g.SameRegs g' ∧ g'.lc = g.lc
    ∧ ∀ j, j < 32 → g'.lane j =
        if m.getLsbD j then (g.lane j).resumed (s.runState core slot) (target j) else g.lane j

/-! ## Events and the wait-for table (R342, R359) -/

/-- An unread event of a kind stands for a descriptor. -/
def State.raised (s : State) (kind desc : Nat) : Prop := ∃ e ∈ s.events, eventKey e = (kind, desc % 2 ^ 39 / 64 * 64)

/-- The wait-for table has been brought up to date, with WAITCHG events only, and nothing else has changed. -/
structure State.Rewaited (s t : State) : Prop where
  rows : ∀ q, { t.row q with waits := (s.row q).waits, waitKind := (s.row q).waitKind } = s.row q
  table : ∀ q, q < 128 → ((t.row q).waits, (t.row q).waitKind) = t.waitEntry q
  events : ∃ l, t.events = s.events ++ l ∧ ∀ e ∈ l, (eventKey e).1 = 4
  rest : { t with rows := s.rows, events := s.events } = s

/-- One row of the slot table has become `r`, and the others stand. -/
def State.RowIs (s t : State) (q : Nat) (r : Row) : Prop := t.row q = r ∧ ∀ o, o ≠ q → t.row o = s.row o

/-! ## Atomic operations (R249, R252) -/

/-- The operation of an ATOM or RED.M, its address operand and its operand b; of an ATOM its destination, and the number
of registers it fills (R249, R252). -/
def rmwMeaning : Instr → Option (Exts × BitVec 7 × BitVec 7 × AtomOp × Option (BitVec 7) × Nat)
  | .atomAdd x d a b => some (x, a, b, if Exts.type x = 2 then .addF else .add, some d, 1)
  | .atomMin x d a b => some (x, a, b, if Exts.type x = 1 then .minU else if Exts.type x = 2 then .minF else .min, some d, 1)
  | .atomMax x d a b => some (x, a, b, if Exts.type x = 1 then .maxU else if Exts.type x = 2 then .maxF else .max, some d, 1)
  | .atomAnd x d a b => some (x, a, b, .and, some d, 1)
  | .atomOr x d a b => some (x, a, b, .or, some d, 1)
  | .atomXor x d a b => some (x, a, b, .xor, some d, 1)
  | .atomXchg x d a b => some (x, a, b, .xchg, some d, 1)
  | .atomCas x d a b => some (x, a, b, .cas, some d, 1)
  | .atomInc x d a b => some (x, a, b, .inc, some d, 1)
  | .atomDec x d a b => some (x, a, b, .dec, some d, 1)
  | .atomXchgT x d a b => some (x, a, b, .xchg, some d, 2)
  | .redMAdd x a b => some (x, a, b, if Exts.type x = 2 then .addF else .add, none, 0)
  | .redMMin x a b => some (x, a, b, if Exts.type x = 1 then .minU else if Exts.type x = 2 then .minF else .min, none, 0)
  | .redMMax x a b => some (x, a, b, if Exts.type x = 1 then .maxU else if Exts.type x = 2 then .maxF else .max, none, 0)
  | .redMAnd x a b => some (x, a, b, .and, none, 0)
  | .redMOr x a b => some (x, a, b, .or, none, 0)
  | .redMXor x a b => some (x, a, b, .xor, none, 0)
  | _ => none

/-- The operation and the lanes of a write that is not a store. -/
def WriteKind.ops : WriteKind → Option (AtomOp × List AtomLane)
  | .store _ => none
  | .reduce op l => some (op, l)
  | .atom op l _ => some (op, l)

/-! ## Rounding (R117) -/

/-- The value of a finite encoding in units of the least subnormal, 2^(1−B−M); none of a NaN or an infinity (R120). -/
def Fmt.units (f : Fmt) (v : Nat) : Option Int :=
  match f.val v with
  | .fin n m e => some ((if n then -1 else 1) * (m * 2 ^ (e - f.minE).toNat : Nat))
  | _ => none

/-- A real number, by its place among the fractions k ÷ m: those that it is above, and those that it is below. -/
structure Cut where
  above : Int → Nat → Prop
  below : Int → Nat → Prop

/-- The fraction n ÷ d, and the square root of one. -/
def Cut.frac (n : Int) (d : Nat) : Cut := { above := fun k m => k * d < n * m, below := fun k m => n * m < k * d }
def Cut.root (n d : Nat) : Cut :=
  { above := fun k m => k < 0 ∨ k * k * d < n * m * m, below := fun k m => 0 < k ∧ (n : Int) * m * m < k * k * d }

/-- Whether its magnitude is less than k ÷ m, and whether it is greater; whether it is negative, and whether it is zero. -/
def Cut.under (x : Cut) (k m : Nat) : Prop := x.below k m ∧ x.above (-k) m
def Cut.over (x : Cut) (k m : Nat) : Prop := x.above k m ∨ x.below (-k) m
def Cut.neg (x : Cut) : Prop := x.below 0 1
def Cut.zero (x : Cut) : Prop := ¬x.above 0 1 ∧ ¬x.below 0 1

/-- `r` is the real `x` rounded into an IEEE format by a mode, with the flags of R109 (R117). The values of the format are the
multiples q of 1 ÷ `unit`; `top` is the weight of the last bit of the largest. -/
def Fmt.Rounds (f : Fmt) (rm : Rm) (x : Cut) (r : FRes) : Prop :=
  let unit : Nat := 2 ^ (f.bias + f.mw - 1)
  let top : Nat := 2 ^ (f.bias - f.mw)
  let near : Prop := rm = .rn ∨ rm = .ra
  let away : Prop := near ∨ (rm = .rd ∧ x.neg) ∨ (rm = .ru ∧ ¬x.neg)
  let past : Prop := (near ∧ ¬x.under ((2 ^ (f.mw + 2) - 1) * top) 2)
    ∨ (¬near ∧ away ∧ x.over ((2 ^ (f.mw + 1) - 1) * top) 1) ∨ (¬away ∧ ¬x.under (2 ^ (f.mw + 1) * top) 1)
  (past → r.2 = FO ||| FX ∧ (away → (x.neg → r.1 = f.inf true) ∧ (¬x.neg → r.1 = f.inf false))
    ∧ (¬away → (x.neg → r.1 = f.maxFin true) ∧ (¬x.neg → r.1 = f.maxFin false)))
  ∧ (¬past → ∃ q, f.units r.1 = some q
    ∧ (∀ v z, f.units v = some z →
        (near → (q < z → ¬x.above (q + z) (2 * unit)) ∧ (z < q → ¬x.below (q + z) (2 * unit))
          ∧ (z ≠ q → ¬x.above (q + z) (2 * unit) → ¬x.below (q + z) (2 * unit) →
              if rm = .rn then r.1 % 2 = 0 else z.natAbs < q.natAbs))
        ∧ (rm = .rz → ¬x.under z.natAbs unit → z.natAbs ≤ q.natAbs)
        ∧ (rm = .rd → ¬x.below z unit → z ≤ q) ∧ (rm = .ru → ¬x.above z unit → q ≤ z))
    ∧ (rm = .rz → ¬x.under q.natAbs unit) ∧ (rm = .rd → ¬x.below q unit) ∧ (rm = .ru → ¬x.above q unit)
    ∧ (¬x.zero → (bitN r.1 (f.ew + f.mw) = true ↔ x.neg))
    ∧ (r.2.getLsbD 4 = true ↔ x.above q unit ∨ x.below q unit)
    ∧ r.2.getLsbD 0 = false ∧ r.2.getLsbD 1 = false ∧ r.2.getLsbD 2 = false
    ∧ (r.2.getLsbD 3 = true → r.2.getLsbD 4 = true)
    ∧ (¬x.under 1 (2 ^ (f.bias - 1)) → r.2.getLsbD 3 = false)
    ∧ (¬x.over (2 ^ (f.mw + 1) - 1) (2 ^ (f.bias + f.mw)) → r.2.getLsbD 3 = r.2.getLsbD 4))

/-- `k` is the fraction n ÷ d rounded to an integer by a mode (R180, R185). -/
def RoundsInt (rm : Rm) (n : Int) (d : Nat) (k : Int) : Prop :=
  let off : Nat := 2 * (k * d - n).natAbs
  (rm = .rn → off ≤ d ∧ (off = d → k % 2 = 0)) ∧ (rm = .ra → off ≤ d ∧ (off = d → n.natAbs ≤ k.natAbs * d))
    ∧ (rm = .rz → k.natAbs * d ≤ n.natAbs ∧ n.natAbs < (k.natAbs + 1) * d ∧ 0 ≤ k * n)
    ∧ (rm = .rd → k * d ≤ n ∧ n < (k + 1) * d) ∧ (rm = .ru → (k - 1) * d < n ∧ n ≤ k * d)

/-! ## What an instruction writes in its group -/

/-- What an instruction that touches nothing but its group writes: the `n` vector registers from the absolute register `d`
on, with `v` lane by lane; what it makes of each lane of L; a uniform register; and anything else of the group. -/
structure Effect where
  d : Nat := 0
  n : Nat := 0
  v : Nat → Nat → Word := fun _ _ => 0
  lane : Nat → Lane → Lane := fun _ l => l
  s : Option (Nat × DWord) := none
  other : Group → Group := id

/-- From `g`, the group `h` has taken an effect in the lanes of L, and nothing else of it has changed (R6, R73, R135): S63
is never written (R77), and an empty L leaves everything. -/
structure Group.Took (g h : Group) (L : Word) (e : Effect) : Prop where
  vec : ∀ a j, j < 32 → h.rv a j = if L.getLsbD j = true ∧ e.d ≤ a ∧ a < e.d + e.n then e.v j (a - e.d) else g.rv a j
  uni : ∀ n, h.rs n = match e.s with
    | some (k, x) => if n = k ∧ k ≠ 63 ∧ L ≠ 0 then x else g.rs n
    | none => g.rs n
  lanes : ∀ j, j < 32 → h.lane j = if L.getLsbD j then e.lane j (g.lane j) else g.lane j
  rest : { h with v := g.v, s := g.s, lanes := g.lanes } = if L = 0 then g else e.other g

/-- One register of the window. -/
def Group.inV (g : Group) (d : BitVec 7) (f : Nat → Word) : Effect := { d := g.wbase + d.toNat, n := 1, v := fun j _ => f j }

/-- A pair: bits [31:0] in the first register (R106). -/
def Group.inP (g : Group) (d : BitVec 7) (f : Nat → DWord) : Effect :=
  { d := g.wbase + d.toNat, n := 2, v := fun j k => (f j >>> (32 * k)).setWidth 32 }

/-- A floating-point result with its flags (R109, R172). -/
def Group.inF (g : Group) (d : BitVec 7) (f : Nat → FRes) : Effect :=
  { d := g.wbase + d.toNat, n := 1, v := fun j _ => BitVec.ofNat 32 (f j).1, lane := fun j l => l.setFlags (f j).2 }

/-- The same in FP64. -/
def Group.inF64 (g : Group) (d : BitVec 7) (f : Nat → FRes) : Effect :=
  { d := g.wbase + d.toNat, n := 2, v := fun j k => (BitVec.ofNat 64 (f j).1 >>> (32 * k)).setWidth 32
    lane := fun j l => l.setFlags (f j).2 }

/-- Two results of a format: the high part in the first register or pair (R106). -/
def Group.inX (g : Group) (d : BitVec 7) (f : Nat → Nat × Nat × BitVec 5) : Effect :=
  { d := g.wbase + d.toNat, n := 2, v := fun j k => BitVec.ofNat 32 (if k = 0 then (f j).1 else (f j).2.1)
    lane := fun j l => l.setFlags (f j).2.2 }
def Group.inX64 (g : Group) (d : BitVec 7) (f : Nat → Nat × Nat × BitVec 5) : Effect :=
  { d := g.wbase + d.toNat, n := 4
    v := fun j k => (BitVec.ofNat 64 (if k < 2 then (f j).1 else (f j).2.1) >>> (32 * (k % 2))).setWidth 32
    lane := fun j l => l.setFlags (f j).2.2 }

/-- A uniform register. -/
def inS (d : BitVec 7) (x : DWord) : Effect := { s := some (d.toNat, x) }

/-- A predicate. -/
def inPred (d : BitVec 7) (f : Nat → Bool) : Effect := { lane := fun j l => l.setPred d.toNat (f j) }

/-- An instruction's extension words, the window registers it names, and its effect on a group for the lanes L. -/
abbrev Meaning := Exts × List (Nat × Nat) × Effect

/-- An instruction completes with a meaning: issued by a path, it answers a next state, the whole path goes on, its group
has taken the effect and nothing else of the machine has changed, whenever the registers that it names exist. -/
def Performs (s : State) (i : Instr) (p : Path) (m : Meaning) : Prop :=
  s.Issues m.1 (Exts.guard m.1) p → (p.L = 0 ∨ p.g.hasRegs m.2.1 = true) →
    ∃ t h, exec i s = .next t ∧ s.Goes t p h ∧ p.g.Took h p.L m.2.2

/-- The register operands of `OP Vd, Va, Vb` and `OP Vd, Va` for operands of n and m registers. -/
def useAB (x : Exts) (a b : BitVec 7) (n : Nat) (d : BitVec 7) (m : Nat) : List (Nat × Nat) :=
  vuse (Exts.uniA x) a n ++ vuse (Exts.uniB x) b n ++ vuse false d m
def useA (x : Exts) (a : BitVec 7) (n : Nat) (d : BitVec 7) (m : Nat) : List (Nat × Nat) :=
  vuse (Exts.uniA x) a n ++ vuse false d m
def useABC (x : Exts) (a b : BitVec 7) (n c : Nat) (d : BitVec 7) (m : Nat) : List (Nat × Nat) :=
  vuse (Exts.uniA x) a n ++ vuse (Exts.uniB x) b n ++ vuse (Exts.uniC x) (Exts.c x) c ++ vuse false d m

/-! ## The arithmetic of the chapters on integers (R139 to R154) -/

/-- An exact value clamped to 32 bits, signed or unsigned (R136). -/
def satS (v : Int) : Word := BitVec.ofInt 32 (max (-2147483648) (min 2147483647 v))
def satU (v : Int) : Word := BitVec.ofInt 32 (max 0 (min 4294967295 v))

/-- Uniform arithmetic (R139 to R142). -/
def uniformMeaning (i : Instr) (g : Group) : Option Meaning :=
  let two := fun (x : Exts) (d a b : BitVec 7) (f : DWord → DWord → DWord) =>
    some ((x, [], inS d (f (g.rs a.toNat) (g.rs b.toNat))) : Meaning)
  match i with
  | .sadd x d a b => two x d a b (fun u v => u + v)
  | .ssub x d a b => two x d a b (fun u v => u - v)
  | .smul x d a b => two x d a b (fun u v => u * v)
  | .sand x d a b => two x d a b (fun u v => u &&& v)
  | .sor x d a b => two x d a b (fun u v => u ||| v)
  | .sxor x d a b => two x d a b (fun u v => u ^^^ v)
  | .sshl x d a b => two x d a b (fun u v => if v.toNat < 64 then u <<< v.toNat else 0)
  | .sshr x d a b => two x d a b (fun u v => if v.toNat < 64 then u >>> v.toNat else 0)
  | .ssra x d a b => two x d a b (fun u v =>
      if v.toNat < 64 then u.sshiftRight v.toNat else if u.msb then 0xFFFFFFFFFFFFFFFF else 0)
  | .smin x d a b => two x d a b (fun u v =>
      if (Exts.fam x).getLsbD 0 then (if u.toNat < v.toNat then u else v) else (if u.toInt < v.toInt then u else v))
  | .smax x d a b => two x d a b (fun u v =>
      if (Exts.fam x).getLsbD 0 then (if u.toNat < v.toNat then v else u) else (if u.toInt < v.toInt then v else u))
  | .smad x d a b => two x d a b (fun u v => u * v + g.rs (Exts.c x).toNat)
  | .scmp x d a b => two x d a b (fun u v => if cmp (Exts.fam x).toNat u v then 1 else 0)
  | .smov x d a => some (x, [], inS d (g.rs a.toNat))
  | .smovi x d i =>
      let v : Word := match Exts.hi x with | some h => h ++ i | none => i.signExtend 32
      some (x, [], inS d (match (Exts.fam x).toNat with
        | 0 => v.signExtend 64
        | 1 => v.setWidth 64
        | _ => v ++ (g.rs d.toNat).setWidth 32))
  | _ => none

/-- Vector integer arithmetic (R143 to R148). -/
def vectorMeaning (i : Instr) (g : Group) : Option Meaning :=
  let two := fun (x : Exts) (d a b : BitVec 7) (f : Word → Word → Word) =>
    some ((x, useAB x a b 1 d 1, g.inV d (fun j => f (g.srcA x a j) (g.srcB x b j))) : Meaning)
  let one := fun (x : Exts) (d a : BitVec 7) (f : Word → Word) =>
    some ((x, useA x a 1 d 1, g.inV d (fun j => f (g.srcA x a j))) : Meaning)
  match i with
  | .iadd x d a b => two x d a b (fun u v => match (Exts.fam x).toNat with
      | 0 => u + v
      | 1 => satS (u.toInt + v.toInt)
      | _ => satU (u.toNat + v.toNat))
  | .isub x d a b => two x d a b (fun u v => match (Exts.fam x).toNat with
      | 0 => u - v
      | 1 => satS (u.toInt - v.toInt)
      | _ => satU ((u.toNat : Int) - v.toNat))
  | .imul x d a b => two x d a b (fun u v => u * v)
  | .imulh x d a b => two x d a b (fun u v =>
      if (Exts.fam x).getLsbD 0 then ((u.setWidth 64 * v.setWidth 64 : DWord) >>> 32).setWidth 32
      else ((u.signExtend 64 * v.signExtend 64 : DWord) >>> 32).setWidth 32)
  | .iand x d a b => two x d a b (fun u v => u &&& v)
  | .ior x d a b => two x d a b (fun u v => u ||| v)
  | .ixor x d a b => two x d a b (fun u v => u ^^^ v)
  | .inot x d a => one x d a (fun u => ~~~u)
  | .ishl x d a b => two x d a b (fun u v => if v.toNat < 32 then u <<< v.toNat else 0)
  | .ishr x d a b => two x d a b (fun u v => if v.toNat < 32 then u >>> v.toNat else 0)
  | .isra x d a b => two x d a b (fun u v =>
      if v.toNat < 32 then u.sshiftRight v.toNat else if u.msb then 0xFFFFFFFF else 0)
  | .imin x d a b => two x d a b (fun u v =>
      if (Exts.fam x).getLsbD 0 then (if u.toNat < v.toNat then u else v) else (if u.toInt < v.toInt then u else v))
  | .imax x d a b => two x d a b (fun u v =>
      if (Exts.fam x).getLsbD 0 then (if u.toNat < v.toNat then v else u) else (if u.toInt < v.toInt then v else u))
  | .iabs x d a => one x d a (fun u => if u.toInt < 0 then -u else u)
  | .popc x d a => one x d a popcW
  | .clz x d a => one x d a clzW
  | .brev x d a => one x d a brevW
  | .imad x d a b => some (x, useABC x a b 1 1 d 1, g.inV d (fun j => g.srcA x a j * g.srcB x b j + g.srcC x j))
  | .imadw x d a b => some (x, useABC x a b 1 2 d 2, g.inP d (fun j =>
      (if (Exts.fam x).getLsbD 0 then (g.srcA x a j).setWidth 64 * (g.srcB x b j).setWidth 64
       else (g.srcA x a j).signExtend 64 * (g.srcB x b j).signExtend 64) + g.srcC2 x j))
  | .isel x d a b => some (x, useAB x a b 1 d 1, g.inV d (fun j =>
      if (g.lane j).pred (Exts.c x).toNat then g.srcA x a j else g.srcB x b j))
  | .bfx x d a b => two x d a b (bfxW ((Exts.fam x).getLsbD 0))
  | .bfi x d a b => some (x, useABC x a b 1 1 d 1, g.inV d (fun j => bfiW (g.srcA x a j) (g.srcB x b j) (g.srcC x j)))
  | .lea x d a b => some (x, vuse (Exts.uniA x) a 2 ++ vuse (Exts.uniB x) b 1 ++ vuse false d 2, g.inP d (fun j =>
      g.srcA2 x a j + (if (Exts.fam x).getLsbD 3 then (g.srcB x b j).signExtend 64 else (g.srcB x b j).setWidth 64)
        <<< ((Exts.fam x).toNat % 8)))
  | .iaddc x d a b =>
      let sum := fun j => (g.srcA x a j).toNat + (g.srcB x b j).toNat + (if (g.lane j).pred (Exts.c x).toNat then 1 else 0)
      some (x, useAB x a b 1 d 1, { g.inV d (fun j => BitVec.ofNat 32 (sum j)) with
        lane := fun j l => l.setPred (Exts.c x).toNat (4294967296 ≤ sum j) })
  | .icmp x d a b => some (x, vuse (Exts.uniA x) a 1 ++ vuse (Exts.uniB x) b 1,
      inPred d (fun j => cmp (Exts.fam x).toNat (g.srcA x a j) (g.srcB x b j)))
  | _ => none

/-- The fold of the lanes of L in ascending order (R153). -/
def Group.foldLanes (g : Group) (x : Exts) (a : BitVec 7) (L : Word) (i : Word) (f : Word → Word → Word) : Word :=
  (lanesOf L).foldl (fun acc j => f acc (g.srcA x a j)) i

/-- The lanes of L below a lane, with it or without it (R154). -/
def lanesBelow (L : Word) (j : Nat) (self : Bool) : List Nat := (lanesOf L).filter (fun i => decide (i < j) || (self && i = j))

/-- The prefix of a scan at a lane (R154). -/
def Group.prefixAt (g : Group) (x : Exts) (a : BitVec 7) (L : Word) (i : Word) (f : Word → Word → Word) (self : Bool)
    (j : Nat) : Word :=
  (lanesBelow L j self).foldl (fun acc k => f acc (g.srcA x a k)) i

/-- Predicate logic, votes, matches, integer reductions and scans (R149 to R154). -/
def predicateMeaning (i : Instr) (g : Group) (L : Word) : Option Meaning :=
  let two := fun (x : Exts) (d a b : BitVec 7) (f : Bool → Bool → Bool) =>
    some ((x, [], inPred d (fun j => f (Bool.xor ((g.lane j).pred a.toNat) ((Exts.fam x).getLsbD 0))
      (Bool.xor ((g.lane j).pred b.toNat) ((Exts.fam x).getLsbD 1)))) : Meaning)
  let set := fun (a : BitVec 7) => maskOf (fun j => L.getLsbD j && (g.lane j).pred a.toNat)
  let same := fun (x : Exts) (a : BitVec 7) (v : Word) => maskOf (fun j => L.getLsbD j && g.srcA x a j = v)
  let op := fun (x : Exts) => redOp ((Exts.fam x).toNat % 8) ((Exts.fam x).getLsbD 3)
  let unit := fun (x : Exts) => redIdent ((Exts.fam x).toNat % 8) ((Exts.fam x).getLsbD 3)
  let wide := fun (x : Exts) (w : Word) => if (Exts.fam x).getLsbD 3 then w.setWidth 64 else w.signExtend 64
  match i with
  | .pand x d a b => two x d a b (fun u v => u && v)
  | .por x d a b => two x d a b (fun u v => u || v)
  | .pxor x d a b => two x d a b (fun u v => Bool.xor u v)
  | .pnot x d a => some (x, [], inPred d (fun j => !(g.lane j).pred a.toNat))
  | .pmov x d a => some (x, [], inPred d (fun j => (g.lane j).pred a.toNat))
  | .voteP x d a => some (x, [], inPred d (fun _ => match (Exts.fam x).toNat with
      | 0 => set a ≠ 0
      | 1 => set a = L
      | _ => set a = 0 ∨ set a = L))
  | .voteS x d a => some (x, [], inS d (L ++ set a))
  | .matchV x d a => some (x, useA x a 1 d 1, g.inV d (fun j => same x a (g.srcA x a j)))
  | .matchS x d a =>
      let v := g.srcA x a ((lanesOf L).headD 0)
      some (x, vuse (Exts.uniA x) a 1, inS d (v ++ same x a v))
  | .redIV x d a => some (x, useA x a 1 d 1, g.inV d (fun _ => g.foldLanes x a L (unit x) (op x)))
  | .redIS x d a => some (x, vuse (Exts.uniA x) a 1, inS d (
      if (Exts.fam x).toNat % 8 = 0 then (lanesOf L).foldl (fun acc j => acc + wide x (g.srcA x a j)) 0
      else if (Exts.fam x).toNat % 8 ≤ 2 then wide x (g.foldLanes x a L (unit x) (op x))
      else (g.foldLanes x a L (unit x) (op x)).setWidth 64))
  | .scanIV x d a => some (x, useA x a 1 d 1,
      g.inV d (g.prefixAt x a L (unit x) (op x) (!(Exts.fam x).getLsbD 4)))
  | .scanIS x d a => some (x, vuse false a 1,
      { g.inV a (g.prefixAt x a L ((g.rs d.toNat).setWidth 32) (op x) (!(Exts.fam x).getLsbD 4)) with
        s := some (d.toNat, (g.foldLanes x a L ((g.rs d.toNat).setWidth 32) (op x)).setWidth 64) })
  | _ => none

/-! ## Floating point (R170 to R196) -/

/-- FP32 arithmetic and special functions (R175 to R182). -/
def fp32Meaning (i : Instr) (g : Group) : Option Meaning :=
  let two := fun (x : Exts) (d a b : BitVec 7) (f : Nat → Nat → FRes) =>
    some ((x, useAB x a b 1 d 1, g.inF d (fun j => f (g.srcA x a j).toNat (g.srcB x b j).toNat)) : Meaning)
  let one := fun (x : Exts) (d a : BitVec 7) (f : Nat → FRes) =>
    some ((x, useA x a 1 d 1, g.inF d (fun j => f (g.srcA x a j).toNat)) : Meaning)
  match i with
  | .fadd x d a b => two x d a b (fadd fp32 (Exts.rm x) g.ftz)
  | .fsub x d a b => two x d a b (fsub fp32 (Exts.rm x) g.ftz)
  | .fmul x d a b => two x d a b (fmul fp32 (Exts.rm x) g.ftz)
  | .ffma x d a b => some (x, useABC x a b 1 1 d 1, g.inF d (fun j =>
      ffma fp32 (Exts.rm x) g.ftz (g.srcA x a j).toNat (g.srcB x b j).toNat (g.srcC x j).toNat))
  | .fmin x d a b => two x d a b (fminmax fp32 false ((Exts.fam x).getLsbD 0) g.ftz)
  | .fmax x d a b => two x d a b (fminmax fp32 true ((Exts.fam x).getLsbD 0) g.ftz)
  | .fcmp x d a b =>
      let r := fun j => fcmp fp32 (Exts.fam x).toNat g.ftz (g.srcA x a j).toNat (g.srcB x b j).toNat
      some (x, vuse (Exts.uniA x) a 1 ++ vuse (Exts.uniB x) b 1,
        { lane := fun j l => (l.setPred d.toNat (r j).1).setFlags (r j).2 })
  | .fclass x d a => some (x, useA x a 1 d 1, g.inV d (fun j => 1 <<< fclass fp32 (g.srcA x a j).toNat))
  | .frnd x d a => one x d a (frnd fp32 (Exts.rm x) g.ftz)
  | .fdiv x d a b => two x d a b (fdiv fp32 (Exts.rm x) g.ftz)
  | .fsqrt x d a => one x d a (fsqrt fp32 (Exts.rm x) g.ftz)
  | .frcp x d a => one x d a (frcp fp32 (Exts.rm x) g.ftz)
  | .frsq x d a => one x d a (frsq fp32 (Exts.rm x) g.ftz)
  | .fex2 x d a => one x d a (fex2 fp32 (Exts.rm x) g.ftz)
  | .flg2 x d a => one x d a (flg2 fp32 (Exts.rm x) g.ftz)
  | .fsin x d a => one x d a (fsin fp32 (Exts.rm x) g.ftz)
  | .fcos x d a => one x d a (fcos fp32 (Exts.rm x) g.ftz)
  | _ => none

/-- FP64 arithmetic and special functions, in pairs (R175 to R182). -/
def fp64Meaning (i : Instr) (g : Group) : Option Meaning :=
  let two := fun (x : Exts) (d a b : BitVec 7) (f : Nat → Nat → FRes) =>
    some ((x, useAB x a b 2 d 2, g.inF64 d (fun j => f (g.srcA2 x a j).toNat (g.srcB2 x b j).toNat)) : Meaning)
  let one := fun (x : Exts) (d a : BitVec 7) (f : Nat → FRes) =>
    some ((x, useA x a 2 d 2, g.inF64 d (fun j => f (g.srcA2 x a j).toNat)) : Meaning)
  match i with
  | .faddF64 x d a b => two x d a b (fadd fp64 (Exts.rm x) g.ftz64)
  | .fsubF64 x d a b => two x d a b (fsub fp64 (Exts.rm x) g.ftz64)
  | .fmulF64 x d a b => two x d a b (fmul fp64 (Exts.rm x) g.ftz64)
  | .ffmaF64 x d a b => some (x, useABC x a b 2 2 d 2, g.inF64 d (fun j =>
      ffma fp64 (Exts.rm x) g.ftz64 (g.srcA2 x a j).toNat (g.srcB2 x b j).toNat (g.srcC2 x j).toNat))
  | .fminF64 x d a b => two x d a b (fminmax fp64 false ((Exts.fam x).getLsbD 0) g.ftz64)
  | .fmaxF64 x d a b => two x d a b (fminmax fp64 true ((Exts.fam x).getLsbD 0) g.ftz64)
  | .fcmpF64 x d a b =>
      let r := fun j => fcmp fp64 (Exts.fam x).toNat g.ftz64 (g.srcA2 x a j).toNat (g.srcB2 x b j).toNat
      some (x, vuse (Exts.uniA x) a 2 ++ vuse (Exts.uniB x) b 2,
        { lane := fun j l => (l.setPred d.toNat (r j).1).setFlags (r j).2 })
  | .fclassF64 x d a => some (x, useA x a 2 d 1, g.inV d (fun j => 1 <<< fclass fp64 (g.srcA2 x a j).toNat))
  | .frndF64 x d a => one x d a (frnd fp64 (Exts.rm x) g.ftz64)
  | .fdivF64 x d a b => two x d a b (fdiv fp64 (Exts.rm x) g.ftz64)
  | .fsqrtF64 x d a => one x d a (fsqrt fp64 (Exts.rm x) g.ftz64)
  | .frcpF64 x d a => one x d a (frcp fp64 (Exts.rm x) g.ftz64)
  | .frsqF64 x d a => one x d a (frsq fp64 (Exts.rm x) g.ftz64)
  | _ => none

/-- Exact pairs and double words (R187 to R192): the first register, or pair, of an operand holds its high part. -/
def exactMeaning (i : Instr) (g : Group) : Option Meaning :=
  let x32 := fun (x : Exts) (d a b : BitVec 7) (f : Nat → Nat → Nat × Nat × BitVec 5) =>
    some ((x, useAB x a b 1 d 2, g.inX d (fun j => f (g.srcA x a j).toNat (g.srcB x b j).toNat)) : Meaning)
  let x64 := fun (x : Exts) (d a b : BitVec 7) (f : Nat → Nat → Nat × Nat × BitVec 5) =>
    some ((x, useAB x a b 2 d 4, g.inX64 d (fun j => f (g.srcA2 x a j).toNat (g.srcB2 x b j).toNat)) : Meaning)
  let lo := fun (v : DWord) => v.toNat % 2 ^ 32
  let hi := fun (v : DWord) => v.toNat / 2 ^ 32
  let part := fun (v : BitVec 128) (k : Nat) => v.toNat / 2 ^ (64 * k) % 2 ^ 64
  let dw := fun (x : Exts) (d a b : BitVec 7) (f : Nat → Nat → Nat → Nat → Nat × Nat × BitVec 5) =>
    some ((x, useAB x a b 2 d 2, g.inX d (fun j =>
      f (lo (g.srcA2 x a j)) (hi (g.srcA2 x a j)) (lo (g.srcB2 x b j)) (hi (g.srcB2 x b j)))) : Meaning)
  let dw64 := fun (x : Exts) (d a b : BitVec 7) (f : Nat → Nat → Nat → Nat → Nat × Nat × BitVec 5) =>
    some ((x, vuse false a 4 ++ vuse false b 4 ++ vuse false d 4, g.inX64 d (fun j =>
      f (part (g.srcQ (Exts.fa x) a j) 0) (part (g.srcQ (Exts.fa x) a j) 1)
        (part (g.srcQ (Exts.fb x) b j) 0) (part (g.srcQ (Exts.fb x) b j) 1))) : Meaning)
  match i with
  | .faddX x d a b => x32 x d a b (faddX fp32)
  | .fsubX x d a b => x32 x d a b (fsubX fp32)
  | .fmulX x d a b => x32 x d a b (fmulX fp32)
  | .faddXF64 x d a b => x64 x d a b (faddX fp64)
  | .fsubXF64 x d a b => x64 x d a b (fsubX fp64)
  | .fmulXF64 x d a b => x64 x d a b (fmulX fp64)
  | .dwadd x d a b => dw x d a b (dwadd fp32)
  | .dwsub x d a b => dw x d a b (dwsub fp32)
  | .dwmul x d a b => dw x d a b (dwmul fp32)
  | .dwnorm x d a => some (x, useA x a 2 d 2, g.inX d (fun j => dwnorm fp32 (lo (g.srcA2 x a j)) (hi (g.srcA2 x a j))))
  | .dwaddF64 x d a b => dw64 x d a b (dwadd fp64)
  | .dwsubF64 x d a b => dw64 x d a b (dwsub fp64)
  | .dwmulF64 x d a b => dw64 x d a b (dwmul fp64)
  | .dwnormF64 x d a => some (x, vuse false a 4 ++ vuse false d 4, g.inX64 d (fun j =>
      dwnorm fp64 (part (g.srcQ (Exts.fa x) a j) 0) (part (g.srcQ (Exts.fa x) a j) 1)))
  | _ => none

/-- CVT, floating-point reductions and scans (R183 to R186, R193 to R196). -/
def convertMeaning (i : Instr) (g : Group) (L : Word) : Option Meaning :=
  let pos := fun (f : Nat → Nat) => (List.range 32).map (fun j => if L.getLsbD j then some (f j) else none)
  let red := fun (x : Exts) (a : BitVec 7) => (redF fp32 ((Exts.fam x).toNat % 4) ((Exts.fam x).getLsbD 2) g.ftz
    (pos (fun j => (g.srcA x a j).toNat))).getD (0, 0)
  let red64 := fun (x : Exts) (a : BitVec 7) => (redF fp64 ((Exts.fam x).toNat % 4) ((Exts.fam x).getLsbD 2) g.ftz64
    (pos (fun j => (g.srcA2 x a j).toNat))).getD (0, 0)
  let fc := fun (x : Exts) (a : BitVec 7) => (redFC fp32 (pos (fun j => (g.srcA x a j).toNat))).getD (0, 0, 0)
  let scan := fun (x : Exts) (f : Fmt) (ftz : Bool) (v : Nat → Nat) =>
    scanF f ((Exts.fam x).toNat % 4) ((Exts.fam x).getLsbD 2) ((Exts.fam x).getLsbD 4) ftz none 0
      ((lanesOf L).map (fun j => (j, v j)))
  match i with
  | .cvt x d a s t =>
      let wide := fun (c : BitVec 5) => c = 0 || c = 14 || c = 15
      let v := fun j => if wide s then (g.srcA2 x a j).toNat else (g.srcA x a j).toNat
      let r := fun j => cvt s.toNat t.toNat (Exts.rm x) ((Exts.fam x).getLsbD 3) g.ftz g.ftz64 (v j)
      some (x, vuse (Exts.uniA x) a (if wide s then 2 else 1) ++ vuse false d (if wide t then 2 else 1),
        if wide t then g.inF64 d r else g.inF d r)
  | .redFV x d a => some (x, useA x a 1 d 1, g.inF d (fun _ => red x a))
  | .redFS x d a => some (x, vuse (Exts.uniA x) a 1,
      { inS d (BitVec.ofNat 64 (red x a).1) with lane := fun _ l => l.setFlags (red x a).2 })
  | .redFF64V x d a => some (x, useA x a 2 d 2, g.inF64 d (fun _ => red64 x a))
  | .redFF64S x d a => some (x, vuse (Exts.uniA x) a 2,
      { inS d (BitVec.ofNat 64 (red64 x a).1) with lane := fun _ l => l.setFlags (red64 x a).2 })
  | .redFcV x d a => some (x, useA x a 1 d 2, g.inX d (fun _ => fc x a))
  | .redFcS x d a => some (x, vuse (Exts.uniA x) a 1,
      { inS d (BitVec.ofNat 64 ((fc x a).2.1 * 2 ^ 32 + (fc x a).1)) with lane := fun _ l => l.setFlags (fc x a).2.2 })
  | .redFcF64 x d a => some (x, useA x a 2 d 4, g.inX64 d (fun _ =>
      (redFC fp64 (pos (fun j => (g.srcA2 x a j).toNat))).getD (0, 0, 0)))
  | .scanF x d a =>
      let r := scan x fp32 g.ftz (fun j => (g.srcA x a j).toNat)
      some (x, useA x a 1 d 1, g.inF d (fun j => (scanAt r.1 j, r.2)))
  | .scanFF64 x d a =>
      let r := scan x fp64 g.ftz64 (fun j => (g.srcA2 x a j).toNat)
      some (x, useA x a 2 d 2, g.inF64 d (fun j => (scanAt r.1 j, r.2)))
  | _ => none

/-! ## Registers of the group (R111, R118, R167 to R169, R197 to R200, R273, R277) -/

/-- Instructions that move values between the registers of a group. -/
def registerMeaning (i : Instr) (g : Group) (L : Word) : Option Meaning :=
  match i with
  | .nop x => some (x, [], {})
  | .yield x => some (x, [], { lane := fun _ l => { l with yield := 16 } })
  | .cmark x d => some (x, [], inS d (L.setWidth 64))
  | .flgr x d => some (x, vuse false d 1, g.inV d (fun j => (g.lane j).flags.setWidth 32))
  | .flgc x m => some (x, [], { lane := fun _ l => { l with flags := l.flags &&& ~~~m } })
  | .qset x d a => some (x, vuse (Exts.uniA x) a 1, { other := fun h => { h with q := upd h.q d.toNat (fun q =>
      (lanesOf L).foldl (fun q j => setEntry q j ((g.srcA x a j).setWidth 5)) q) } })
  | .nset x d a => some (x, vuse (Exts.uniA x) a 1, { other := fun h => { h with n := upd h.n d.toNat (fun _ =>
      (g.srcA x a 4).setWidth 16 ++ (g.srcA x a 3 ++ g.srcA x a 2 ++ g.srcA x a 1 ++ g.srcA x a 0)) } })
  | .mmap x d a => some (x, [], { other := fun h => { h with g := sset h.g d.toNat (mapMask (g.rs a.toNat)) } })
  | .mburst x a => some (x, [], { other := fun h => { h with burst := g.rs a.toNat &&& 0xFF0F } })
  | .wbase x i =>
      let b : Int := g.wbase + i.toInt
      if L = 0 ∨ (0 ≤ b ∧ b ≤ 508) then some (x, [], { other := fun h => { h with wbase := b.toNat } }) else none
  | .swrite x a i =>
      if i.toNat = 0x010 then some (x, [], { other := fun h => { h with fpctl := g.rs a.toNat &&& 3 } }) else none
  | .tmovVt x d a =>
      if L = 0 ∨ a.toNat < g.ntiles then
        some (x, vuse false d 1, g.inV d (fun j => BitVec.ofNat 32 (leNat (sbytes g.t (segByte x a j) 4))))
      else none
  | .tmovTv x d a =>
      if L = 0 ∨ d.toNat < g.ntiles then
        some (x, vuse (Exts.uniA x) a 1, { other := fun h => { h with
          t := ssets h.t ((lanesOf L).flatMap (fun j => wordBytes (segByte x d j) (g.srcA x a j))) } })
      else none
  | _ => none

end Sys2Proof.Machine
end

