-- ==== Sys2Proof/WellFormed.lean ====
section
/-! DEFINITION. WellFormed: the instructions that some words of text encode. The checks themselves are the legality
rules of Decode.lean, so the decoder and this predicate cannot drift apart. -/

namespace Sys2Proof

/-- An instruction is well formed when its extension words and fields obey every rule of R66 to R85 and its words are
assigned (R92). A step of the device has no words, and is not an encoded instruction. -/
abbrev Instr.WellFormed (i : Instr) : Prop := encodable i = true

end Sys2Proof
end

