-- ==== Sys2Proof/Certificates/Slice0/Obligations.lean ====
section
/-! DEFINITION. Obligations: the statements for the provers. Each says in its docstring which rules of the spec it
formalises; what an instruction does not name stays as it is (`Goes`, `Took`, `OnlyGroup`, `Divides` of Safety.lean). -/

open Sys2Proof Sys2Proof.Machine
open Host (Outcome)

/-! ## Fetching, decoding, stepping -/

/-- A step runs the instruction that the words at the PC decode to, for the lanes that still run there (R64, R92, R155);
the core's buffers keep the lines that it fetched (log 16). With no issue selected it runs the next step of the agenda, and
with none of those the device's own choice (log 1).

Which lines of text a core keeps is log 16, the order of the steps log 1 and 2. -/
def Obligations.StepRunsTheDecodedInstruction : Prop :=
  (∀ (s : State) (q : Issue) (r : List Issue) (g : Group) (ws : List Word) (i : Instr) (rest : List Word),
    s.issueQ = q :: r → s.group? q.core q.slot = some g → issuingLanes q g ≠ 0 →
    let s1 : State := { s with issueQ := r }
    s1.fetch g q.pc = .words ws → decode ws = .ok (i, rest) →
    step s = exec i { s1.keepText g q.pc ws.length with cur := { q with lanes := issuingLanes q g, words := ws } })
  ∧ (∀ (s : State) (e : Instr) (r : List Instr), s.issueQ = [] → s.agenda = e :: r →
    step s = exec e { s with agenda := r })
  ∧ (∀ s : State, s.issueQ = [] → s.agenda = [] → step s = exec s.autoEvent { s with turn := s.turn + 1 })

/-- A word outside the text, on a page without the X right, or at a sector that fails and of which no copy is held, traps at
the fetch, with the entry of the page or the sector in the record (R155, R306, R322, R328); words that decode to nothing raise
ILLEGAL with the words in AUXA and AUXB (R92); each in every issuing lane whatever its guard. That the trap is taken when the
path issues is log 28.

Where a register that one of these instructions names does not exist, every lane of L takes PROTECT SUB 2 and the
instruction has no effect (R54, R78). -/
def Obligations.IllegalWordsAndRegistersTrap : Prop :=
  (∀ (s : State) (q : Issue) (r : List Issue) (g : Group),
      s.issueQ = q :: r → s.group? q.core q.slot = some g → g.lanes.length = 32 → issuingLanes q g ≠ 0 →
      let s1 : State := { s with issueQ := r }
      (s1.inText g q.pc = false → s1.fetch g q.pc = .trap { code := 0x05, kind := 4, sub := 1, addr := q.pc })
      ∧ (∀ (t : Team) (l : Leaf), s1.inText g q.pc = true → s1.teamOf g = some t → q.pc.toNat + 4 ≤ 0x01F0000000000000 →
          (s1.tlbHit g.core t.ctx.ctxid q.pc = some l ∨ s1.tlbHit g.core t.ctx.ctxid q.pc = none
              ∧ s1.walk .fetch q.pc t.ctx.ptroot 4 = .ok l) →
          let e := l.pte.toNat
          let a := bits e 38 12 * 4096 + q.pc.toNat % 2 ^ l.log
          (bitN e 57 = false → s1.fetch g q.pc = .trap { code := 0x05, kind := 4, sub := 0, addr := q.pc, auxa := l.pte })
          ∧ (bitN e 57 = true → bitN e 55 = false → s1.backed a = true → s1.textCopy g .mem (a / 128) = none →
              s1.readFails a = true →
              s1.fetch g q.pc = .trap { code := 0x0B, kind := 4, addr := q.pc, auxa := BitVec.ofNat 64 (a / 32 * 32) }))
      ∧ (∀ x, s1.fetch g q.pc = .trap x →
          ∃ t, step s = .next t ∧ s1.Traps t q.core q.slot (issuingLanes q g) (fun _ => x))
      ∧ (∀ ws e, s1.fetch g q.pc = .words ws → decode ws = .error e →
          ∃ t, step s = .next t ∧ s1.Traps t q.core q.slot (issuingLanes q g) (fun _ =>
            { code := 0x01, auxa := (ws.getLastD 0).setWidth 64, auxb := ws.dropLast.getD 1 0 ++ ws.dropLast.getD 0 0 })))
  ∧ (∀ (i : Instr) (s : State) (p : Path) (m : Meaning),
      (vectorMeaning i p.g = some m ∨ predicateMeaning i p.g p.L = some m ∨ fp32Meaning i p.g = some m
        ∨ fp64Meaning i p.g = some m ∨ exactMeaning i p.g = some m ∨ convertMeaning i p.g p.L = some m
        ∨ registerMeaning i p.g p.L = some m) →
      s.Issues m.1 (Exts.guard m.1) p → p.L ≠ 0 → p.g.hasRegs m.2.1 = false →
      ∃ t, exec i s = .next t ∧ s.PathTraps t p { code := 0x05, sub := 2 })

/-- Words that the spec writes out decode to the instructions they stand for (the worked encodings after R169 and
R330). -/
def Obligations.WrittenWordsDecode : Prop :=
  decode [0xF800E002, 0x40103091] = .ok (.icmp [.operand 0 7 0 2] 2 3 4, [])
  ∧ decode [0xF808E000, 0x40302061] = .ok (.iaddc [.operand 4 7 0 0] 6 2 3, [])
  ∧ decode [0xF800E00A, 0x4C207012] = .ok (.redIS [.operand 0 7 0 10] 4 7, [])
  ∧ decode [0x02800003] = .ok (.bra [] 1 2 3, [])
  ∧ decode [0x05C00010] = .ok (.call [] 0 7 16, [])
  ∧ decode [0x0C088005] = .ok (.loopi [] 1 8 5, [])
  ∧ decode [0x10400007] = .ok (.cmark [] 8, [])
  ∧ decode [0x10008004] = .ok (.cjoin [] 8, [])
  ∧ decode [0x10005000] = .ok (.bri [] 5, [])
  ∧ decode [0x10000002] = .ok (.ret [], []) ∧ decode [0x10000003] = .ok (.exit [], [])
  ∧ decode [0x10000005] = .ok (.yield [], []) ∧ decode [0x10000006] = .ok (.nop [], [])
  ∧ decode [0x14000FF8] = .ok (.wbase [] 0xFF8, [])
  ∧ decode [0xF00040C0] = .ok (.sysc [] 4 6, []) ∧ decode [0xF00000A1] = .ok (.trap [] 5, [])
  ∧ decode [0xF0000006] = .ok (.eret [], []) ∧ decode [0xF4180001] = .ok (.capr [] 3 1, [])
  ∧ decode [0x00000000] = .error .operand

/-- Decoding the words of a well-formed instruction gives it back, with every operand at every value that the encoding
admits, and leaves the words that follow (R64 to R91).

What decodes is well formed, and no bit of its words is dropped: encoding it gives them back (R66, R70, R92). -/
def Obligations.DecodeAndEncodeAgree : Prop :=
  (∀ (i : Instr) (rest : List Word), i.WellFormed → decode (encode i ++ rest) = .ok (i, rest))
  ∧ (∀ (ws : List Word) (i : Instr) (rest : List Word), decode ws = .ok (i, rest) → i.WellFormed ∧ encode i ++ rest = ws)

/-! ## Every step -/

/-- Every instruction runs: a step of a machine whose agenda names steps of the device never faults and is never
refused.

No rule stops the machine itself: what R303 calls a trap is a next state. That the agenda names device steps alone
is the model's invariant, a statement of its own (log 1). -/
def Obligations.EveryStepAnswers : Prop := ∀ s : State, s.AgendaOk → Answers (step s)

/-- Every step keeps memory, the memory of the domain and every scratchpad in canonical form (log 4).

The canonical form of memory is the model's own (log 4). -/
def Obligations.MemoryStaysCanonical : Prop := ∀ s t : State, s.MemWf → step s = .next t → t.MemWf

/-- Every step keeps every group well formed, with its 32 lane positions and its maps in canonical form (log 4), and in a
slot of its own (R35, R43).

Every step keeps the agenda, which is the model's own (log 1), one of steps of the device, and every reduction under way
on aligned words (R224, R248). -/
def Obligations.InvariantsOfGroupsAndRequests : Prop :=
  (∀ s t : State, s.GroupsWf ∧ s.SlotsApart → step s = .next t → t.GroupsWf ∧ t.SlotsApart)
  ∧ (∀ s t : State, s.AgendaOk ∧ s.WordsAligned → step s = .next t → t.AgendaOk ∧ t.WordsAligned)

/-- The invariants hold right after reset, and so do the reset values that the spec gives: the version clock is 1 (R238),
KPCD0 and KPCD1 are 0 (R317), device time is 0 (R342), HOSTCTL is 0 (R363), MR0 to MR7 are 0 (R370), FT10 to FT15 are 0 in
every context (R128), the guest_cid is 3 (R365) and the controller's I3C address is 0x4A (R384).

The invariants themselves are the model's own (log 1 and 4). -/
def Obligations.ResetHoldsTheInvariants : Prop :=
  State.reset.MemWf ∧ State.reset.GroupsWf ∧ State.reset.SlotsApart ∧ State.reset.AgendaOk ∧ State.reset.WordsAligned
  ∧ State.reset.clock = 1 ∧ State.reset.time = 0 ∧ State.reset.hostCtl = 0
  ∧ State.reset.mrs = List.replicate 8 0 ∧ State.reset.guestCid = 3 ∧ State.reset.i3cAddr = 0x4A
  ∧ (∀ a n, 10 ≤ n → n < 16 → (State.reset.readCtx a).fte n = 0)
  ∧ ∀ c, c < 256 → (State.reset.coreBlock c).kpcd0 = 0 ∧ (State.reset.coreBlock c).kpcd1 = 0

/-! ## Registers and sources -/

/-- Writes to S63 and to P7 are discarded; S63 reads zero and P7 reads one (R77); a write to a register changes that
register in that lane alone; and a flag once set stays (R109).

The lane that each facet code reads (R80): itself, a rotation, one lane for all, a butterfly partner, the entry of a
route register, the lane that a network routes to it (R115); and what it reads there: zero from a lane that never ran, or that has exited before the opportunity under way (R161), else its register, whether or
not it issues; a uniform source gives bits [31:0] to every lane (R79, R82). -/
def Obligations.RegistersAndFacets : Prop :=
  ((∀ (g : Group) (x : DWord), g.ws 63 x = g ∧ g.rs 63 = 0)
    ∧ (∀ (l : Lane) (b : Bool), l.setPred 7 b = l ∧ l.pred 7 = true)
    ∧ (∀ (g : Group) (n m : Nat) (x : DWord), n < 63 → (g.ws n x).rs m = if m = n then x else g.rs m)
    ∧ (∀ (g : Group) (a j b k : Nat) (x : Word), j < 32 → k < 32 →
        (g.wv a j x).rv b k = if b = a ∧ k = j then x else g.rv b k)
    ∧ (∀ (l : Lane) (n m : Nat) (b : Bool), n < 7 → m < 7 → (l.setPred n b).pred m = if m = n then b else l.pred m)
    ∧ (∀ (l : Lane) (f : BitVec 5) (k : Nat), (l.setFlags f).flags.getLsbD k = (l.flags.getLsbD k || f.getLsbD k)))
  ∧ (∀ (g : Group) (j k : Nat), j < 32 → k < 32 →
      g.facetLane 0 j = j
      ∧ g.facetLane (BitVec.ofNat 7 (0x20 + k)) j = (j + k) % 32
      ∧ g.facetLane (BitVec.ofNat 7 (0x40 + k)) j = k
      ∧ (k < 5 → g.facetLane (BitVec.ofNat 7 (0x60 + k)) j = j ^^^ 2 ^ k)
      ∧ (k < 4 → g.q.length = 4 →
          g.facetLane (BitVec.ofNat 7 (0x68 + k)) j = ((g.q.getD k 0).extractLsb' (5 * j) 5).toNat)
      ∧ (k < 4 → g.n.length = 4 → g.facetLane (BitVec.ofNat 7 (0x6C + k)) j = benes (g.n.getD k 0) j)
      ∧ (∀ f field : BitVec 7,
          (((g.lane (g.facetLane f j)).st = .exit ∨ (g.lane (g.facetLane f j)).st = .none) →
              g.ended.getLsbD (g.facetLane f j) = false → g.srcV false f field j = 0)
          ∧ (∀ c, ((g.lane (g.facetLane f j)).st = .run ∨ (g.lane (g.facetLane f j)).st = .park c
                ∨ g.ended.getLsbD (g.facetLane f j) = true) →
              g.srcV false f field j = g.rv (g.wbase + field.toNat) (g.facetLane f j))
          ∧ g.srcV true f field j = (g.rs field.toNat).setWidth 32))

/-- A Beneš network with every switch straight routes each lane to itself, and every setting is a permutation of the lanes
(R115).

POPC counts the ones, CLZ the zeros above the highest one, BREV reverses (R143); BFX takes a field and BFI puts one in
place (R147).

What ATOM and RED.M do to a word, from its old value and the operands b and d (R252). -/
def Obligations.NetworksAndWordOperations : Prop :=
  ((∀ j, j < 32 → benes 0 j = j) ∧ ∀ (n : BitVec 144) (i j : Nat), i < 32 → j < 32 →
      benes n j < 32 ∧ (benes n i = benes n j → i = j))
  ∧ (∀ u : Word,
      (popcW u).toNat = ((List.range 32).filter (fun j => u.getLsbD j)).length
      ∧ (clzW u).toNat ≤ 32 ∧ (∀ j, j < 32 → 32 - (clzW u).toNat ≤ j → u.getLsbD j = false)
      ∧ (u ≠ 0 → u.getLsbD (31 - (clzW u).toNat) = true)
      ∧ (∀ j, j < 32 → (brevW u).getLsbD j = u.getLsbD (31 - j))
      ∧ (∀ (b : Word) (j : Nat), j < 32 → (bfxW false u b).getLsbD j = (decide (j < bfLen b) && u.getLsbD (bfPos b + j)))
      ∧ (∀ (b c : Word) (j : Nat), j < 32 → (bfiW u b c).getLsbD j =
          if bfPos b ≤ j ∧ j < bfPos b + bfLen b then u.getLsbD (j - bfPos b) else c.getLsbD j))
  ∧ (∀ m b d : Word,
      atomNew .add m b d = m + b ∧ atomNew .and m b d = m &&& b ∧ atomNew .or m b d = m ||| b
      ∧ atomNew .xor m b d = m ^^^ b ∧ atomNew .xchg m b d = b ∧ atomNew .cas m b d = (if m = d then b else m)
      ∧ (atomNew .min m b d).toInt = min m.toInt b.toInt ∧ (atomNew .max m b d).toInt = max m.toInt b.toInt
      ∧ (atomNew .minU m b d).toNat = min m.toNat b.toNat ∧ (atomNew .maxU m b d).toNat = max m.toNat b.toNat
      ∧ (atomNew .inc m b d).toNat = (if b.toNat ≤ m.toNat then 0 else m.toNat + 1)
      ∧ (atomNew .dec m b d).toNat = (if m.toNat = 0 ∨ b.toNat < m.toNat then b.toNat else m.toNat - 1)
      ∧ (atomNew .addF m b d).toNat = (fadd fp32 .rn false m.toNat b.toNat).1 % 2 ^ 32)

/-! ## Exceptions -/

/-- Taking an exception (R303 to R305, R315): each lane of the issue parks at its own PC with its sequence number raised by
one and a record that says where it stood; nothing else of the groups changes.

Step (R303, R317). What one issue makes of its lanes, which every instruction ends in: in a slot with step enabled, each
lane that completes, at E or where the back-edge check takes it, or that goes to a target, takes STEP there, and each that
traps has its own record. So the instructions that touch nothing but their group take effect, and each of their lanes then
takes STEP at the instruction it would execute next; with BRA that is the target.

MATES of a lane that traps by itself are log 24, and that the record carries the sequence number after its own
increment is log 71. -/
def Obligations.TakingAnException : Prop :=
  (∀ (s : State) (core slot : Nat) (g : Group) (after : DWord) (m : Word) (r : SvcRecord),
      s.group? core slot = some g → g.lanes.length = 32 →
      s.Traps (s.raise core slot after (allLanes m r)) core slot m (fun _ => r)
      ∧ ∀ j, j < 32 → m.getLsbD j = true → ∃ g' q, (s.raise core slot after (allLanes m r)).group? core slot = some g'
          ∧ (g'.lane j).svc = some q ∧ q.pcoff = ((g.lane j).pc - (s.textOf g).1).setWidth 32 ∧ q.ctxid = s.ctxOf g
          ∧ (r.code ≠ 0x11 → q.mates = m) ∧ (∀ t, s.teamOf g = some t → q.teamLin = BitVec.ofNat 32 t.lin))
  ∧ ((∀ (s : State) (core slot : Nat) (g : Group) (after e : DWord) (traps : List (Nat × SvcRecord)) (seq jmp : Word)
      (target : Nat → DWord), s.group? core slot = some g → g.lanes.length = 32 → slot < 15 →
      (s.coreBlock core).stepMask.getLsbD slot = true → (∀ j, ¬(seq.getLsbD j = true ∧ jmp.getLsbD j = true)) →
      (traps.map Prod.fst).Nodup → (∀ r ∈ traps, r.1 < 32 ∧ seq.getLsbD r.1 = false ∧ jmp.getLsbD r.1 = false) →
      ∃ g', (s.finishIssue core slot after traps seq e jmp target).group? core slot = some g'
        ∧ s.OthersKept (s.finishIssue core slot after traps seq e jmp target) core slot
        ∧ { g' with lanes := g.lanes, lc := g.lc } = g
        ∧ (∀ j, j < 32 → seq.getLsbD j = true → ((g.lane j).resumed .run (g.goesTo e)).Trapped (g'.lane j) { code := 0x13 })
        ∧ (∀ j, j < 32 → jmp.getLsbD j = true → ((g.lane j).resumed .run (target j)).Trapped (g'.lane j) { code := 0x13 })
        ∧ (∀ r ∈ traps, (g.lane r.1).Trapped (g'.lane r.1) r.2)
        ∧ ∀ j, j < 32 → seq.getLsbD j = false → jmp.getLsbD j = false → (∀ r ∈ traps, r.1 ≠ j) → g'.lane j = g.lane j)
    ∧ (∀ (i : Instr) (s : State) (p : Path) (m : Meaning),
      (uniformMeaning i p.g = some m ∨ vectorMeaning i p.g = some m ∨ predicateMeaning i p.g p.L = some m
        ∨ fp32Meaning i p.g = some m ∨ fp64Meaning i p.g = some m ∨ exactMeaning i p.g = some m
        ∨ convertMeaning i p.g p.L = some m ∨ registerMeaning i p.g p.L = some m) →
      s.IssuesStepped m.1 (Exts.guard m.1) p → (p.L = 0 ∨ p.g.hasRegs m.2.1 = true) →
      ∃ t h, exec i s = .next t ∧ p.g.Took h p.L m.2.2 ∧ s.Steps t p h (fun _ => p.g.goesTo p.next))
    ∧ ∀ (s : State) (x : Exts) (n : BitVec 1) (g : BitVec 3) (o : BitVec 22) (p : Path), s.IssuesStepped x (n ++ g) p →
      ∃ t, exec (.bra x n g o) s = .next t ∧ s.Steps t p p.g (fun j =>
        if p.L.getLsbD j then p.base + 4 * o.signExtend 64 else p.g.goesTo p.next))

/-- Where a record goes (R305, R307, R313, R314): a SYSC's to the core's mailbox, any other to the signet queue of its
cluster, 64 bytes at the index of its slot and lane, with the count raised by one and the index unread; no other byte of
memory changes. -/
def Obligations.RecordsAreDelivered : Prop :=
  ∀ (s : State) (core slot lane : Nat) (r : SvcRecord),
    slot < 16 → lane < 32 → core < s.cores.length → core / 32 < s.tus.length → s.WordsAligned →
    let i := 32 * slot + lane
    let k := 512 * (core % 32) + i
    let mb := s.mbxPa core
    let sq := (s.tu (core / 32)).sqBase.toNat
    let t := s.deliver core slot lane r
    let bs := recordBytes core slot lane (s.gen core slot) r
    bs.length = 64
    ∧ (r.toMailbox = true → s.backedRange (mb + 64 * i) 64 = true → s.backedRange (mb + 0x8000) 4 = true →
        (∀ n, n < 64 → t.view .mem (mb + 64 * i + n) = bs.getD n 0)
        ∧ t.deviceNum (mb + 0x8000) 4 = (s.deviceNum (mb + 0x8000) 4 + 1) % 2 ^ 32
        ∧ (t.coreBlock core).unread = (s.coreBlock core).unread.filter (· ≠ i) ++ [i]
        ∧ ∀ a, ¬(mb + 64 * i ≤ a ∧ a < mb + 64 * i + 64) → ¬(mb + 0x8000 ≤ a ∧ a < mb + 0x8004) →
            t.view .mem a = s.view .mem a)
    ∧ (r.toMailbox = false → s.backedRange (sq + 64 * k) 64 = true →
        (∀ n, n < 64 → t.view .mem (sq + 64 * k + n) = bs.getD n 0)
        ∧ (t.tu (core / 32)).sqCount = (s.tu (core / 32)).sqCount + 1
        ∧ (t.tu (core / 32)).unread = (s.tu (core / 32)).unread.filter (· ≠ k) ++ [k]
        ∧ ∀ a, ¬(sq + 64 * k ≤ a ∧ a < sq + 64 * k + 64) → t.view .mem a = s.view .mem a)

/-- LANECTL (R311, R313, R317): a selector of another generation does nothing; RETRY resumes lanes at their PCs and SETPC
at the text base plus RESPC; COMPLETE resumes them after their instruction, with the back-edge check, and gives RESVAL to
the register of a SYSC; KILL ends them, and the group retires with its last. A selector names slots 0 to 14 (log 27). LANECTL is a release of the
signet core's earlier accesses at DEVICE scope: it does nothing while a write of that core is held at its home (log 65).

What COMPLETE does with a step trap in a stepped slot is log 27. A step that cannot happen in a state answers that
state (next state equal to the state): that is the model's form and no rule (log 6). -/
def Obligations.ReturningFromAnException : Prop :=
  ∀ (s : State) (core : Nat) (sel : DWord) (g : Group),
    core < s.ncores → s.group? core (selSlot sel) = some g → g.lanes.length = 32 →
    let m := s.selected core sel false
    (s.signetHeld (core / 32) = true → ∀ i ∈ [Instr.lanectlComplete core sel, .lanectlRetry core sel, .lanectlKill core sel,
      .lanectlSetpc core sel], exec i s = .next s)
    ∧ (selGen sel ≠ s.gen core (selSlot sel) ∨ selSlot sel = 15 → selAct sel < 4 →
      (selAct sel = 0 → exec (.lanectlComplete core sel) s = .next s)
      ∧ (selAct sel = 1 → exec (.lanectlRetry core sel) s = .next s)
      ∧ (selAct sel = 2 → exec (.lanectlKill core sel) s = .next s)
      ∧ (selAct sel = 3 → exec (.lanectlSetpc core sel) s = .next s))
    ∧ (selGen sel = s.gen core (selSlot sel) → selSlot sel < 15 → ∀ j, j < 32 → m.getLsbD j = ((selMask sel).getLsbD j
        && (decide ((g.lane j).st = .park .fault) || decide ((g.lane j).st = .park .syscall))))
    ∧ (s.halted = false → s.signetHeld (core / 32) = false →
      (selAct sel = 1 → ∃ t, exec (.lanectlRetry core sel) s = .next t
        ∧ Released s t core (selSlot sel) m (fun j => (g.lane j).pc))
    ∧ (selAct sel = 3 → ∃ t, exec (.lanectlSetpc core sel) s = .next t
        ∧ Released s t core (selSlot sel) m
            (fun _ => (s.textOf g).1 + ((s.coreBlock core).resPc.setWidth 32).setWidth 64))
    ∧ (selAct sel = 0 → m ≠ 0 → ¬(selSlot sel < 15 ∧ (s.coreBlock core).stepMask.getLsbD (selSlot sel) = true) →
        ∀ (e : DWord) (r : Nat → SvcRecord),
        (∀ j, j < 32 → m.getLsbD j = true →
          (g.lane j).after = e ∧ (g.lane j).svc = some (r j) ∧ (r j).code ≠ 0x13) →
        ∃ t h, exec (.lanectlComplete core sel) s = .next t ∧ s.Resumes t core (selSlot sel) m e h
          ∧ h.lanes = g.lanes ∧ { h with v := g.v } = g
          ∧ ∀ a j, j < 32 → h.rv a j =
              if m.getLsbD j = true ∧ (r j).code = 0x11 ∧ a = (r j).areg.toNat ∧ g.exists a = true then
                (s.coreBlock core).resVal.setWidth 32
              else g.rv a j)
    ∧ (selAct sel = 2 → m ≠ 0 → ∃ t, exec (.lanectlKill core sel) s = .next t
        ∧ ((∃ j, j < 32 ∧ m.getLsbD j = false ∧ (g.lane j).live = true) →
            ∃ g', s.OnlyGroup t core (selSlot sel) g' ∧ { g' with lanes := g.lanes } = g
              ∧ ∀ j, j < 32 → g'.lane j =
                  if m.getLsbD j then { g.lane j with st := .exit, svc := none } else g.lane j)
        ∧ ((∀ j, j < 32 → m.getLsbD j = false → (g.lane j).live = false) →
            t.group? core (selSlot sel) = none ∧ s.OthersKept t core (selSlot sel))))

/-- The keeper's returns (R301, R312): LANERES completes, kills or forwards the lanes that its selector names among the
records of the mailbox, ERET retries those of ESEL, each a release that waits for the group's accesses; the keeper's own
path goes on. FORWARD (R311): the record stands in the signet queue too, the lane stays parked with it, and no later
LANERES acts on the lane, while LANECTL does.

MBXRD takes unread record indices in order, one for each lane of L up to the count, and gives 0xFFFF_FFFF to the rest
(R310), and adds the number taken to RCOUNT in the mailbox (R307), and no other byte of memory changes; TLBINV parks its lanes until the invalidation is done (R323). -/
def Obligations.KeeperInstructions : Prop :=
  ((∀ (s : State) (core slot j : Nat) (g : Group) (r : SvcRecord), s.group? core slot = some g → g.lanes.length = 32 →
      j < 32 → slot < 15 → core / 32 < s.tus.length → (g.lane j).svc = some r →
      let t := s.actForward core slot (maskOf (· = j))
      ∃ g', t.group? core slot = some g' ∧ s.OthersKept t core slot
        ∧ g' = g.modLane j (fun l => { l with svc := some { r with fwd := true } })
        ∧ 512 * (core % 32) + 32 * slot + j ∈ (t.tu (core / 32)).unread
        ∧ ∀ sel, selSlot sel = slot → (t.selected core sel true).getLsbD j = false
            ∧ (t.selected core sel false).getLsbD j = (s.selected core sel false).getLsbD j)
    ∧ ∀ (s : State) (p : Path) (x : Exts), s.Issues x (Exts.guard x) p → p.slot = 15 → p.g.keeper = true → p.L ≠ 0 →
      s.fenceReady p.core 15 1 3 = true →
      (∀ a b, p.g.hasRegs (vuse (Exts.uniB x) b 1) = true → selSlot (p.g.rs a.toNat) < 15 →
        let sel := p.g.rs a.toNat
        let m := s.selected p.core sel true
        (selAct sel = 0 → ∃ t, exec (.laneres x a b) s = .next t
          ∧ (s.actComplete p.core (selSlot sel) m (fun j => p.g.srcB x b j)).Goes t p p.g)
        ∧ (selAct sel = 2 → ∃ t, exec (.laneres x a b) s = .next t ∧ (s.actKill p.core (selSlot sel) m).Goes t p p.g)
        ∧ (selAct sel = 3 → ∃ t, exec (.laneres x a b) s = .next t ∧ (s.actForward p.core (selSlot sel) m).Goes t p p.g))
      ∧ (selSlot (s.coreBlock p.core).esel < 15 → ∃ t, exec (.eret x) s = .next t
          ∧ (s.actRetry p.core (selSlot (s.coreBlock p.core).esel) (s.selected p.core (s.coreBlock p.core).esel true)).Goes
              t p p.g))
  ∧ (∀ (s : State) (p : Path) (x : Exts), s.Issues x (Exts.guard x) p → p.g.keeper = true → p.L ≠ 0 →
      (∀ d a, p.g.hasRegs (vuse false d 1) = true → p.core < s.cores.length →
        let k := min ((p.g.rs a.toNat).setWidth 32 : Word).toNat 32
        let taken := ((s.coreBlock p.core).unread.take k).take (lanesOf p.L).length
        ∃ (u t : State) (h : Group), exec (.mbxrd x d a) s = .next t ∧ u.Goes t p h ∧ u.groups = s.groups
          ∧ p.g.Took h p.L (p.g.inV d (fun j =>
              ((taken[((lanesOf p.L).takeWhile (· ≠ j)).length]?).map (BitVec.ofNat 32)).getD 0xFFFFFFFF))
          ∧ (u.coreBlock p.core).unread = (s.coreBlock p.core).unread.drop taken.length
          ∧ (taken = [] → ∀ a, u.view .mem a = s.view .mem a)
          ∧ (let rcount := s.mbxPa p.core + 0x8004
            s.WordsAligned → s.backedRange rcount 4 = true →
              u.deviceNum rcount 4 = (s.deviceNum rcount 4 + taken.length) % 2 ^ 32
                ∧ ∀ a, ¬(rcount ≤ a ∧ a < rcount + 4) → u.view .mem a = s.view .mem a))
      ∧ (∀ a b, invOk (p.g.rs b.toNat) = true → ∃ t, exec (.tlbinv x a b) s = .next t
          ∧ s.Parks t p (fun _ l => { l with
              st := .park (.memWait (.tlbinv (p.g.rs a.toNat) (p.g.rs b.toNat) none)), after := p.next, issue := p.L })))

/-- An instruction or a special register of another privilege level raises PRIV in every lane of L, with its words in
AUXA and AUXB, and has no effect (R111, R301, R309, R329).

TRAP n and BKPT n park each lane of L with a record that holds n (R303, R330).

SYSC (R308, R309): when the group's accesses are performed, every lane's argument block passes its checks and no sector
is about to fail (log 61), the arbiters let the block be read (R218) and no write there is yet to be hidden from the group
(R228), each lane of L parks with its call number, the address of its block and the block's first two words; lanes with the same call
number and the same block are mates. -/
def Obligations.PrivilegeAndSystemCalls : Prop :=
  (∀ (s : State) (x : Exts) (p : Path), s.Issues x (Exts.guard x) p →
      let priv := wordRecord 0x02 s.cur.words
      (p.g.keeper = false →
        (∀ d a, ∃ t, exec (.mbxrd x d a) s = .next t ∧ s.PathTraps t p priv)
        ∧ (∀ a b, ∃ t, exec (.laneres x a b) s = .next t ∧ s.PathTraps t p priv)
        ∧ (∀ a b, ∃ t, exec (.tlbinv x a b) s = .next t ∧ s.PathTraps t p priv)
        ∧ (∃ t, exec (.eret x) s = .next t ∧ s.PathTraps t p priv)
        ∧ (∀ (d : BitVec 7) (n : BitVec 12), 0x100 ≤ n.toNat → n.toNat < 0x200 →
            (∃ t, exec (.sread x d n) s = .next t ∧ s.PathTraps t p priv)
            ∧ (∃ t, exec (.swrite x d n) s = .next t ∧ s.PathTraps t p priv)
            ∧ (∃ t, exec (.capr x d n) s = .next t ∧ s.PathTraps t p priv)))
      ∧ (p.g.keeper = true → ∀ a b, ∃ t, exec (.sysc x a b) s = .next t ∧ s.PathTraps t p priv))
  ∧ (∀ (s : State) (x : Exts) (p : Path) (n : BitVec 7), s.Issues x (Exts.guard x) p →
      (∃ t, exec (.trap x n) s = .next t ∧ s.PathTraps t p { code := 0x80 ||| n.setWidth 8, arg := n.setWidth 32 })
      ∧ (∃ t, exec (.bkpt x n) s = .next t ∧ s.PathTraps t p { code := 0x10, arg := n.setWidth 32 }))
  ∧ (∀ (s : State) (x : Exts) (p : Path) (a b : BitVec 7) (pa : Nat → Nat),
      s.Issues x (Exts.guard x) p → p.g.keeper = false → p.L ≠ 0 → s.WordsAligned → s.faulty = [] →
      p.g.hasRegs (vuse false a 1 ++ vuse false b 2) = true → s.fenceReady p.core p.slot 2 3 = true →
      (∀ j, j < 32 → p.L.getLsbD j = true → s.syscCheck p (p.g.rv2 (p.g.wbase + b.toNat) j) = .ok (pa j)
        ∧ s.hidden p.core p.slot .mem (pa j / 128) = false) →
      s.issueServed p.core p.slot (dedup ((lanesOf p.L).map (fun j => pa j / 128))) = true →
      let word := fun j k => BitVec.ofNat 64 (leNat ((List.range 8).map (fun n => s.view .mem (pa j + k + n))))
      ∃ t, exec (.sysc x a b) s = .next t
        ∧ s.Divides t { p with g := { p.g with asked := none } } p.L (fun j =>
            { code := 0x11, areg := BitVec.ofNat 16 (p.g.wbase + a.toNat), arg := p.g.rv (p.g.wbase + a.toNat) j
              addr := p.g.rv2 (p.g.wbase + b.toNat) j, auxa := word j 0, auxb := word j 8 }) id (fun _ => 0)
        ∧ ∃ g', t.group? p.core p.slot = some g' ∧ ∀ i j, i < 32 → j < 32 → p.L.getLsbD i = true → p.L.getLsbD j = true →
            ∃ q, (g'.lane j).svc = some q ∧ (q.mates.getLsbD i = true ↔
              (p.g.rv (p.g.wbase + a.toNat) i = p.g.rv (p.g.wbase + a.toNat) j
                ∧ ∀ n, n < 64 → s.view .mem (pa i + n) = s.view .mem (pa j + n))))

/-! ## Instructions that touch nothing but their group -/

/-- Uniform arithmetic writes S[D] once for the path, mod 2^64 (R139 to R141).

Vector integer arithmetic writes each lane of L from values read before any write (R6, R143 to R148). -/
def Obligations.IntegerArithmetic : Prop :=
  (∀ (i : Instr) (s : State) (p : Path) (m : Meaning), uniformMeaning i p.g = some m → Performs s i p m)
  ∧ (∀ (i : Instr) (s : State) (p : Path) (m : Meaning), vectorMeaning i p.g = some m → Performs s i p m)

/-- Predicate logic, votes, matches, reductions and scans over the lanes of L in ascending order (R149 to R154). -/
def Obligations.PredicatesAndReductions : Prop :=  ∀ (i : Instr) (s : State) (p : Path) (m : Meaning), predicateMeaning i p.g p.L = some m → Performs s i p m

/-- FP32 arithmetic writes its result and adds its flags to the lane (R109, R170 to R182, R193).

FP64 arithmetic in register pairs (R171, R175 to R182).

A special function whose correctly rounded value the model's precision does not decide takes an opaque value of
Config (log 8). -/
def Obligations.FloatingPointArithmetic : Prop :=
  (∀ (i : Instr) (s : State) (p : Path) (m : Meaning), fp32Meaning i p.g = some m → Performs s i p m)
  ∧ (∀ (i : Instr) (s : State) (p : Path) (m : Meaning), fp64Meaning i p.g = some m → Performs s i p m)

/-- Exact pairs and double words (R187 to R192).

CVT, and the reductions and scans of floating-point values (R183 to R186, R194 to R196). -/
def Obligations.ExactPairsAndConversions : Prop :=
  (∀ (i : Instr) (s : State) (p : Path) (m : Meaning), exactMeaning i p.g = some m → Performs s i p m)
  ∧ (∀ (i : Instr) (s : State) (p : Path) (m : Meaning), convertMeaning i p.g p.L = some m → Performs s i p m)

/-- NOP, YIELD, CMARK, FLGR, FLGC, QSET, NSET, MMAP, MBURST, WBASE, SWRITE of FPCTL, and TMOV (R111, R113, R114, R118, R167
to R169, R197 to R200, R272, R273, R277); a window base that would leave 0 to 508 raises PROTECT SUB 4 (R169, R306). -/
def Obligations.GroupRegisters : Prop :=
  (∀ (i : Instr) (s : State) (p : Path) (m : Meaning), registerMeaning i p.g p.L = some m → Performs s i p m)
  ∧ ∀ (s : State) (x : Exts) (p : Path) (i : BitVec 12), s.Issues x (Exts.guard x) p → p.L ≠ 0 →
      ((p.g.wbase : Int) + i.toInt < 0 ∨ 508 < (p.g.wbase : Int) + i.toInt) →
      ∃ t, exec (.wbase x i) s = .next t ∧ s.PathTraps t p { code := 0x05, sub := 4 }

/-- FP32 addition and multiplication do not depend on the order of their operands; a sum or product with a NaN is the
default NaN, and infinities of both signs give it with FI; FMIN and FMAX return the number beside a quiet NaN; FCMP.EQ
of a NaN is false and FCMP.NE true (R119, R175, R177, R178). -/
def Obligations.FloatingPointLaws : Prop :=
  ∀ (rm : Rm) (ftz : Bool) (a b : Nat), a < 2 ^ 32 → b < 2 ^ 32 →
    fadd fp32 rm ftz a b = fadd fp32 rm ftz b a
    ∧ fmul fp32 rm ftz a b = fmul fp32 rm ftz b a
    ∧ ((fp32.val a).isNan = true → (fadd fp32 rm ftz a b).1 = fp32.nan ∧ (fmul fp32 rm ftz a b).1 = fp32.nan
        ∧ (fcmp fp32 0 ftz a b).1 = false ∧ (fcmp fp32 1 ftz a b).1 = true)
    ∧ fadd fp32 rm ftz 0x7F800000 0xFF800000 = (fp32.nan, 1)
    ∧ ((fp32.val a).isNan = true → (fp32.val b).isNan = false →
        (fminmax fp32 false false ftz a b).1 = fp32.flush ftz b ∧ (fminmax fp32 true false ftz b a).1 = fp32.flush ftz b)

/-- FADD, FSUB, FMUL, FFMA, FDIV, FSQRT, FRCP and FRSQ of finite operands give the exact value rounded by the mode, with FX
exactly where the value delivered differs from it, FO on overflow and FF on an inexact tiny result (R117, R172, R175, R176,
R181); an exact zero is positive, or takes the common sign of its parts, or is negative under .RD (R117), and the special
operands give what R182 lists. With flushing, a tiny result is a zero with FF and FX, and one that is not tiny is the same
(R118). FRND gives the integral value of the mode with the sign of its operand and no flag (R180). An exact pair is the rounded
value and the rest, exact for a sum and rounded for a product (R130, R131). CVT between formats and from an integer rounds once,
and into an integer rounds and clamps (R184, R185). -/
def Obligations.RoundedArithmetic : Prop :=
  (∀ f ∈ [fp32, fp64], ∀ (rm : Rm) (a b c : Nat) (x y z : Int),
    f.units a = some x → f.units b = some y → f.units c = some z →
    let unit : Nat := 2 ^ (f.bias + f.mw - 1)
    let neg := fun v : Nat => (f.val v).neg
    let zero := fun (n m : Bool) => ((f.zero (if n = m then n else decide (rm = .rd)), 0) : FRes)
    let gives := fun (l : List Nat) (v : Cut) (r : Bool → FRes) => f.Rounds rm v (r false)
      ∧ ((∀ o ∈ l, f.isSub o = false) → ¬v.zero →
          (¬v.under 1 (2 ^ (f.bias - 1)) → r true = r false)
          ∧ (¬v.over (2 ^ (f.mw + 1) - 1) (2 ^ (f.bias + f.mw)) →
              (v.neg → r true = (f.zero true, FF ||| FX)) ∧ (¬v.neg → r true = (f.zero false, FF ||| FX))))
    gives [a, b] (.frac (x + y) unit) (fun ftz => fadd f rm ftz a b)
    ∧ gives [a, b] (.frac (x - y) unit) (fun ftz => fsub f rm ftz a b)
    ∧ gives [a, b] (.frac (x * y) (unit * unit)) (fun ftz => fmul f rm ftz a b)
    ∧ gives [a, b, c] (.frac (x * y + z * unit) (unit * unit)) (fun ftz => ffma f rm ftz a b c)
    ∧ (x + y = 0 → fadd f rm false a b = zero (neg a) (neg b))
    ∧ (x = 0 ∨ y = 0 → fmul f rm false a b = (f.zero (neg a != neg b), 0))
    ∧ (x * y + z * unit = 0 → ffma f rm false a b c = zero (neg a != neg b) (neg c))
    ∧ (x ≠ 0 → y ≠ 0 → gives [a, b] (.frac (if y < 0 then -x else x) y.natAbs) (fun ftz => fdiv f rm ftz a b))
    ∧ (x = 0 → y ≠ 0 → fdiv f rm false a b = (f.zero (neg a != neg b), 0))
    ∧ (x ≠ 0 → y = 0 → fdiv f rm false a b = (f.inf (neg a != neg b), FZ))
    ∧ (x = 0 → y = 0 → fdiv f rm false a b = (f.nan, FI))
    ∧ (0 < x → gives [a] (.root x.toNat unit) (fun ftz => fsqrt f rm ftz a)
        ∧ gives [a] (.root unit x.toNat) (fun ftz => frsq f rm ftz a))
    ∧ (x = 0 → fsqrt f rm false a = (f.zero (neg a), 0) ∧ frsq f rm false a = (f.inf (neg a), FZ)
        ∧ frcp f rm false a = (f.inf (neg a), FZ))
    ∧ (x < 0 → fsqrt f rm false a = (f.nan, FI) ∧ frsq f rm false a = (f.nan, FI))
    ∧ (x ≠ 0 → gives [a] (.frac (if x < 0 then -unit else unit) x.natAbs) (fun ftz => frcp f rm ftz a))
    ∧ (∃ k, RoundsInt rm x unit k ∧ f.units (frnd f rm false a).1 = some (k * unit) ∧ neg (frnd f rm false a).1 = neg a
        ∧ (frnd f rm false a).2 = 0)
    ∧ (f.isSub a = false → frnd f rm true a = frnd f rm false a)
    ∧ (f.isSub a = true → frnd f rm true a = (f.zero (neg a), 0))
    ∧ (let hi := (fadd f .rn false a b).1
      (faddX f a b).1 = hi ∧ (faddX f a b).2.2 = (fadd f .rn false a b).2
      ∧ ((f.val hi).isInf = true → (faddX f a b).2.1 = 0)
      ∧ ∀ h, f.units hi = some h → f.units (faddX f a b).2.1 = some (x + y - h) ∧ (x + y = h → (faddX f a b).2.1 = 0))
    ∧ (let hi := (fmul f .rn false a b).1
      let fl := (fmul f .rn false a b).2
      (fmulX f a b).1 = hi ∧ ((f.val hi).isInf = true → (fmulX f a b).2 = (0, fl))
      ∧ ∀ h, f.units hi = some h →
          (x * y = h * unit → (fmulX f a b).2 = (0, fl))
          ∧ (x * y ≠ h * unit → ∃ lo, f.Rounds .rn (.frac (x * y - h * unit) (unit * unit)) lo
              ∧ (fmulX f a b).2.1 = (if f.units lo.1 = some 0 then 0 else lo.1)
              ∧ (fmulX f a b).2.2 = fl ||| (if lo.2.getLsbD 4 = true then FF ||| FX else 0))))
  ∧ ∀ (s t v : Nat) (rm : Rm), s < 16 → t < 16 → s ≠ t →
    let r := cvt s t rm false false false v
    (∀ f g x, cvtFmt s = .flt f → cvtFmt t = .flt g → g ∈ [fp64, fp32, fp16, bf16, e5m2] →
      f.units (v % 2 ^ f.width) = some x →
      (x ≠ 0 → g.Rounds rm (.frac x (2 ^ (f.bias + f.mw - 1))) r) ∧ (x = 0 → r = (g.zero (f.val (v % 2 ^ f.width)).neg, 0)))
    ∧ (∀ sg w g, cvtFmt s = .int sg w → cvtFmt t = .flt g → g ∈ [fp64, fp32, fp16, bf16, e5m2] →
      (intVal sg w v ≠ 0 → g.Rounds rm (.frac (intVal sg w v) 1) r) ∧ (intVal sg w v = 0 → r = (0, 0)))
    ∧ (∀ f sg w x, cvtFmt s = .flt f → cvtFmt t = .int sg w → f.units (v % 2 ^ f.width) = some x →
      ∃ k, RoundsInt rm x (2 ^ (f.bias + f.mw - 1)) k ∧ r =
        (if k < intMin sg w then (intEnc w (intMin sg w), FI ||| FX)
        else if intMax sg w < k then (intEnc w (intMax sg w), FI ||| FX)
        else (intEnc w k, if k * 2 ^ (f.bias + f.mw - 1) = x then 0 else FX)))

/-- The special registers (R110, R111, R302, R347): SREAD gives the lane of the lowest issuing lane, the group's place, its
window and allocation, the mask of live lanes, FPCTL, KARGS, TEXTBASE and KDATABASE of registers 0x011 to 0x013 (R347), the
loop counts, and the format-table entries (R127, R128); the keeper reads CTXID and MBXBASE, and reads and writes ESEL; a number that
is absent, and a write of one that is only read, raises ILLEGAL in every issuing lane. CAPR reads a capability record, zero for
an undefined one (R33, R34, R329). -/
def Obligations.SpecialRegisters : Prop :=
  ∀ (s : State) (x : Exts) (p : Path) (d : BitVec 7), s.Issues x (Exts.guard x) p →
    (∀ (n : BitVec 12) (v : DWord),
      (n.toNat = 0x000 ∧ (∃ j, j < 32 ∧ p.L.getLsbD j = true ∧ (∀ k, k < j → p.L.getLsbD k = false)
          ∧ v = BitVec.ofNat 64 j)
        ∨ n.toNat = 0x001 ∧ v = BitVec.ofNat 64 p.g.groupId ∨ n.toNat = 0x002 ∧ v = BitVec.ofNat 64 p.g.roleId
        ∨ n.toNat = 0x003 ∧ v = BitVec.ofNat 64 p.g.roleGrp
        ∨ n.toNat = 0x00A ∧ v = BitVec.ofNat 64 p.core ∨ n.toNat = 0x00B ∧ v = BitVec.ofNat 64 p.slot
        ∨ n.toNat = 0x00C ∧ v = BitVec.ofNat 64 p.g.wbase ∨ n.toNat = 0x00D ∧ v = BitVec.ofNat 64 p.g.alloc
        ∨ n.toNat = 0x00F ∧ (∀ j, v.getLsbD j = (decide (j < 32) && (p.g.lane j).live))
        ∨ n.toNat = 0x010 ∧ v = p.g.fpctl
        ∨ (∃ k, k < 3 ∧ n.toNat = 0x018 + k ∧ v = (p.g.lc.getD k {}).count.setWidth 64)
        ∨ (∃ k, n.toNat = 0x020 + k ∧ [0x11430708, 0x12520F08, 0x10320306, 0x10230106, 0x10210104, 0x125A0F10, 0x12877F10,
            0x20060008, 0x30000000, 0x41807F08][k]? = some v)
        ∨ n.toNat = 0x100 ∧ p.g.keeper = true ∧ v = 0
        ∨ n.toNat = 0x102 ∧ p.g.keeper = true ∧ v = (s.coreBlock p.core).esel
        ∨ n.toNat = 0x101 ∧ p.g.keeper = true ∧ v = (s.coreBlock p.core).mbxBase
        ∨ (∃ t, s.teamOf p.g = some t ∧
            (n.toNat = 0x004 ∧ v = BitVec.ofNat 64 t.x ∨ n.toNat = 0x005 ∧ v = BitVec.ofNat 64 t.y
              ∨ n.toNat = 0x006 ∧ v = BitVec.ofNat 64 t.z ∨ n.toNat = 0x007 ∧ v = BitVec.ofNat 64 t.lin
              ∨ n.toNat = 0x008 ∧ v = BitVec.ofNat 64 t.gang ∨ n.toNat = 0x009 ∧ v = BitVec.ofNat 64 t.rank
              ∨ n.toNat = 0x00E ∧ v = BitVec.ofNat 64 t.pool ∨ n.toNat = 0x011 ∧ v = t.kargs
              ∨ n.toNat = 0x012 ∧ v = t.textBase ∨ n.toNat = 0x013 ∧ v = t.kdata
              ∨ ∃ k, k < 6 ∧ n.toNat = 0x02A + k ∧ v = (t.ctx.ft.getD k 0 &&& 0xF7FFFFFF).setWidth 64))) →
      ∃ t h, exec (.sread x d n) s = .next t ∧ s.Goes t p h ∧ p.g.Took h p.L (inS d v))
    ∧ (∀ (n : BitVec 12), 0x014 ≤ n.toNat ∧ n.toNat < 0x018 ∨ 0x01B ≤ n.toNat ∧ n.toNat < 0x020
        ∨ 0x030 ≤ n.toNat ∧ n.toNat < 0x100 ∨ 0x103 ≤ n.toNat ∧ n.toNat < 0x200 ∧ p.g.keeper = true ∨ 0x200 ≤ n.toNat →
      ∃ t, exec (.sread x d n) s = .next t ∧ s.AllTrap t p (wordRecord 0x01 s.cur.words))
    ∧ (p.g.keeper = true → ∀ n : BitVec 12, n.toNat = 0x102 →
      ∃ t, exec (.swrite x d n) s = .next t ∧ (if p.L = 0 then s else
        s.modCore p.core (fun c => { c with esel := p.g.rs d.toNat &&& 0xFFFF00CFFFFFFFFF })).Goes t p p.g)
    ∧ (∀ n : BitVec 12, n.toNat < 0x100 ∧ n.toNat ≠ 0x010 ∨ 0x200 ≤ n.toNat
        ∨ 0x100 ≤ n.toNat ∧ n.toNat ≠ 0x102 ∧ p.g.keeper = true →
      ∃ t, exec (.swrite x d n) s = .next t ∧ s.AllTrap t p (wordRecord 0x01 s.cur.words))
    ∧ (∀ n : BitVec 12, (n.toNat < 0x100 ∨ 0x200 ≤ n.toNat ∨ p.g.keeper = true) →
      ∃ t h v, exec (.capr x d n) s = .next t ∧ s.Goes t p h ∧ p.g.Took h p.L (inS d v)
        ∧ (let h := s.boot.variant = .h
          let sv := s.boot.variant = .s
          (n.toNat = 0x000 → v = (if h then 0x50592A090310004B else if sv then 0x50592A090210004B else 0x50592A090110004B)
            + (if s.boot.attach = true then 0x100 else 0))
          ∧ (n.toNat = 0x001 → v = if h then 0x00000F0120082010 else 0x0000FF0320082010)
          ∧ (n.toNat = 0x002 → v = 0x0800400C0B200100) ∧ (n.toNat = 0x003 → v = 0x000004101008200F)
          ∧ (n.toNat = 0x004 → v = 0x0000084080000FFF) ∧ (n.toNat = 0x005 → v = 0x0000060000804002)
          ∧ (n.toNat = 0x006 → v = if h then 0x000F003008000064 else 0x00FF003008000064)
          ∧ (n.toNat = 0x007 → v = if sv then 0x0000008006010010 else 0x0000008006FFF010)
          ∧ (n.toNat = 0x008 → v = if s.boot.variant = .x ∧ s.boot.media = true then 0x0000000000FFF010 else 0)
          ∧ (n.toNat = 0x009 → v = if h then 0x0000001FF12000E0 else 0x00003FFFF12000E0)
          ∧ (n.toNat = 0x00A → v = 0x09600A8C07D001F4) ∧ (n.toNat = 0x00B → v = 0x000040804000391F)
          ∧ (n.toNat = 0x00C → v = 0x0000000010004040)
          ∧ (n.toNat = 0x100 → v = s.boot.serial) ∧ (n.toNat = 0x101 → v = s.boot.mfgDate ++ s.boot.mfgKey))
        ∧ (0x00D ≤ n.toNat ∧ n.toNat < 0x040 ∨ 0x04C ≤ n.toNat ∧ n.toNat < 0x100 ∨ 0x102 ≤ n.toNat → v = 0))

/-! ## Control flow -/

/-- BRA sends each lane of L to the base word's address plus 4 × sext(OFF22), with the guard of GN and GP, and the word of
all zeros is ILLEGAL (R156). BRI sends each to the text base plus its source, and a target that is not a multiple of 4
takes MISALIGN (R157).

The fields of BRI's MISALIGN record beyond its code are log 24. -/
def Obligations.Branches : Prop :=
  (∀ (s : State) (q : Issue) (r : List Issue) (g : Group), s.issueQ = q :: r → s.group? q.core q.slot = some g →
    g.lanes.length = 32 → issuingLanes q g ≠ 0 → ({ s with issueQ := r } : State).fetch g q.pc = .words [0] →
    ∃ t, step s = .next t
      ∧ ({ s with issueQ := r } : State).Traps t q.core q.slot (issuingLanes q g) (fun _ => { code := 0x01 }))
  ∧ (∀ (s : State) (x : Exts) (n : BitVec 1) (g : BitVec 3) (o : BitVec 22) (p : Path), s.Issues x (n ++ g) p →
      ∃ t, exec (.bra x n g o) s = .next t
        ∧ s.Divides t p 0 (fun _ => { code := 0 }) id (fun _ => p.base + 4 * o.signExtend 64))
  ∧ (∀ (s : State) (x : Exts) (a : BitVec 7) (p : Path) (bad : Word), s.Issues x (Exts.guard x) p →
      p.g.hasRegs (vuse (Exts.uniA x) a 1) = true →
      (∀ j, bad.getLsbD j = (p.L.getLsbD j && decide ((p.g.srcA x a j).toNat % 4 ≠ 0))) →
      ∃ t, exec (.bri x a) s = .next t
        ∧ s.Divides t p bad (fun _ => { code := 0x03, auxa := 4 }) id
            (fun j => (s.textOf p.g).1 + (p.g.srcA x a j).setWidth 64))

/-- CALL and CALLI push the offset of the next instruction on each lane's return stack and go to their targets, and a
lane whose depth is CALLMAX takes CALLDEPTH (R158).

The order of the checks of CALLI, and the record of its misaligned target, are log 24 and 25. -/
def Obligations.Calls : Prop :=
  ∀ (s : State) (x : Exts) (p : Path) (full : Word),
    (∀ j, full.getLsbD j = (p.L.getLsbD j && decide (s.callmax p.g ≤ (p.g.lane j).rets.length))) →
    let push := fun l : Lane => { l with rets := s.pcOff p.g p.next :: l.rets }
    let deep : SvcRecord := { code := 0x0F, auxa := BitVec.ofNat 64 (s.callmax p.g) }
    (∀ (n : BitVec 1) (g : BitVec 3) (o : BitVec 22), s.Issues x (n ++ g) p →
      ∃ t, exec (.call x n g o) s = .next t ∧ s.Divides t p full (fun _ => deep) push
        (fun _ => p.base + 4 * o.signExtend 64))
    ∧ (∀ a : BitVec 7, s.Issues x (Exts.guard x) p → p.g.hasRegs (vuse (Exts.uniA x) a 1) = true →
        (∀ j, j < 32 → p.L.getLsbD j = true → (p.g.srcA x a j).toNat % 4 = 0) →
        ∃ t, exec (.calli x a) s = .next t ∧ s.Divides t p full (fun _ => deep) push
          (fun j => (s.textOf p.g).1 + (p.g.srcA x a j).setWidth 64))

/-- RET pops each lane's return stack and continues at the text base plus the entry; a lane of depth 0 takes CALLDEPTH
(R159), and a lane whose entry stands where reading fails takes MEMERR (R160, R328; no reading here meets an error that
retrying mends).

Where the return area of a group stands in memory, and the record of its MEMERR, are log 12. -/
def Obligations.Returns : Prop :=
  (∀ d a b : BitVec 7, (decode [0x10000002 ||| (d.setWidth 32 <<< 19) ||| (a.setWidth 32 <<< 12)
      ||| (b.setWidth 32 <<< 5)]).toOption.isSome = decide (d = 0 ∧ a = 0 ∧ b = 0))
  ∧ ∀ (s : State) (x : Exts) (p : Path) (bad : Word), s.Issues x (Exts.guard x) p → (∀ e ∈ s.faulty, e.2 = 3) →
    let lost := fun j : Nat => ∃ u a, s.teamOf p.g = some u ∧ (a / 4096 ∈ s.retired ∨ (a / 32, 3) ∈ s.faulty)
      ∧ a = u.ctx.retBase + Config.returnArea u.id p.g.groupId + 128 * ((p.g.lane j).rets.length - 1) + 4 * j
    (∀ j, j < 32 → (bad.getLsbD j = true ↔ p.L.getLsbD j = true ∧ ((p.g.lane j).rets = [] ∨ lost j))) →
    ∃ t, exec (.ret x) s = .next t
      ∧ s.Divides t p bad (fun j => if (p.g.lane j).rets = []
            then { code := 0x0F, sub := 1, auxa := BitVec.ofNat 64 (s.callmax p.g) }
            else { code := 0x0B, sub := 1, kind := 1
                   auxa := BitVec.ofNat 64 (((s.retEntry p.g j).getD 0) / 32 * 32) })
          (fun l => { l with rets := l.rets.drop 1 })
          (fun j => (s.textOf p.g).1 + ((p.g.lane j).rets.headD 0).setWidth 64)

/-- LOOP and LOOPI write the counter once for the path with the count, the next instruction and the end (R163): a count
of 0 sends the lanes of L past the body, an empty body leaves a count of 0, and an empty L changes nothing.

The back-edge check (R164) of a group's three counters: with none active that ends at an address, lanes that complete
there go on; a counter that does is lowered by one, and the lanes go back to the start of its body while its count is not
then zero. Of several, the one with the later start comes first, of two with one start the one with the higher number, and
the next is lowered only when it is spent. -/
def Obligations.Loops : Prop :=
  (∀ (s : State) (x : Exts) (p : Path) (d a : BitVec 7) (imm : BitVec 12) (i : Instr) (n : Word),
      (i = .loop x d a imm ∧ n = (p.g.rs a.toNat).setWidth 32 ∨ i = .loopi x d a imm ∧ n = a.setWidth 32) →
      s.Issues x (Exts.guard x) p →
      let e := p.base + 4 * imm.setWidth 64
      let opened := fun c : Word =>
        { p.g with lc := upd p.g.lc d.toNat (fun _ => { count := c, start := p.next, stop := e }) }
      (p.L = 0 → ∃ t, exec i s = .next t ∧ s.Goes t p p.g)
      ∧ (p.L ≠ 0 → n ≠ 0 → e ≠ p.next → ∃ t, exec i s = .next t ∧ s.Goes t p (opened n))
      ∧ (p.L ≠ 0 → e = p.next → ∃ t, exec i s = .next t ∧ s.Goes t p (opened 0))
      ∧ (p.L ≠ 0 → n = 0 → e ≠ p.next → ∃ t, exec i s = .next t
          ∧ (s.modGroup p.core p.slot (fun _ => opened 0)).Divides t { p with g := opened 0 } 0 (fun _ => { code := 0 }) id
              (fun _ => e)))
  ∧ (∀ (g : Group) (e : DWord) (i j k : Nat), g.lc.length = 3 → i < 3 → j < 3 → k < 3 → i ≠ j → j ≠ k → i ≠ k →
      let c := fun n => g.lc.getD n {}
      let ends := fun n => (c n).count ≠ 0 ∧ (c n).stop = e
      let first := fun n m => (c m).start.toNat < (c n).start.toNat ∨ (c n).start = (c m).start ∧ m < n
      let lower := fun n (l : List LoopCounter) => upd l n (fun c => { c with count := c.count - 1 })
      (¬ends i → ¬ends j → ¬ends k → g.goesTo e = e ∧ g.loopsAt e = g.lc)
      ∧ (ends i → ¬ends j → ¬ends k →
          g.goesTo e = (if (c i).count = 1 then e else (c i).start) ∧ g.loopsAt e = lower i g.lc)
      ∧ (ends i → ends j → ¬ends k → first i j →
          ((c i).count ≠ 1 → g.goesTo e = (c i).start ∧ g.loopsAt e = lower i g.lc)
          ∧ ((c i).count = 1 → g.goesTo e = (if (c j).count = 1 then e else (c j).start)
              ∧ g.loopsAt e = lower j (lower i g.lc)))
      ∧ (ends i → ends j → ends k → first i j → first j k →
          ((c i).count ≠ 1 → g.goesTo e = (c i).start ∧ g.loopsAt e = lower i g.lc)
          ∧ ((c i).count = 1 → (c j).count ≠ 1 → g.goesTo e = (c j).start ∧ g.loopsAt e = lower j (lower i g.lc))
          ∧ ((c i).count = 1 → (c j).count = 1 → g.goesTo e = (if (c k).count = 1 then e else (c k).start)
              ∧ g.loopsAt e = lower k (lower j (lower i g.lc)))))

/-- EXIT moves every lane of L to EXIT, and a group whose last live lane exits retires: its slot is free and its
allocation enters the team's pool (R60, R161). The group notes the lanes that have ended in this opportunity, whose registers
read as zero from the next on.

CJOIN parks each lane of L with the register it names and the mask read from it (R52, R167); the lanes leave together
when every lane of the mask stands at a CJOIN on that register, has exited or never ran, and then complete their CJOIN, but not while their core has stopped for their context (R61).

A step that cannot happen in a state answers that state (next state equal to the state): that is the model's form
and no rule (log 6). -/
def Obligations.ExitsAndJoins : Prop :=
  (∀ (s : State) (x : Exts) (p : Path), s.Issues x (Exts.guard x) p →
      let last := p.L ≠ 0 ∧ p.g.keeper = false ∧ p.off = 0 ∧ ∀ j, j < 32 → p.L.getLsbD j = false → (p.g.lane j).live = false
      (¬last → ∃ t, exec (.exit x) s = .next t ∧ 
          s.Parks t { p with g := { p.g with ended := p.g.ended ||| p.L } } (fun _ l => { l with st := .exit, svc := none }))
      ∧ (last → ∃ t, exec (.exit x) s = .next t ∧ t.group? p.core p.slot = none ∧ s.OthersKept t p.core p.slot
          ∧ t.mem = s.mem ∧ t.writes = s.writes
          ∧ ∀ id tm, p.g.team = some id → s.team? id = some tm → ∃ tm', t.team? id = some tm'
              ∧ tm'.pool = tm.pool + p.g.alloc ∧ { tm' with pool := tm.pool, claims := tm.claims } = tm))
  ∧ ((∀ (s : State) (x : Exts) (p : Path) (a : BitVec 7), s.Issues x (Exts.guard x) p →
      ∃ t, exec (.cjoin x a) s = .next t ∧ s.Parks t p (fun _ l =>
        { l with st := .park (.join a.toNat ((p.g.rs a.toNat).setWidth 32)), after := p.next, issue := p.L }))
    ∧ ∀ (s : State) (core slot : Nat) (g : Group) (m : Word) (e : DWord), s.group? core slot = some g →
      g.lanes.length = 32 → ¬(slot < 15 ∧ (s.coreBlock core).stepMask.getLsbD slot = true) →
      (∀ j, j < 32 → (m.getLsbD j = true ↔ ∃ r k, (g.lane j).st = .park (.join r k) ∧
        ∀ i, i < 32 → k.getLsbD i = true →
          (∃ k', (g.lane i).st = .park (.join r k')) ∨ (g.lane i).st = .exit ∨ (g.lane i).st = .none)) →
      (m = 0 ∨ s.isStopped g = true → exec (.joinRelease core slot) s = .next s)
      ∧ (m ≠ 0 → s.isStopped g = false → (∀ j, j < 32 → m.getLsbD j = true → (g.lane j).after = e) →
          ∃ t, exec (.joinRelease core slot) s = .next t ∧ s.Resumes t core slot m e g))

/-! ## Memory instructions as a group issues them -/

/-- The checks of R248 in their order: the address range (R204), the alignment, the window's presence (R210), the right of
the page and its translation (R319 to R321); then the access itself, of which an ATOM or RED.M in a transaction is one that
fails (R245), and only then the reading (R328).

Where every lane of L fails its check, LD, ST, ATOM and RED.M trap in each lane and do nothing else; where every lane
finds its window line absent, LD parks each at its PC (R43, R210, R248, R304; log 29).

That a load without its lines parks at its PC and runs again is log 29. -/
def Obligations.MemoryChecks : Prop :=
  (∀ (s : State) (p : Path) (t : Team) (va : DWord) (n al : Nat) (acc : Access) (parks store : Bool),
      s.teamOf p.g = some t → s.team? t.id = some t → 0 < n → n ≤ 16 → 0 < al →
      let w := 0x01F0000000000000
      let chk := s.check p va n al acc parks store
      (2 ^ 57 ≤ va.toNat → chk = .trap { code := 0x05, sub := 1, kind := acc.kind, addr := va })
      ∧ (w ≤ va.toNat → va.toNat < w + 0x1000000 → w + 65536 * t.granules < va.toNat + n →
          chk = .trap { code := 0x05, sub := 1, kind := acc.kind, addr := va })
      ∧ (va.toNat + n ≤ w → va.toNat % al ≠ 0 →
          chk = .trap { code := 0x03, kind := acc.kind, addr := va, auxa := BitVec.ofNat 64 al })
      ∧ (w ≤ va.toNat → va.toNat < w + 0x1000000 → va.toNat + n ≤ w + 65536 * t.granules → va.toNat % al = 0 →
          let off := va.toNat - w
          ((∀ x ∈ t.absent, x.line < off / 128 ∨ (off + n - 1) / 128 < x.line) →
              chk = .go { space := .scratch t.id, addr := off })
          ∧ ((∃ x ∈ t.absent, x.line = off / 128) → (∀ x ∈ t.absent, x.left = false) → parks = true →
              ∃ l, chk = .park l ∧ (t.id, off / 128) ∈ l ∧ ∀ e ∈ l, ∃ x ∈ t.absent, e = (t.id, x.line)))
      ∧ (∀ l, va.toNat + n ≤ w → va.toNat % al = 0 → s.tlbHit p.core t.ctx.ctxid va = some l →
          let e := l.pte.toNat
          let a := bits e 38 12 * 4096 + va.toNat % 2 ^ l.log
          ((acc.r = true ∧ bitN e 59 = false ∨ acc.w = true ∧ bitN e 58 = false ∨ acc.x = true ∧ bitN e 57 = false) →
            chk = .trap { code := 0x05, kind := acc.kind, addr := va, auxa := l.pte })
          ∧ ((acc.r = true → bitN e 59 = true) → (acc.w = true → bitN e 58 = true) → (acc.x = true → bitN e 57 = true) →
              bitN e 55 = false → s.backed a = true → chk = .go { space := .mem, addr := a, cameo := bitN e 56 }))
      ∧ (w ≤ va.toNat → va.toNat < w + 0x1000000 → va.toNat + n ≤ w + 65536 * t.granules → va.toNat % al ≠ 0 →
          chk = .trap { code := 0x03, kind := acc.kind, addr := va, auxa := BitVec.ofNat 64 al })
      ∧ (∀ r, s.lastCheck acc va (.trap r) = .trap r)
      ∧ (∀ pl, pl.space = .mem →
          let fails : Prop := if acc.r = true then s.retiredAt pl.addr = true ∨ (pl.addr / 32, 3) ∈ s.faulty
            else s.retiredAt pl.addr = true
          (fails → s.lastCheck acc va (.go pl) = .trap
              { code := 0x0B, kind := acc.kind, addr := va, auxa := BitVec.ofNat 64 (pl.addr / 32 * 32) })
            ∧ (¬fails → s.lastCheck acc va (.go pl) = .go pl))
      ∧ ∀ pl red, p.g.txn.isSome = true → s.check p va 4 4 acc true false = .go pl →
          s.checkRmw p va acc red = .trap { code := 0x0D, kind := acc.kind ||| 0x10, addr := va })
  ∧ (∀ (s : State) (x : Exts) (p : Path) (d a : BitVec 7) (imm : BitVec 12),
      s.Issues x (Exts.guard x) p → p.L ≠ 0 → s.acquiring p.core p.slot = false →
      let n := widthBytes (Exts.width x)
      let regs := addrRegs x a ++ vuse false d (widthRegs (Exts.width x))
      let va := p.g.address x a (memOff x imm)
      let each := fun chk : Nat → Checked => fun r : Nat → SvcRecord =>
        ∀ j, j < 32 → p.L.getLsbD j = true → chk j = .trap (r j)
      (∀ r, p.g.hasRegs regs = true → each (fun j => s.checkLoad x p (va j) n) r →
          ∃ t, exec (.ld x d a imm) s = .next t ∧ s.Divides t p p.L r id (fun _ => 0))
      ∧ (∀ r, p.g.hasRegs regs = true → each (fun j => s.checkStore p (va j) n (decide (Exts.kind x ≠ 1))) r →
          ∃ t, exec (.st x d a imm) s = .next t ∧ s.Divides t p p.L r id (fun _ => 0))
      ∧ (∀ i b op dest n r, rmwMeaning i = some (x, a, b, op, dest, n) →
          p.g.hasRegs (addrRegs x a ++ vuse false b 1 ++ (match dest with | some d => vuse false d n | none => [])) = true →
          each (fun j => s.checkRmw p (p.g.address x a 0 j) (if dest.isSome then .rmw else .store) dest.isNone) r →
          ∃ t, exec i s = .next t ∧ s.Divides t p p.L r id (fun _ => 0))
      ∧ (∀ ls : Nat → List (Nat × Nat), p.g.hasRegs regs = true →
          (∀ j, j < 32 → p.L.getLsbD j = true → s.checkLoad x p (va j) n = .park (ls j)) →
          ∃ t, exec (.ld x d a imm) s = .next t ∧ s.Parks t p (fun j l =>
            { l with st := .park (.presence (ls j)), after := p.next, issue := maskOf (· = j) })))

/-- LD (R85, R250): the address is the uniform register, the 64-bit pair, or the zero-extended register with the uniform
register C added, each plus the offset; where the checks pass and no sector is about to fail (log 61), the load of every lane of L
is under way (log 11), with the bytes already read only for a cameo line at a snapshot, which the arbiters must let be read
(R218), or a peer's window, and the path goes on.

That a load stands in a list until its step returns its data is the model's form (log 11); when cameo lines and
windows of peers are read is log 30. -/
def Obligations.LoadsIssue : Prop :=
  ∀ (s : State) (x : Exts) (p : Path) (d a : BitVec 7) (imm : BitVec 12) (pl : Nat → Place),
    let n := widthBytes (Exts.width x)
    let va := p.g.address x a (memOff x imm)
    (Exts.uniA x = true → ∀ j, va j = p.g.rs a.toNat + memOff x imm)
    ∧ (Exts.uniA x = false → Exts.uniB x = true → ∀ j, va j = p.g.srcP false (Exts.fa x) a j + memOff x imm)
    ∧ (Exts.uniA x = false → Exts.uniB x = false → ∀ j, va j =
        (p.g.srcV false (Exts.fa x) a j).setWidth 64 + memOff x imm
          + (if Exts.uniC x = true then p.g.rs (Exts.c x).toNat else 0))
    ∧ (s.Issues x (Exts.guard x) p → p.L ≠ 0 →
        p.g.hasRegs (addrRegs x a ++ vuse false d (widthRegs (Exts.width x))) = true →
        s.acquiring p.core p.slot = false → s.WordsAligned → s.faulty = [] →
        (∀ j, j < 32 → p.L.getLsbD j = true → s.checkLoad x p (va j) n = .go (pl j)) →
        ((∃ j, j < 32 ∧ p.L.getLsbD j = true ∧ p.g.peerPlace (pl j) = true) →
          s.canReadNow p ((lanesOf p.L).map (fun j => (j, pl j))) = true) →
        (let snaps := snapPlaces (if Exts.kind x = 2 then some (p.g.rs (Exts.c x).toNat) else p.g.txnSnap.map Txn.snap)
            ((lanesOf p.L).map (fun j => (j, pl j)));
          (∀ e ∈ snaps, s.hidden p.core p.slot .mem (e.2.addr / 128) = false)
            ∧ s.issueServed p.core p.slot (memLines snaps) = true) →
        ∃ (u t : State) (h : Group) (l : PendingLoad), exec (.ld x d a imm) s = .next t ∧ u.Goes t p h
          ∧ { h with saw := p.g.saw, asked := p.g.asked } = p.g ∧ u.loads = s.loads ++ [l] ∧ u.writes = s.writes ∧ u.teams = s.teams
          ∧ s.OthersKept u p.core p.slot
          ∧ (s.upartials = [] ∨ (∀ j, j < 32 → p.L.getLsbD j = true → p.g.peerPlace (pl j) = false) →
              ∀ b, u.view .mem b = s.view .mem b)
          ∧ l.id = s.nextId ∧ l.core = p.core ∧ l.slot = p.slot ∧ l.tag = s.cur.tag ∧ l.bytes = n ∧ l.width = Exts.width x
          ∧ l.dest = p.g.wbase + d.toNat ∧ l.acq = decide (Exts.ord x = 1) ∧ l.after = p.next ∧ l.pc = s.cur.pc
          ∧ l.lanes.map (fun y => (y.lane, y.va, y.space, y.addr))
              = (lanesOf p.L).map (fun j => (j, va j, (pl j).space, (pl j).addr))
          ∧ ((∀ j, j < 32 → p.L.getLsbD j = true → p.g.peerPlace (pl j) = false) → { h with asked := p.g.asked } = p.g
              ∧ l.sampled = false
              ∧ l.ordered = false ∧ l.homed = false ∧ ∀ y ∈ l.lanes,
                  ((pl y.lane).cameo = false ∨ (pl y.lane).space ≠ .mem ∨ (Exts.kind x ≠ 2 ∧ p.g.txnSnap = none) →
                    y.data = [])
                  ∧ ((pl y.lane).cameo = true → (pl y.lane).space = .mem → Exts.kind x = 2 →
                    y.data = s.readAt (p.g.rs (Exts.c x).toNat) p.g.buffered y.addr n)))

/-- ST outside a transaction (R231, R234, R251): the bytes of D of every lane of L, low register first, are on their way as
one write for each line (log 11), the highest lane's last, with the release order of ORD and SCOPE, or of a fence that the group
has made before, and the slack tag of the issue (R218); no byte of memory has changed yet, and the walks for its addresses are
made.

That stores stand in a list of writes until their homes apply them is the model's form (log 11). -/
def Obligations.StoresIssue : Prop :=
  ∀ (s : State) (x : Exts) (p : Path) (d a : BitVec 7) (imm : BitVec 12) (pl : Nat → Place),
    let n := widthBytes (Exts.width x)
    let va := p.g.address x a (memOff x imm)
    s.Issues x (Exts.guard x) p → p.g.hasRegs (addrRegs x a ++ vuse false d (widthRegs (Exts.width x))) = true →
    s.acquiring p.core p.slot = false → p.g.txn = none →
    (∀ j, j < 32 → p.L.getLsbD j = true → s.checkStore p (va j) n (decide (Exts.kind x ≠ 1)) = .go (pl j)) →
    ∃ (ws : List Write) (k : Nat) (t : State), exec (.st x d a imm) s = .next t
      ∧ ({ s.walkLanes p (lanesOf p.L) n va with writes := s.writes ++ ws, nextId := s.nextId + k } : State).Goes t p p.g
      ∧ ws.map Write.id = (List.range k).map (s.nextId + ·)
      ∧ (ws.map (fun w => (w.space, w.line))).Nodup
      ∧ (∀ w ∈ ws, w.core = p.core ∧ w.slot = p.slot ∧ w.team = p.g.team ∧ w.ctx = s.ctxOf p.g ∧ w.entered = false
          ∧ w.held = false ∧ w.tag = s.cur.tag ∧ w.kind.isStore = true ∧ (∀ c ∈ w.kind.cells, c.1 / 128 = w.line)
          ∧ (let scope := max (if Exts.ord x = 2 ∨ Exts.ord x = 3 then Exts.scope x else 0) p.g.relScope
            w.rel = { scope := scope, first := s.nextId, deps := if 2 ≤ scope then s.outstanding p.core p.slot else [] }))
      ∧ ∀ sp b v, overlay ws sp b v = (lanesOf p.L).foldl (fun v j =>
          if (pl j).space = sp ∧ (pl j).addr ≤ b ∧ b < (pl j).addr + n then
            (p.g.rv (p.g.wbase + d.toNat + (b - (pl j).addr) / 4) j).extractLsb' (8 * ((b - (pl j).addr) % 4)) 8
          else v) v

/-- ATOM and RED.M (R233, R234, R252, R253): where every lane of L passes its checks on memory or on its own window (a peer's
window its owning core decides at issue, log 30), one request for each line stands on its way (log 11) and holds the lanes of that line in ascending order, with b and, of an ATOM, its destination as d; an
ATOM's old values go to a load under way, and a RED.M has none.

That requests stand in a list until a step of their own applies them is the model's form (log 11); windows of peers
are log 30. -/
def Obligations.AtomicsIssue : Prop :=
  ∀ (s : State) (i : Instr) (x : Exts) (a b : BitVec 7) (op : AtomOp) (dest : Option (BitVec 7)) (regs : Nat) (p : Path)
    (pl : Nat → Place),
    rmwMeaning i = some (x, a, b, op, dest, regs) → s.Issues x (Exts.guard x) p →
    p.g.hasRegs (addrRegs x a ++ vuse false b 1 ++ (match dest with | some d => vuse false d regs | none => [])) = true →
    s.acquiring p.core p.slot = false → p.L ≠ 0 →
    (∀ j, j < 32 → p.L.getLsbD j = true → p.g.peerPlace (pl j) = false
      ∧ s.checkRmw p (p.g.address x a 0 j) (if dest.isSome then .rmw else .store) dest.isNone = .go (pl j)) →
    ∃ (ws : List Write) (ls : List PendingLoad) (k : Nat) (t : State), exec i s = .next t
      ∧ ({ s.walkLanes p (lanesOf p.L) 4 (p.g.address x a 0) with
          writes := s.writes ++ ws, loads := s.loads ++ ls, nextId := k } : State).Goes t p p.g
      ∧ (∀ w ∈ ws, w.core = p.core ∧ w.slot = p.slot ∧ w.entered = false ∧ w.held = false
          ∧ w.rel = s.releaseOf p.core p.slot (Exts.ord x) (Exts.scope x) ∧ ∃ l, w.kind.ops = some (op, l)
          ∧ l.Pairwise (fun y z => y.lane < z.lane)
          ∧ ∀ y ∈ l, y.lane < 32 ∧ p.L.getLsbD y.lane = true ∧ y.addr = (pl y.lane).addr ∧ w.space = (pl y.lane).space
              ∧ w.line = y.addr / 128 ∧ y.b = p.g.srcV false (Exts.fb x) b y.lane
              ∧ y.d = match dest with | some d => p.g.rv (p.g.wbase + d.toNat) y.lane | none => 0)
      ∧ (∀ j, j < 32 → p.L.getLsbD j = true → ∃ w ∈ ws, ∃ l, w.kind.ops = some (op, l) ∧ ∃ y ∈ l, y.lane = j)
      ∧ (ws.map (fun w => (w.space, w.line))).Nodup
      ∧ (dest = none → ls = [] ∧ ∀ w ∈ ws, ∃ l, w.kind = .reduce op l)
      ∧ (∀ d, dest = some d → ∃ l, ls = [l] ∧ l.id = s.nextId ∧ l.atom = true ∧ l.sampled = false ∧ l.bytes = 4 * regs
          ∧ l.dest = p.g.wbase + d.toNat ∧ l.lanes.map LoadLane.lane = lanesOf p.L
          ∧ ∀ w ∈ ws, ∃ o, w.kind = .atom op o l.id)

/-- MWAIT (R254): a lane whose word does not meet the condition completes; one whose word does parks with a watch on it; and
the write that makes the condition false ends the watch, after which the lane completes its MWAIT, lane by lane (log 62), once
its group may see that write (R228). The arbiters let the check be made (R218).

The fences (R232, R235, R255, R258): each completes when the group's loads have returned and, but for FENCE.ACQ, its
writes have been acknowledged and shown to its core (R228) and those it has seen performed; within TEAM scope it is enough that every group of its core
sees its writes (log 31). FENCE.ENGINE waits for the reads of its jobs too, and FENCE.CODE for nothing. Until then it does
not issue. After a FENCE.REL or FENCE.SC the group's later writes are releases at its scope (R231). An acquire makes loads of the core that have read ahead of their turn read again, and FENCE.CODE discards what
the group has fetched ahead (log 11, 16).

A step that cannot happen in a state answers that state (next state equal to the state): that is the model's form
and no rule (log 6). -/
def Obligations.WatchesAndFencesWait : Prop :=
  ((∀ (s : State) (x : Exts) (p : Path) (a b : BitVec 7) (pl : Nat → Place),
      s.Issues x (Exts.guard x) p → p.L ≠ 0 → p.g.hasRegs (addrRegs x a ++ vuse false b 1) = true →
      s.acquiring p.core p.slot = false → s.noneVisible p ((lanesOf p.L).map (fun j => (j, pl j))) = true →
      s.WordsAligned → s.faulty = [] →
      (∀ j, j < 32 → p.L.getLsbD j = true →
        s.checkWait p (p.g.address x a 0 j) = .go (pl j) ∧ (pl j).addr % 4 = 0) →
      s.issueServed p.core p.slot (memLines ((lanesOf p.L).map (fun j => (j, pl j)))) = true →
      let q : Path := { p with g := { p.g with asked := none } }
      let groups := (s.answered p.core p.slot).groups
      let word := fun j => leNat ((List.range 4).map (fun k => s.view (pl j).space ((pl j).addr + k)))
      let waits := fun j => (word j = (p.g.srcV false (Exts.fb x) b j).toNat) ↔ (Exts.fam x).getLsbD 5 = false
      ((∀ j, j < 32 → p.L.getLsbD j = true → ¬waits j) →
        ∃ (u t : State), exec (.mwait x a b) s = .next t ∧ u.Goes t q q.g ∧ u.groups = groups ∧ u.watches = s.watches
          ∧ u.writes = s.writes ∧ ∀ c, u.view .mem c = s.view .mem c)
      ∧ ((∀ j, j < 32 → p.L.getLsbD j = true → waits j) →
        ∃ (u t : State), exec (.mwait x a b) s = .next t ∧ u.groups = groups ∧ (∀ c, u.view .mem c = s.view .mem c)
          ∧ u.Parks t q (fun _ l => { l with st := .park (.memWait .watch), after := p.next, issue := p.L })
          ∧ ∀ j, j < 32 → p.L.getLsbD j = true → ∃ w ∈ u.watches, w.core = p.core ∧ w.slot = p.slot ∧ w.lane = j
              ∧ w.space = (pl j).space ∧ w.addr = (pl j).addr ∧ w.b = p.g.srcV false (Exts.fb x) b j
              ∧ w.ne = (Exts.fam x).getLsbD 5))
    ∧ (∀ (s : State) (w : Watch), w ∈ s.watches →
        ((s.num w.space w.addr 4 = w.b.toNat) ↔ w.ne = true) → { w with fired := true } ∈ s.fire.watches)
    ∧ ∀ (s : State) (core slot lane : Nat) (g : Group) (w : Watch), s.group? core slot = some g → g.lanes.length = 32 →
        lane < 32 → (g.lane lane).st = .park (.memWait .watch) →
        ¬(slot < 15 ∧ (s.coreBlock core).stepMask.getLsbD slot = true) → s.isStopped g = false →
        s.watches.find? (fun w => w.core = core && w.slot = slot && w.lane = lane) = some w → w.fired = true →
        s.hidden core slot w.space (w.addr / 128) = false →
        let u : State := { s with watches := s.watches.filter (fun w => !(w.core = core && w.slot = slot && w.lane = lane)) }
        ∃ t, exec (.mwaitWake core slot lane) s = .next t
          ∧ (if w.acq = true then u.dropEarly core (fun _ => true) else u).Resumes
              t core slot (maskOf (· = lane)) (g.lane lane).after g)
  ∧ (∀ (s : State) (x : Exts) (c : BitVec 3) (p : Path), s.Issues x (Exts.guard x) p →
      let loads := ∀ l ∈ s.loads, l.core = p.core → l.slot ≠ p.slot
      let wide := (∀ w ∈ s.writes, (w.core = p.core → w.slot ≠ p.slot) ∧ w.id ∉ p.g.saw)
        ∧ ∀ k ∈ s.acks, k.core = p.core → k.slot ≠ p.slot
      let shown := ∀ e ∈ s.early, e.core = p.core → e.slot = p.slot → ∀ v ∈ s.writes, v.id ∉ e.before
      let near := ∀ w ∈ s.writes, w.core = p.core → w.slot = p.slot → w.entered = true ∧ w.space.isScratch = false
        ∧ ∀ v ∈ s.writes.takeWhile (fun v => v.id ≠ w.id), v.entered = true → v.core = w.core → v.space.isScratch = false
      let writes := shown ∧ (2 ≤ c.toNat → wide) ∧ (c.toNat < 2 → near)
      let reads := ∀ j ∈ s.jobs, j.core = p.core → j.slot = p.slot → j.readsDone = true
      let ok := fun (i : Instr) (u : State) (h : Group) (ready : Prop) =>
        ((p.L = 0 ∨ ready) → ∃ t, exec i s = .next t ∧ (if p.L = 0 then s else u).Goes t p (if p.L = 0 then p.g else h))
          ∧ (p.L ≠ 0 → ¬ready → exec i s = .next s)
      let released : Group := { p.g with relScope := max p.g.relScope c.toNat }
      let acquired := s.dropEarly p.core (fun _ => true)
      ok (.fenceAcq x c) acquired p.g loads ∧ ok (.fenceRel x c) s released (loads ∧ writes)
        ∧ ok (.fenceSc x c) acquired released (loads ∧ writes)
        ∧ ok (.fenceEngine x) s p.g (loads ∧ shown ∧ wide ∧ reads)
        ∧ ok (.fenceCode x) (s.modCore p.core (fun b => { b with text := b.text.filter (fun k => k.ahead ≠ some p.slot) })) p.g
            True)

/-- Cache control and HPROBE change no byte that any reader finds (R256, R257): ICINV, DCFLUSH, DCINV and PREF complete;
ICINV, once the group's stores to its lines are acknowledged, leaves no fetched copy of them but what its own group has
fetched ahead (R258, log 16), and DCFLUSH no partial of the lines it names and no copy in the core's L1 (of a DCINV and of a
PREF, that no byte changes is said where no partial is collected: they may send one home before the others of its line, log
60). HPROBE reads the entries of four buckets from the hash on, four to a bucket, as its group sees them, up to the first
VALID one with its BLOCK and OBJECT; it writes that entry's SLOT, or 0xFFFFFFFE while it is being filled, and 0xFFFFFFFF
where none matches; a later release waits for every write of another group that it has seen (R231).

When ICINV invalidates is log 31. -/
def Obligations.CacheOperations : Prop :=
  ∀ (s : State) (x : Exts) (p : Path) (a : BitVec 7), s.Issues x (Exts.guard x) p → s.WordsAligned →
    (∀ i, (i = .icinv x a
          ∧ (∀ w ∈ s.writes, w.core = p.core → w.slot = p.slot → (w.space, w.line) ∉ s.icLines x p a)
          ∧ (∀ k ∈ s.acks, k.core = p.core → k.slot = p.slot → (k.space, k.line) ∉ s.icLines x p a)
        ∨ i = .dcflush x a ∨ i = .dcinv x a ∨ i = .pref x a) →
      p.g.hasRegs (addrRegs x a) = true → s.faulty = [] →
      ∃ (u t : State), exec i s = .next t ∧ u.Goes t p p.g ∧ u.groups = s.groups ∧ u.writes = s.writes
        ∧ ((i = .dcinv x a ∨ i = .pref x a → s.upartials = []) → ∀ b, u.view .mem b = s.view .mem b)
        ∧ (i = .icinv x a → ∀ c, ∀ k ∈ (u.coreBlock c).text, (k.space, k.line) ∈ s.icLines x p a →
            c = p.core ∧ k.ahead = some p.slot)
        ∧ (i = .dcflush x a → ∀ n ∈ s.cacheLines x p a, (∀ c ∈ u.l1, c.l1 = s.l1Of p.core → c.line ≠ n)
            ∧ ∀ k ∈ u.upartials, k.addr / 128 ≠ n))
    ∧ ∀ (d b : BitVec 7) (v : Nat → Word) (read : Nat → Nat) (pl : Nat → Nat → Place), p.L ≠ 0 → s.faulty = [] →
      p.g.hasRegs (vuse (Exts.uniA x) a 2 ++ vuse (Exts.uniB x) b 1 ++ vuse false d 1) = true →
      let w0 := (s.pcDesc p.g).1
      let nb := bits w0.toNat 4 0
      (p.g.keeper = true ∨ bitN w0.toNat 5 = true) → 4 ≤ nb → nb ≤ 28 →
      s.acquiring p.core p.slot = false →
      let places := (dedup ((lanesOf p.L).flatMap (fun j => (List.range (read j)).map (pl j)))).map (fun y => (0, y))
      s.canReadNow p places = true → s.issueServed p.core p.slot (memLines places) = true →
      let block := fun (j : Nat) => p.g.srcA2 x a j
      let object := fun (j : Nat) => p.g.srcB x b j
      let hash := fun (j : Nat) => ((block j).toNat % 2 ^ 32 ^^^ (block j).toNat / 2 ^ 32
        ^^^ (object j).toNat * 0x9E3779B1 % 2 ^ 32) % 2 ^ nb
      let table := w0 &&& 0x01FFFFFFFFFFFFC0
      let ws := s.visible p.core p.slot s.nextId
      let byte := fun (j k i : Nat) => overlay ws (pl j k).space ((pl j k).addr + i) (s.view (pl j k).space ((pl j k).addr + i))
      let num := fun (j k i n : Nat) => leNat ((List.range n).map (fun m => byte j k (i + m)))
      let hit := fun (j k : Nat) => bitN (num j k 12 4) 31 = true ∧ num j k 0 8 = (block j).toNat ∧ num j k 8 4 = (object j).toNat
      (∀ j, j < 32 → p.L.getLsbD j = true → 1 ≤ read j ∧ read j ≤ 16
        ∧ (∀ k, k < read j →
            let va := table + BitVec.ofNat 64 (64 * ((hash j + k / 4) % 2 ^ nb) + 16 * (k % 4))
            s.lastCheck .load va (s.check p va 16 16 .load true false) = .go (pl j k))
        ∧ (∀ k, k + 1 < read j → ¬hit j k)
        ∧ (hit j (read j - 1) ∧ (v j).toNat = (if bitN (num j (read j - 1) 12 4) 30 = true then 0xFFFFFFFE
              else num j (read j - 1) 12 4 % 2 ^ 30)
          ∨ ¬hit j (read j - 1) ∧ read j = 16 ∧ v j = 0xFFFFFFFF)) →
      ∃ (u t : State) (h : Group) (saw : List Nat), exec (.hprobe x d a b) s = .next t ∧ u.Goes t p h
        ∧ u.groups = (s.answered p.core p.slot).groups ∧ u.writes = s.writes
        ∧ (∀ b, u.view .mem b = s.view .mem b)
        ∧ ({ p.g with asked := none } : Group).Took h p.L { p.g.inV d v with other := fun g => { g with saw := saw } } ∧ (∀ i ∈ p.g.saw, i ∈ saw)
        ∧ ∀ j k, j < 32 → p.L.getLsbD j = true → k < read j → ∀ w ∈ ws, w.slot ≠ p.slot → w.space = (pl j k).space →
            w.line = (pl j k).addr / 128 → w.id ∈ saw

/-- SNAP, SNREL, TXB and TXA (R239, R244): SNAP and TXB take the clock as the number of a new snapshot and raise it, or
give 0 with a full registry, when TXB opens a doomed transaction; a second TXB takes TXNEST (log 32) and a ninth parks;
SNREL and TXA release, but for what a checkpoint took (R376). TXB is an acquire for its core's loads (R244).

A store in a transaction is buffered where its line is cameo, in a line of its core's L1, which makes room for it (R213,
R222, R245), and TXC answers (R246): 0 without a transaction,
when it is doomed, or when a line it wrote has a stamp after its snapshot; otherwise, where the version store has room, the
version of every line that a live snapshot still reads, its own among them, is preserved, the buffered bytes stand in
memory, their lines stamped with the raised clock, and it answers 1. Either way the transaction is closed. Where a version
is needed, the full condition raises VERSFULL, and a store without room makes TXC wait (R243, log 32). A commit waits for every
write that stands before it in its core's order (R231), and for the arbiters (R218).

A step that cannot happen in a state answers that state (next state equal to the state): that is the model's form
and no rule (log 6). -/
def Obligations.SnapshotsAndTransactions : Prop :=
  (∀ (s : State) (x : Exts) (p : Path), s.Issues x (Exts.guard x) p → p.L ≠ 0 →
      let taken : State := if 4096 ≤ s.snaps.length then s else
        { s with clock := s.clock + 1, snaps := s.snaps ++ [{ num := s.clock, ctx := s.ctxOf p.g }] }
      let num : DWord := if 4096 ≤ s.snaps.length then 0 else s.clock
      let without := fun n : DWord => ({ s with snaps := s.snaps.filter (fun y =>
        y.ckpt || !(y.num = n && y.ctx = s.ctxOf p.g)) } : State)
      (∀ d, ∃ t h, exec (.snap x d) s = .next t ∧ taken.Goes t p h ∧ p.g.Took h p.L (inS d num))
      ∧ (∀ a, ∃ t, exec (.snrel x a) s = .next t ∧ (without (p.g.rs a.toNat)).Goes t p p.g)
      ∧ (∀ d, (p.g.txn.isSome = true → ∃ t, exec (.txb x d) s = .next t ∧ s.PathTraps t p { code := 0x0D, kind := 0x10 })
        ∧ (p.g.txn = none → (∀ w ∈ s.writes, w.core = p.core → w.slot ≠ p.slot) →
            (8 ≤ s.openTxns p.core → ∃ t, exec (.txb x d) s = .next t ∧ s.Parks t p (fun _ l =>
              { l with st := .park (.memWait .txn), after := p.next, issue := p.L }))
            ∧ (s.openTxns p.core < 8 → s.clock ≠ 0 → ∃ t h, exec (.txb x d) s = .next t
              ∧ (taken.dropEarly p.core (fun _ => true)).Goes t p h ∧ p.g.Took h p.L { inS d num with other := fun g =>
                  { g with txn := some { snap := num, doomed := decide (4096 ≤ s.snaps.length) } } })))
      ∧ (∃ t, exec (.txa x) s = .next t ∧ (match p.g.txn with
          | none => s.Goes t p p.g
          | some y => (without y.snap).Goes t p { p.g with txn := none })))
  ∧ (∀ (s : State) (x : Exts) (p : Path), s.Issues x (Exts.guard x) p → p.L ≠ 0 →
      (∀ (d a : BitVec 7) (imm : BitVec 12) (pl : Nat → Place) (y : Txn), p.g.txn = some y →
        p.g.hasRegs (addrRegs x a ++ vuse false d (widthRegs (Exts.width x))) = true → s.acquiring p.core p.slot = false →
        (∀ j, j < 32 → p.L.getLsbD j = true → (pl j).cameo = true ∧ (pl j).space = .mem
          ∧ s.checkStore p (p.g.address x a (memOff x imm) j) (widthBytes (Exts.width x)) (decide (Exts.kind x ≠ 1)) = .go (pl j)) →
        let y' := y.write ((lanesOf p.L).flatMap (fun j =>
          number (pl j).addr (p.g.storeBytes d (widthBytes (Exts.width x)) j)))
        let l1 := s.l1Of p.core
        ∃ u t, exec (.st x d a imm) s = .next t ∧ u.Goes t p { p.g with txn := some y' } ∧ u.groups = s.groups
          ∧ u.writes = s.writes
          ∧ (y.doomed = true ∨ y'.doomed = true ∨ s.l1Used l1 + (y'.lines.length - y.lines.length) ≤ s.l1Lines l1 →
              u = s.walkLanes p (lanesOf p.L) (widthBytes (Exts.width x)) (p.g.address x a (memOff x imm)))
          ∧ (s.upartials = [] → s.faulty = [] → ∀ b, u.view .mem b = s.view .mem b))
      ∧ (∀ (y : Txn) (a : Nat) (v : Byte), y.doomed = false →
          ((y.write [(a, v)]).doomed = true ↔ y.lines.length = 64 ∧ a / 128 ∉ y.lines ∨ 64 < y.lines.length)
            ∧ ((y.write [(a, v)]).doomed = true → (y.write [(a, v)]).bytes = [])
            ∧ ((y.write [(a, v)]).doomed = false → (a, v) ∈ (y.write [(a, v)]).bytes
                ∧ ∀ e, e ∈ (y.write [(a, v)]).bytes ↔ e = (a, v) ∨ e ∈ y.bytes ∧ e.1 ≠ a))
      ∧ (∀ d : BitVec 7,
          let no := inPred d (fun _ => false)
          let g0 : Group := { p.g with asked := none }
          (p.g.txn = none → ∃ t h, exec (.txc x d) s = .next t ∧ s.Goes t p h ∧ g0.Took h p.L no)
          ∧ (∀ y, p.g.txn = some y →
              (y.doomed = true ∨ (s.fenceReady p.core p.slot 1 3 = true ∧ (∀ n ∈ y.lines, s.lateLoad p.core .mem n = false ∧ s.heldAt n = false)
                ∧ s.issueServed p.core p.slot y.lines = true ∧ ∃ n ∈ y.lines, y.snap < s.stamp n)) →
              ∃ t h, exec (.txc x d) s = .next t
                ∧ ({ s with snaps := s.snaps.filter (fun z =>
                    z.ckpt || !(z.num = y.snap && z.ctx = s.ctxOf p.g)) } : State).Goes t p h
                ∧ g0.Took h p.L { no with other := fun g => { g with txn := none } })
          ∧ (∀ y, p.g.txn = some y → y.doomed = false → s.fenceReady p.core p.slot 1 3 = true → s.WordsAligned →
              (y.bytes.map Prod.fst).Nodup → (∀ n ∈ y.lines, s.stamp n ≤ y.snap ∧ s.lateLoad p.core .mem n = false ∧ s.heldAt n = false) →
              s.issueServed p.core p.slot y.lines = true →
              let ctx := s.ctxOf p.g
              let kept := y.lines.filter (s.mustPreserve ctx)
              let version := fun n : Nat => ({ line := n, stamp := s.stamp n, succ := s.clock + 1
                                               data := (List.range 128).map (fun i => s.view .mem (128 * n + i)) } : Version)
              ((kept = [] ∨ (s.context ctx).full = false ∧ (s.context ctx).roomFor kept.length = true) →
                (∀ w ∈ s.writes, w.entered = true → w.core ≠ p.core) →
                ∃ (u t : State) (h : Group), exec (.txc x d) s = .next t ∧ u.Goes t p h ∧ u.groups = s.groups
                  ∧ g0.Took h p.L { inPred d (fun _ => true) with other := fun g => { g with txn := none } }
                  ∧ u.clock = s.clock + 1 ∧ (∀ n, u.stamp n = if n ∈ y.lines then s.clock + 1 else s.stamp n)
                  ∧ (∀ v ∈ (s.context ctx).versions, v ∈ (u.context ctx).versions)
                  ∧ (∀ n ∈ kept, version n ∈ (u.context ctx).versions)
                  ∧ (∀ z, z ∈ u.snaps ↔ z ∈ s.snaps ∧ (z.ckpt = true ∨ ¬(z.num = y.snap ∧ z.ctx = ctx)))
                  ∧ ∀ a, u.view .mem a = (match y.bytes.find? (fun e => e.1 = a) with
                      | some e => e.2
                      | none => s.view .mem a))
              ∧ (kept ≠ [] → (s.context ctx).full = true →
                  ∃ t, exec (.txc x d) s = .next t ∧ s.PathTraps t { p with g := g0 } { code := 0x0E, kind := 0x12 })
              ∧ (kept ≠ [] → (s.context ctx).full = false → (s.context ctx).roomFor kept.length = false →
                  exec (.txc x d) s = .next s))))

/-! ## Requests at their homes -/

/-- What a write does at its home, as any reader finds memory (R216, R224, R233, R234): its bytes, in order, and no other;
of an ATOM or a reduction the new words, one lane after another in ascending order, in memory, a scratchpad or a peer, which
leave every other byte, while an ATOM's load takes the value that each lane saw, and XCHG.T the write's number (R252). The write stands in a list
until this step of its own, and its acknowledgement in another (log 11).

The order of a write (R218, R228, R231, R243, R265): it enters its core's order only after the group's earlier writes and
the grant of the matrix operation that makes it; it is not applied before an access of its release order, or, as a release, before a write that stands before it in its core's
order (within TEAM scope, one to a scratchpad), nor, an ATOM, while its line holds what its group must not see yet, before an earlier
write of that order to its line, before a load of its core that is ordered and yet to read the line, or before a held write
of its line; its request goes onto a bangle and to its slice, where the arbiter takes no request before an earlier one of
its core, or while every request of another core that waits there has less slack; and the acknowledgement is taken in. The
lists and the steps are the model's (log 11).

Reductions collect in a U copy (R224), lane after lane: for each word, the copy of the core's L1 holds the operand of the
first and what the operation makes of it with every later one. For the operations on integers a word as any reader then finds
it is what applying the reduction would have given; memory itself changes only where an L1 that partials fill loses one to make
room (R213, log 60).

A step that cannot happen in a state answers that state (next state equal to the state): that is the model's form
and no rule (log 6). -/
def Obligations.WritesReachTheirHomes : Prop :=
  (∀ (s : State) (w : Write), s.write? w.id = some w → s.canApply w = true → s.WordsAligned →
      (∀ c ∈ w.kind.cells, c.1 / 128 = w.line) → (w.cameo = false ∨ w.space ≠ .mem) → s.discarded w = false →
      ∃ t, exec (.homeApplyWrite w.id .apply) s = .next t
        ∧ t.writes = s.writes.filter (fun v => v.id ≠ w.id) ∧ t.stamps = s.stamps ∧ t.contexts = s.contexts
        ∧ (∀ c l, t.group? c l = s.group? c l)
        ∧ (w.space = .mem → ∃ k, t.acks = s.acks ++ [k] ∧ k.id = w.id ∧ k.core = w.core ∧ k.slot = w.slot
            ∧ k.number = sget s.slices (s.sliceOf (128 * w.line)) + 1
            ∧ ∀ n, sget t.slices n = if n = s.sliceOf (128 * w.line) then sget s.slices n + 1 else sget s.slices n)
        ∧ (w.kind.isStore = true → t.loads = (s.dropEarly w.core (fun x => x.space = w.space && x.addr / 128 = w.line)).loads
            ∧ ∀ sp a, (∀ i, sp = .scratch i → (s.team? i).isSome) →
                (∀ d, sp = .peer d → a < 2 ^ 39 ∧ ∀ c ∈ w.kind.cells, c.1 < 2 ^ 39) →
                    t.view sp a = overlay [w] sp a (s.view sp a))
        ∧ (∀ op ls, w.kind.ops = some (op, ls) → (∀ y ∈ ls, y.addr / 128 = w.line) →
            (∀ d, w.space = .peer d → ∀ y ∈ ls, y.addr + 4 ≤ 2 ^ 39) →
            let word := fun (f : Nat → Byte) (a : Nat) => BitVec.ofNat 32 (leNat ((List.range 4).map (fun k => f (a + k))))
            let lane := fun (f : Nat → Byte) (y : AtomLane) (a : Nat) =>
              if y.addr ≤ a ∧ a < y.addr + 4 then (atomNew op (word f y.addr) y.b y.d).extractLsb' (8 * (a - y.addr)) 8 else f a
            (∀ a, (∀ d, w.space = .peer d → a < 2 ^ 39) → t.view w.space a = ls.foldl lane (s.view w.space) a)
            ∧ (w.space ≠ .mem → ∀ a, t.view .mem a = s.view .mem a)
            ∧ ∀ id l, w.kind = .atom op ls id → s.load? id = some l → (ls.map AtomLane.lane).Nodup →
                (∀ x ∈ l.lanes, x.home = [] ∨ ∃ y ∈ ls, y.lane = x.lane) → (l.width ≠ 5 ∨ ∀ d, w.space ≠ .peer d) →
                let number : Word := if w.space = .mem then sget s.slices (s.sliceOf (128 * w.line)) + 1 else 0
                ∃ l', t.load? id = some l' ∧ { l' with lanes := l.lanes, sampled := l.sampled } = l
                  ∧ (l'.sampled = true ↔ ∀ x ∈ l'.lanes, x.data ≠ []) ∧ l'.lanes.length = l.lanes.length
                  ∧ (∀ (k : Nat) (x : LoadLane), l.lanes[k]? = some x → (∀ y ∈ ls, y.lane ≠ x.lane) → l'.lanes[k]? = some x)
                  ∧ ∀ (n k : Nat) (y : AtomLane) (x : LoadLane), ls[n]? = some y → l.lanes[k]? = some x → x.lane = y.lane →
                      let old := word ((ls.take n).foldl lane (s.view w.space)) y.addr
                      l'.lanes[k]? = some { x with
                        data := leBytes 4 old.toNat ++ if l.width = 5 then leBytes 4 number.toNat else [] }))
  ∧ (∀ (s : State) (w : Write), s.write? w.id = some w →
      (w.entered = true ∨ (∃ v ∈ s.writes, v.core = w.core ∧ v.slot = w.slot ∧ v.entered = false ∧ v.id < w.id)
          ∨ (∃ e, w.mat = some e ∧ s.ungranted e = true) →
        exec (.homeApplyWrite w.id .enter) s = .next s)
      ∧ (s.canEnter w = true → ∃ t, exec (.homeApplyWrite w.id .enter) s = .next t
          ∧ t.writes = s.writes.filter (fun v => v.id ≠ w.id) ++ [{ w with entered := true, way := { since := s.time } }]
          ∧ { t with writes := s.writes } = s)
      ∧ ((w.entered = false ∨ w.held = true ∨ (∃ v ∈ s.writes, v.id ∈ w.rel.deps)
          ∨ (∃ l ∈ s.loads, l.sampled = false ∧ l.id ∈ w.rel.deps)
          ∨ (w.rel.scope ≠ 0 ∧ ∃ v ∈ s.ahead w, ¬(v.slot = w.slot ∧ w.rel.first ≤ v.id)
              ∧ (w.rel.scope = 1 → ∃ i, v.space = .scratch i))
          ∨ (w.kind.isStore = false ∧ (∀ op l, w.kind ≠ .reduce op l) ∧ s.hidden w.core w.slot w.space w.line = true)
          ∨ (∃ v ∈ s.writes.takeWhile (fun v => v.id ≠ w.id), v.entered = true ∧ v.core = w.core ∧ v.space = w.space
              ∧ v.line = w.line)
          ∨ (w.space = .mem ∧ w.way.stage ≠ .slice)
          ∨ (∃ v ∈ s.writes, v.id ≠ w.id ∧ v.core = w.core ∧ w.space = .mem ∧ v.space = .mem ∧ s.mayGo v = true
              ∧ v.way.stage = .slice ∧ v.way.seq < w.way.seq ∧ s.sliceOf (128 * v.line) = s.sliceOf (128 * w.line))
          ∨ (∃ v ∈ s.writes, v.id ≠ w.id ∧ v.core ≠ w.core ∧ w.space = .mem ∧ v.space = .mem ∧ s.mayGo v = true
              ∧ v.way.stage = .slice ∧ s.sliceOf (128 * v.line) = s.sliceOf (128 * w.line)
              ∧ ∀ q ∈ s.requests, q.src = v.core → q.way.stage = .slice →
                  q.tag - (s.time - q.way.since) * 27 / 640 < w.tag - (s.time - w.way.since) * 27 / 640)
          ∨ (∃ l ∈ s.loads, l.core = w.core ∧ l.ordered = true ∧ l.homed = false
              ∧ ∃ x ∈ l.lanes, x.data = [] ∧ x.space = w.space ∧ x.addr / 128 = w.line)
          ∨ ∃ v ∈ s.writes, v.held = true ∧ v.space = w.space ∧ v.line = w.line) →
        exec (.homeApplyWrite w.id .apply) s = .next s)
      ∧ (w.space = .mem → s.mayGo w = true → s.canInject w.request = true →
          ∃ t, exec (.homeApplyWrite w.id .inject) s = .next t ∧ { t with writes := s.writes, nextId := s.nextId } = s
            ∧ t.writes = s.writes.map (fun v => if v.id = w.id then
                { v with way := { stage := .bangle, since := s.time, seq := s.nextId } } else v))
      ∧ (w.space = .mem → s.canArrive w.request = true →
          ∃ t, exec (.homeApplyWrite w.id .arrive) s = .next t ∧ { t with writes := s.writes } = s
            ∧ t.writes = s.writes.map (fun v => if v.id = w.id then
                { v with way := { w.way with stage := .slice, since := s.time } } else v))
      ∧ ∀ id, ∃ t, exec (.writeAck id) s = .next t ∧ t.acks = s.acks.filter (fun a => a.id ≠ id)
          ∧ { t with acks := s.acks } = s)
  ∧ (∀ (s : State) (w : Write) (op : AtomOp) (ls : List AtomLane), s.write? w.id = some w → w.kind = .reduce op ls →
      (∀ y ∈ ls, y.addr / 128 = w.line) → s.canCollect w op ls = true → s.WordsAligned →
      let word := fun (f : Nat → Byte) (a : Nat) => BitVec.ofNat 32 (leNat ((List.range 4).map (fun k => f (a + k))))
      let lane := fun (f : Nat → Byte) (y : AtomLane) (a : Nat) =>
        if y.addr ≤ a ∧ a < y.addr + 4 then (atomNew op (word f y.addr) y.b y.d).extractLsb' (8 * (a - y.addr)) 8 else f a
      let copy := fun (t : State) (a : Nat) =>
        (t.upartials.find? (fun u => u.l1 = s.l1Of w.core && u.addr = a)).map UPartial.val
      ∃ t, exec (.homeApplyWrite w.id .collect) s = .next t ∧ t.writes = s.writes.filter (fun v => v.id ≠ w.id)
        ∧ (w.line ∈ s.uLines (s.l1Of w.core) ∨ s.l1Used (s.l1Of w.core) < s.l1Lines (s.l1Of w.core) → t.mem = s.mem
            ∧ ∀ a, copy t a = (ls.filter (fun y => y.addr = a)).foldl (fun v y => some (match v with
                | some v => atomNew op v y.b 0
                | none => y.b)) (copy s a))
        ∧ ((op = .add ∨ op = .min ∨ op = .minU ∨ op = .max ∨ op = .maxU ∨ op = .and ∨ op = .or ∨ op = .xor) →
            (∀ u ∈ s.upartials, u.op = op) → ∀ a, t.view .mem a = ls.foldl lane (s.view .mem) a))

/-- Cameo lines (R238, R240, R243): a write of a line that a live snapshot of its context still reads preserves the line
first, and stamps it with the clock; with no room for the version it is held, and released when there is room and no write
of its line is held before it.

That writes stand in a list until their homes apply them is the model's form (log 11). A step that cannot happen in
a state answers that state (next state equal to the state): that is the model's form and no rule (log 6). -/
def Obligations.VersionsArePreserved : Prop :=
  ∀ (s : State) (w : Write), s.write? w.id = some w → w.cameo = true → w.space = .mem → w.kind.isStore = true →
    s.WordsAligned → (∀ u ∈ s.upartials, u.addr / 128 ≠ w.line) → (∀ c ∈ w.kind.cells, c.1 / 128 = w.line) →
    let saved : Version := { line := w.line, stamp := s.stamp w.line, succ := s.clock, data := s.bytes .mem (128 * w.line) 128 }
    let effect := fun t : State => t.stamp w.line = s.clock ∧ (∀ n, n ≠ w.line → t.stamp n = s.stamp n)
      ∧ (∀ a, t.view .mem a = overlay [w] .mem a (s.view .mem a))
      ∧ (t.context w.ctx).versions = (s.context w.ctx).versions ++ (if s.mustPreserve w.ctx w.line = true then [saved] else [])
      ∧ t.writes = s.writes.filter (fun v => v.id ≠ w.id)
    (s.canApply w = true → s.noRoom w = false →
      ∃ t, exec (.homeApplyWrite w.id .apply) s = .next t ∧ effect t)
    ∧ (s.canApply w = true → s.noRoom w = true → ∃ t, exec (.homeApplyWrite w.id .apply) s = .next t
        ∧ { t with writes := s.writes } = s
        ∧ t.writes = s.writes.map (fun v => if v.id = w.id then { v with held := true } else v))
    ∧ (w.held = true → s.noRoom w = true → exec (.heldWriteRelease w.id) s = .next s)
    ∧ (w.held = true → s.noRoom w = false →
        (∀ v ∈ s.writes.takeWhile (fun v => v.id ≠ w.id), ¬(v.held = true ∧ v.space = w.space ∧ v.line = w.line)) →
        ∃ t, exec (.heldWriteRelease w.id) s = .next t ∧ effect t)

/-- A load reads, for every lane, the bytes at its home overlaid by the writes of its core's order and of its own group
that were issued before it (R227, R228), and changes no byte, where no sector is about to fail (log 61) and its core's L1 has
room or no partial is collected (log 60); its data then goes
to the registers, widened as WIDTH says, low word first (R106, R250), and nothing else changes. That a load reads in one
step and returns in another, from a list, is the model's form (log 11). -/
def Obligations.LoadsReturn : Prop :=
  (∀ (s : State) (l : PendingLoad), s.load? l.id = some l → s.canSample l = true → s.WordsAligned → l.lanes ≠ [] →
    s.faulty = [] → l.ordered = false → l.homed = false →
    (s.upartials = [] ∨ s.l1Used (s.l1Of l.core) + l.lanes.length ≤ s.l1Lines (s.l1Of l.core)) →
    (∀ x ∈ l.lanes, x.data = [] → x.home = [] ∧ x.addr % 128 + l.bytes ≤ 128) →
    ∃ t l', exec (.loadReturn l.id .sample) s = .next t ∧ t.load? l.id = some l' ∧ l'.sampled = true
      ∧ l'.lanes.map (fun x => (x.lane, x.va, x.space, x.addr, x.data))
          = l.lanes.map (fun x => (x.lane, x.va, x.space, x.addr, if x.data = [] then (List.range l.bytes).map (fun i =>
              overlay (s.visible l.core l.slot l.id) x.space (x.addr + i) (s.view x.space (x.addr + i))) else x.data))
      ∧ t.writes = s.writes ∧ (∀ a, t.view .mem a = s.view .mem a) ∧ s.OthersKept t l.core l.slot
      ∧ ∀ g, s.group? l.core l.slot = some g → ∃ g', t.group? l.core l.slot = some g' ∧ { g' with saw := g.saw } = g)
  ∧ ∀ (s : State) (l : PendingLoad) (g : Group), s.load? l.id = some l → s.canDeliver l = true →
    s.group? l.core l.slot = some g → (l.lanes.map LoadLane.lane).Nodup → (∀ x ∈ l.lanes, x.lane < 32) →
    let value := fun x : LoadLane =>
      if l.width = 2 then ((BitVec.ofNat 8 (leNat x.data)).signExtend 32).toNat
      else if l.width = 4 then ((BitVec.ofNat 16 (leNat x.data)).signExtend 32).toNat
      else leNat x.data
    let n := if l.width = 5 then 2 else if l.width = 6 then 4 else 1
    let u : State := { s with loads := s.loads.filter (fun d => d.id ≠ l.id) }
    ∃ t h, exec (.loadReturn l.id .deliver) s = .next t
      ∧ (if l.acq = true then u.dropEarly l.core (fun _ => true) else u).OnlyGroup t l.core l.slot h
      ∧ { h with v := g.v } = g
      ∧ (∀ x ∈ l.lanes, ∀ k, k < n → h.rv (l.dest + k) x.lane = BitVec.ofNat 32 (value x / 2 ^ (32 * k)))
      ∧ ∀ a j, j < 32 → (¬(l.dest ≤ a ∧ a < l.dest + n) ∨ ∀ x ∈ l.lanes, x.lane ≠ j) → h.rv a j = g.rv a j

/-- Translation and versions: a finished page walk, whose homes have read its entries (R224, R328), is cached by the cluster and by the core's micro-TLB and used, and a
translation that the cluster holds goes to the micro-TLB (R10, R321); the collector takes only versions that no live snapshot
reaches (R242); the full condition clears (R243); and the end of a context releases its snapshots, but for a running
checkpoint's, and its versions, but for those that such a snapshot reaches (R239, R376, R377). That these are steps of the device of their own is log 40.

A request to another device that is given up (R374), once it finds no route or 2 ms have passed without its
acknowledgement: the lanes of a load or ATOM, of one too that the peer has applied and whose acknowledgement is lost, take MEMERR with the device
at its instruction and it is gone (log 37); a posted
write is dropped, and every lane of a path that stands at a fence which waits for it takes MEMERR with the device, in its
own group and in one of its core that has seen it; before that time nothing happens.

A step that cannot happen in a state answers that state (next state equal to the state): that is the model's form
and no rule (log 6). -/
def Obligations.TranslationsVersionsAndLostRequests : Prop :=
  (∀ (s : State) (ctx : Word) (core : Nat) (va : DWord), core < 256 →
      (∀ c l, s.ctxDesc? ctx = some c → s.tlbHit core ctx va = none → s.walk {} va c.ptroot 4 = .ok l →
        ∃ t, exec (.pageWalkComplete core ctx va) s = .next t ∧ t.tlbHit core ctx va = some l
          ∧ tlbFind t.tlb (core / 32) ctx va = some l ∧ { t with tlb := s.tlb, utlb := s.utlb } = s.walkedFrom va c.ptroot)
      ∧ (∀ c l, s.ctxDesc? ctx = some c → tlbFind s.utlb core ctx va = none → tlbFind s.tlb (core / 32) ctx va = some l →
          ∃ t, exec (.pageWalkComplete core ctx va) s = .next t ∧ tlbFind t.utlb core ctx va = some l
            ∧ { t with utlb := s.utlb } = s)
      ∧ (∀ line stamp, ∃ t, exec (.versionReclaim ctx line stamp) s = .next t
          ∧ (∀ c, c ≠ ctx → t.context c = s.context c)
          ∧ (∀ v ∈ (s.context ctx).versions, (∃ n ∈ s.snaps, n.ctx = ctx ∧ v.stamp ≤ n.num ∧ n.num < v.succ) →
              s.floor ctx < v.succ → v ∈ (t.context ctx).versions)
          ∧ (∀ v ∈ (s.context ctx).versions, v.line = line → v.stamp = stamp → v.succ ≤ s.floor ctx →
              v ∉ (t.context ctx).versions))
      ∧ (∃ t, exec (.fullConditionClear ctx) s = .next t ∧ (t.context ctx).full = false
          ∧ ∀ c, c ≠ ctx → t.context c = s.context c)
      ∧ (∃ t, exec (.contextEnd ctx) s = .next t ∧ (∀ n ∈ t.snaps, n.ctx ≠ ctx ∨ n.ckpt = true)
          ∧ (∀ v, v ∈ (t.context ctx).versions ↔ v ∈ (s.context ctx).versions
              ∧ ∃ n ∈ s.snaps, n.ctx = ctx ∧ n.ckpt = true ∧ v.stamp ≤ n.num ∧ n.num < v.succ)
          ∧ (∀ n ∈ s.snaps, n.ctx ≠ ctx ∨ n.ckpt = true → n ∈ t.snaps) ∧ ∀ c, c ≠ ctx →
              t.context c = s.context c))
  ∧ ((∀ (s : State) (l : PendingLoad) (g : Group) (d : Nat), s.load? l.id = some l →
      s.group? l.core l.slot = some g → g.lanes.length = 32 → l.lanes ≠ [] →
      (∀ x ∈ l.lanes, x.lane < 32 ∧ x.space = .peer d ∧ (g.lane x.lane).st = .run) →
      (l.lanes.map LoadLane.lane).Nodup → (s.loads.map PendingLoad.id).Nodup →
      let given := fun (id : Nat) (t : State) => exec (.remoteGiveUp (.request id)) s = .next t ∧ t.load? l.id = none
        ∧ (∀ w ∈ t.writes, ∀ op ls, w.kind = .atom op ls l.id → ls ≠ []) ∧ ∃ g', t.group? l.core l.slot = some g'
          ∧ g.SameRegs g' ∧ ∀ x ∈ l.lanes, ({ g.lane x.lane with pc := l.pc }).Trapped (g'.lane x.lane)
              { code := 0x0B, sub := 3, kind := if l.atom = true then 3 else 1, addr := x.va, auxa := BitVec.ofNat 64 d }
      (s.routeTo d = true → s.time < l.born + 2000000 → exec (.remoteGiveUp (.request l.id)) s = .next s)
      ∧ (s.routeTo d = false ∨ l.born + 2000000 ≤ s.time → ∃ t, given l.id t)
      ∧ ∀ k, s.acks.find? (fun a => a.id = k.id) = some k → s.load? k.id = none → s.write? k.id = none → k.space = .peer d →
          k.load = some l.id →
          (s.routeTo d = true → s.time < k.born + 2000000 → exec (.remoteGiveUp (.request k.id)) s = .next s)
          ∧ (s.routeTo d = false ∨ k.born + 2000000 ≤ s.time → s.routeTo d = false ∨ l.born + 2000000 ≤ s.time →
              ∃ t, given k.id t ∧ t.acks = s.acks.filter (fun a => a.id ≠ k.id)))
    ∧ ∀ (s : State) (w : Write) (d : Nat), s.load? w.id = none → s.write? w.id = some w → w.space = .peer d →
      w.kind.isStore = true →
      (s.routeTo d = true → s.time < w.born + 2000000 → exec (.remoteGiveUp (.request w.id)) s = .next s)
      ∧ (s.routeTo d = false ∨ w.born + 2000000 ≤ s.time →
        ∃ t, exec (.remoteGiveUp (.request w.id)) s = .next t ∧ t.writes = s.writes.filter (fun v => v.id ≠ w.id)
          ∧ t.peer = s.peer ∧ t.acks = s.acks.filter (fun a => a.id ≠ w.id)
          ∧ ((∀ g ∈ s.groups, g.core = w.core → (g.slot = w.slot ∨ w.id ∈ g.saw) → s.fencePaths g = []) →
              ∀ c l, t.group? c l = s.group? c l)
          ∧ ∀ (g : Group) (pc : DWord) (i : Instr) (ws : List Word) (x : Exts), s.SlotsApart → g ∈ s.groups →
              g.core = w.core → (g.slot = w.slot ∨ w.id ∈ g.saw) → g.lanes.length = 32 → s.peek g pc = some (i, ws) →
              (i = .fenceEngine x ∨ ∃ c : BitVec 3, 2 ≤ c.toNat ∧ (i = .fenceRel x c ∨ i = .fenceSc x c)) →
              ∃ g', t.group? g.core g.slot = some g' ∧ g.SameRegs g' ∧ ∀ j, j < 32 → (g.lane j).st = .run →
                (g.lane j).pc = pc → guardTrue (g.lane j) (Exts.guard x) = true →
                (g.lane j).Trapped (g'.lane j) { code := 0x0B, sub := 3, auxa := BitVec.ofNat 64 d }))

/-! ## Matrix instructions -/

/-- A matrix instruction waits while its core holds four reservation entries, and traps where it names a tile or an
accumulator that is not declared (R112, R265); a free engine grants the oldest entry of the next core in order that holds
one, and the operation leaves its entry when it completes.

MMA (R267 to R269, R133): each element of the accumulator in a row that the row mask selects becomes its old value with
the products of the row of A and the column of B accumulated; the other rows keep theirs; an entry is taken. MZERO zeroes
one accumulator (R270). That the effect stands at issue while the entry stands is log 33.

A step that cannot happen in a state answers that state (next state equal to the state): that is the model's form
and no rule (log 6). -/
def Obligations.MatrixReservationsAndMultiply : Prop :=
  ((∀ (s : State) (x : Exts) (p : Path) (d a b : BitVec 7), s.Issues x (Exts.guard x) p → p.L ≠ 0 →
      (4 ≤ s.entriesHeld p.core → d.toNat < p.g.naccs →
        exec (.mzero x d) s = .next s ∧ exec (.mld x d a) s = .next s ∧ exec (.mst x d a) s = .next s
        ∧ exec (.mdrain x d a b) s = .next s ∧ (a.toNat < p.g.ntiles → exec (.mma x d a b) s = .next s))
      ∧ (p.g.naccs ≤ d.toNat → ∀ i ∈ [Instr.mzero x d, .mld x d a, .mst x d a, .mdrain x d a b, .mma x d a b],
          ∃ t, exec i s = .next t ∧ s.PathTraps t p { code := 0x05, sub := 2 })
      ∧ (p.g.ntiles ≤ d.toNat → ∃ t, exec (.tld x d a) s = .next t ∧ s.PathTraps t p { code := 0x05, sub := 2 }))
    ∧ ∀ (s : State) (n : Nat) (e : Engine), s.engines[n]? = some e →
      ((∃ m ∈ e.entries, m.granted = true) → exec (.engineGrant n) s = .next s)
      ∧ (∀ k m, (∀ m ∈ e.entries, m.granted = false) → k < 4 →
          (∀ i, i < k → ∀ m ∈ e.entries, m.core % 4 ≠ (e.last + 1 + i) % 4) →
          e.entries.find? (fun m => m.core % 4 = (e.last + 1 + k) % 4) = some m →
          ∃ t, exec (.engineGrant n) s = .next t ∧ { t with engines := s.engines } = s
            ∧ (∀ i, i ≠ n → t.engines[i]? = s.engines[i]?)
            ∧ t.engines[n]? = some { last := (e.last + 1 + k) % 4
                                     entries := e.entries.map (fun o => if o.id = m.id then { o with granted := true } else o) })
      ∧ (∃ t, exec (.matrixOpComplete n) s = .next t ∧ { t with engines := s.engines } = s
          ∧ (∀ i, i ≠ n → t.engines[i]? = s.engines[i]?)
          ∧ t.engines[n]? = some { e with entries := e.entries.filter (fun m => !m.granted) }))
  ∧ (∀ (s : State) (x : Exts) (p : Path) (d a b : BitVec 7) (tm : Team), s.Issues x (Exts.guard x) p → p.L ≠ 0 →
      s.entriesHeld p.core < 4 → d.toNat < p.g.naccs → s.teamOf p.g = some tm →
      (∃ t h, exec (.mzero x d) s = .next t ∧ (s.takeEntry p.core p.slot).Goes t p h ∧ { h with m := p.g.m } = p.g
        ∧ ∀ k, sget h.m k = if k / 4096 = d.toNat then 0 else sget p.g.m k)
      ∧ (a.toNat < p.g.ntiles → ∀ fa fb : Elem,
          let m := sget p.g.g b.toNat
          let k := passK fa.width fb.width
          let ch := passChunk fa.width fb.width
          mapBase m % 16 = 0 → elemOf (tm.ctx.fte (mapFta m)) = some fa → elemOf (tm.ctx.fte (mapFtb m)) = some fb →
          fa ≠ .tagged → (mapMxa m = true → fa.mxOk = true) → (mapMxb m = true → fb.mxOk = true) →
          s.windowGate p tm (mmaRanges tm m fb k fb.width (k / 32)) = .pass →
          let rows : Word := if (Exts.fam x).getLsbD 1 = true then (p.g.rs (Exts.c x).toNat).setWidth 32 else 0xFFFFFFFF
          let ra := mmaRows tm (sbytes p.g.t (2048 * a.toNat) 2048) m fa k ch (k / 32)
          let cb := mmaCols tm m fb k ch (k / 32)
          ∃ t h, exec (.mma x d a b) s = .next t ∧ (s.takeEntry p.core p.slot).Goes t p h ∧ { h with m := p.g.m } = p.g
            ∧ (∀ r c, r < 32 → c < 128 → sget h.m (4096 * d.toNat + 128 * r + c) =
                let old := sget p.g.m (4096 * d.toNat + 128 * r + c)
                if rows.getLsbD r = true then accElem old (ra.getD r []) (cb.getD c []) else old)
            ∧ ∀ n, n / 4096 ≠ d.toNat → sget h.m n = sget p.g.m n))

/-- MLD and TLD fill an accumulator of 4,096 words and a tile of 2,048 bytes with the bytes that their span holds, as any
reader finds them (R271, R272), and change nothing in memory, where no sector is about to fail (log 61) and the arbiters let
the lines be read (R218); until then the group asks for them. They take effect at issue (log 33).

MST and MDRAIN post the bytes of an accumulator: MST its 4,096 words to its span, piece by piece (R271); MDRAIN each
row's elements in the format of the map, at the rows' places, with the scales of a requantised row (R274 to R276). The bytes
stand in a list of posted writes (log 11), which wait for the grant of the entry (R265, log 33). -/
def Obligations.MatrixLoadsAndStores : Prop :=
  (∀ (s : State) (x : Exts) (p : Path) (d a : BitVec 7) (l : List Place), s.Issues x (Exts.guard x) p → p.L ≠ 0 →
      p.g.txn = none → s.WordsAligned → s.faulty = [] → (∀ y ∈ l, y.addr % 128 = 0) → s.spanReady p l = true →
      (s.spanServed p l = false → p.g.asked = none →
        (s.entriesHeld p.core < 4 → d.toNat < p.g.naccs → s.matSpan p (p.g.rs a.toNat) 16384 .load = .go l →
          exec (.mld x d a) s = .next (s.modGroup p.core p.slot (fun g => { g with asked := some s.time })))
        ∧ (d.toNat < p.g.ntiles → s.matSpan p (p.g.rs a.toNat) 2048 .load = .go l →
          exec (.tld x d a) s = .next (s.modGroup p.core p.slot (fun g => { g with asked := some s.time })))) ∧
      (s.spanServed p l = true →
      let byte := fun i => match l[i / 128]? with
        | some y => s.view y.space (y.addr + i % 128)
        | none => 0
      (s.entriesHeld p.core < 4 → d.toNat < p.g.naccs → s.matSpan p (p.g.rs a.toNat) 16384 .load = .go l →
        ∃ (u t : State) (h : Group), exec (.mld x d a) s = .next t ∧ u.Goes t p h ∧ u.groups = (s.answered p.core p.slot).groups
          ∧ (∀ c, u.view .mem c = s.view .mem c) ∧ { h with m := p.g.m } = { p.g with asked := none }
          ∧ (∀ i, i < 4096 → sget h.m (4096 * d.toNat + i) =
              BitVec.ofNat 32 (leNat ((List.range 4).map (fun k => byte (4 * i + k)))))
          ∧ ∀ n, n / 4096 ≠ d.toNat → sget h.m n = sget p.g.m n)
      ∧ (d.toNat < p.g.ntiles → s.matSpan p (p.g.rs a.toNat) 2048 .load = .go l →
        ∃ (u t : State) (h : Group), exec (.tld x d a) s = .next t ∧ u.Goes t p h ∧ u.groups = (s.answered p.core p.slot).groups
          ∧ u.engines = s.engines ∧ (∀ c, u.view .mem c = s.view .mem c) ∧ { h with t := p.g.t } = { p.g with asked := none }
          ∧ (∀ i, i < 2048 → sget h.t (2048 * d.toNat + i) = byte i)
          ∧ ∀ n, n / 2048 ≠ d.toNat → sget h.t n = sget p.g.t n)))
  ∧ (∀ (s : State) (x : Exts) (p : Path) (d a b : BitVec 7), s.Issues x (Exts.guard x) p → p.L ≠ 0 →
      s.entriesHeld p.core < 4 → d.toNat < p.g.naccs →
      (∀ l, p.g.txn = none → s.acquiring p.core p.slot = false → s.matSpan p (p.g.rs a.toNat) 16384 .store = .go l →
        ∃ (ws : List Write) (n : Nat) (t : State), exec (.mst x d a) s = .next t
          ∧ (({ s.walkSpan p (p.g.rs a.toNat) 16384 with writes := s.writes ++ ws, nextId := n } : State).takeEntry p.core p.slot).Goes
              t p p.g
          ∧ (∀ w ∈ ws, w.core = p.core ∧ w.slot = p.slot ∧ w.entered = false ∧ w.rel = s.releaseOf p.core p.slot 0 0
              ∧ w.kind.isStore = true ∧ w.mat = some n)
          ∧ ∀ sp c v, overlay ws sp c v = (number 0 l).foldl (fun v y =>
              if y.2.space = sp ∧ y.2.addr ≤ c ∧ c < y.2.addr + 128 then
                (sget p.g.m (4096 * d.toNat + 32 * y.1 + (c - y.2.addr) / 4)).extractLsb' (8 * ((c - y.2.addr) % 4)) 8
              else v) v)
      ∧ ∀ (tm : Team) (f : Elem),
          let ga := sget p.g.g a.toNat
          let gb := sget p.g.g b.toNat
          s.teamOf p.g = some tm → mapBase ga % 16 = 0 → elemOf (tm.ctx.fte (mapFtb ga)) = some f → f ≠ .tagged →
          (mapMxb ga = true → f.mxOk = true) → f.width ≤ mapStride ga →
          s.windowGate p tm (drainRanges ga gb f.width) = .pass →
          ∃ (ws : List Write) (n : Nat) (t : State), exec (.mdrain x d a b) s = .next t
            ∧ (({ s with writes := s.writes ++ ws, nextId := n } : State).takeEntry p.core p.slot).Goes t p p.g
            ∧ (∀ w ∈ ws, w.core = p.core ∧ w.slot = p.slot ∧ w.space = .scratch tm.id ∧ w.kind.isStore = true ∧ w.mat = some n)
            ∧ ∀ c v, overlay ws (.scratch tm.id) c v = (List.range 32).foldl (fun v r =>
                (drainRow f ga gb r ((List.range 128).map (fun k =>
                  fp32.val (sget p.g.m (4096 * d.toNat + 128 * r + k)).toNat))).foldl
                  (fun v e => if e.1 = c then e.2 else v) v) v)

/-! ## Engine jobs -/

/-- COPY, COPY.MC, GATHER, COLL and MEDIA (R280 to R286): when the operands pass their checks, a copy-queue entry is free
and no access of the group to the lines is under way, the job is accepted, once the homes have read its shape records (R224,
R328), and the path goes on.

What an accepted job is (R209, R279, R281): it holds a copy-queue entry that no other job of the core holds, its
destination lines become absent until it has delivered them, and a box moves word by word from the source's strides to the
destination's.

The fields of the records of failed operands are log 35. -/
def Obligations.EngineJobsAreAccepted : Prop :=
  (∀ (s : State) (x : Exts) (p : Path) (a b : BitVec 7) (tm : Team) (cl : Option ClaspRef) (src dst : BoxRec),
      s.Issues x (Exts.guard x) p → p.L ≠ 0 → s.producer x p false = .ok (tm, cl) →
      let sa := p.g.rs a.toNat
      let sb := p.g.rs b.toNat
      let runs := fun (i : Instr) (q : JobAsk) =>
        (s.jobs.filter (fun j => j.team = tm.id)).length < tm.copyq → s.touching p.core p.slot q.lines = false →
        ∃ t, exec i s = .next t ∧ ((s.readShapes x p sa).accept p tm q).Goes t p p.g
      (s.records tm sa = .ok (src, dst) →
        (∀ pl, (Exts.fam x).getLsbD 1 = false → sb.toInt % 4 = 0 → bits sa.toNat 63 32 % 4 = 0 →
            s.boxPlan tm src dst sb.toInt (bits sa.toNat 63 32 : Nat) cl true = .ok pl →
            runs (.copy x a b) { pl.ask .copy cl (Exts.c x) with snap := none })
        ∧ (∀ pl, (Exts.fam x).getLsbD 1 = true → s.snapLive (s.ctxOf p.g) sb = true → bits sa.toNat 63 32 % 4 = 0 →
            s.boxPlan tm src dst 0 (bits sa.toNat 63 32 : Nat) cl true = .ok pl →
            runs (.copy x a b) { pl.ask .copy cl (Exts.c x) with snap := some sb })
        ∧ (∀ pl op, collOp (bits sa.toNat 35 32) = some op → (op = none ∨ dst.esize = 32) →
            s.boxPlan tm src dst 0 0 cl true = .ok pl →
            let q := pl.ask (.coll op) cl (Exts.c x)
            (sb = 0 → runs (.coll x a b) q)
            ∧ ∀ w, sb ≠ 0 → sb.toNat % 4 = 0 → s.jobRange tm sb.toNat (sb.toNat + 4) 0x0A = .ok w →
                runs (.coll x a b) { q with
                  signal := some w, writes := q.writes ++ [w.foot 4], lines := dedup (q.lines ++ w.line) })
        ∧ (∀ sh dh sp ds, let peers := lanesOf ((sa >>> 32).setWidth 32)
            sb.toInt % 4 = 0 → peers ≠ [] → winBase ≤ dst.base → dst.base < winBase + tm.size → (∀ k ∈ peers, k < tm.gs) →
            src.hull (boxRuns dst src sb.toInt) dst.run = .ok sh → dst.hull (boxRuns dst dst 0) dst.run = .ok dh →
            s.jobRange tm sh.1 sh.2 9 = .ok sp → s.mcDsts tm (dh.1 - winBase) (dh.2 - dh.1) cl peers = .ok ds →
            runs (.copyMc x a b) (({ src := sp, srcLo := sh.1, srcLen := sh.2 - sh.1, dsts := ds, dstLo := dh.1
                                     dstLen := dh.2 - dh.1, run := dst.run
                                     rows := rowsOf src dst (boxRuns dst src sb.toInt) (boxRuns dst dst 0) } : Plan).ask
              .mc cl (Exts.c x)))
        ∧ (∀ sh dh sp dp, p.g.hasRegs (vuse (Exts.uniB x) b 1) = true → src.d0 = dst.d0 → bits sa.toNat 63 32 % 4 = 0 →
            (∀ j, j < 32 → p.L.getLsbD j = true → (p.g.srcB x b j).toNat < src.d1) →
            src.hull ((List.range src.d1).map (fun (k : Nat) => (k : Int) * src.s1)) dst.run = .ok sh →
            let rb := (lanesOf p.L).map (fun (j : Nat) => ((bits sa.toNat 63 32 : Nat) : Int) + (j : Int) * dst.s1)
            dst.hull rb dst.run = .ok dh →
            s.jobRange tm sh.1 sh.2 9 = .ok sp → s.jobRange tm dh.1 dh.2 0x0A = .ok dp →
            runs (.gather x a b) (({ src := sp, srcLo := sh.1, srcLen := sh.2 - sh.1, dsts := [(dp, cl)], dstLo := dh.1
                                     dstLen := dh.2 - dh.1, run := dst.run
                                     rows := rowsOf src dst ((lanesOf p.L).map (fun j =>
                                       ((p.g.srcB x b j).toNat : Int) * src.s1)) rb } : Plan).ask .gather cl (Exts.c x))))
      ∧ (∀ sh dh sp dp bp,
          let dec := bitN sa.toNat 35
          s.boot.variant = .x → s.boot.media = true → bitN (s.mediaMask dec) (bits sa.toNat 34 32) = true →
          s.boxRec tm.ctx (bits sa.toNat 15 0) 0 = .ok src → s.boxRec tm.ctx (bits sa.toNat 31 16) 1 = .ok dst →
          ((if dec = true then dst else src).esize = 8 ∨ (if dec = true then dst else src).esize = 16) →
          src.span = .ok sh → dst.span = .ok dh → s.jobRange tm sh.1 sh.2 9 = .ok sp → s.jobRange tm dh.1 dh.2 0x0A = .ok dp →
          s.jobRange tm sb.toNat (sb.toNat + 64) 0x0B = .ok bp → sb.toNat % 64 = 0 →
          let rf := sp.foot (sh.2 - sh.1)
          let wf := dp.foot (dh.2 - dh.1)
          runs (.media x a b)
            { kind := .media dec (bits sa.toNat 34 32) sb, clasp := cl, kfield := Exts.c x, units := []
              reads := [rf, bp.foot 64], writes := [wf, bp.foot 64], lines := dedup (runLines (dst.runs dp dh.1) ++ footLines (bp.foot 64))
              srcRuns := src.runs sp sh.1, dstRuns := dst.runs dp dh.1, esize := (if dec = true then dst else src).esize
              gate := s.mediaGate tm cl }))
  ∧ ((∀ (s : State) (p : Path) (tm : Team) (q : JobAsk), (s.jobs.filter (fun j => j.core = p.core)).length < 32 →
      ∃ j, (s.accept p tm q).jobs = s.jobs ++ [j] ∧ j.id = s.nextId ∧ j.team = tm.id ∧ j.units = q.units ∧ j.started = false
        ∧ j.entry < 32 ∧ (∀ k ∈ s.jobs, k.core = p.core → k.entry ≠ j.entry)
        ∧ (∀ e ∈ q.lines, ∀ t, s.team? e.1 = some t → ∃ t', (s.accept p tm q).team? e.1 = some t'
            ∧ ∃ y ∈ t'.absent, y.line = e.2 ∧ y.entry = j.id ∧ y.left = false)
        ∧ (s.accept p tm q).mem = s.mem)
    ∧ (∀ (s : State) (tm : Team) (src dst : BoxRec) (so d : Int) (cl : Option ClaspRef) (pl : Plan),
        s.boxPlan tm src dst so d cl true = .ok pl →
        pl.run = dst.d0 * dst.esize / 8
        ∧ pl.rows = (List.range dst.d3).flatMap (fun (k : Nat) => (List.range dst.d2).flatMap (fun (j : Nat) =>
            (List.range dst.d1).map (fun (i : Nat) =>
              (((src.base : Int) + (so + i * src.s1 + j * src.s2 + k * src.s3)).toNat,
                ((dst.base : Int) + (d + i * dst.s1 + j * dst.s2 + k * dst.s3)).toNat))))))

/-- A job starts when no earlier job of its context, one of a saved team among them, shares a written byte with it (R235), and
not while its gate is closed or a window that it reads or writes belongs to a saved team (R286, R288); it then delivers its
words one by one, each as its source reads, at its snapshot for COPY.C (R282), combined for COLL (R285), and credits 4 bytes
to the clasp of that word (R281); a COLL's signal then counts 1 (R285), MEDIA writes its result through, STATUS and OUTBYTES,
and credits what it wrote (R286); and the job ends when nothing is left. A stopped job delivers nothing, resumes or fails by
JOBCTL, and a failed one fails its clasps (R287). The words are said to move where no sector is about to fail (log 61) and the
arbiters of their slices let them (R218); where they do not, the job waits in the queues.

The fields of a failed job's record are log 35. A step that cannot happen in a state answers that state (next state
equal to the state): that is the model's form and no rule (log 6). -/
def Obligations.JobsRun : Prop :=
  ∀ (s : State) (j : Job), s.job? j.id = some j →
    let live := fun (r : ClaspRef) => ∀ co sl i, r = .group co sl i → s.gen co sl = j.gen ∧ (s.group? co sl).isSome = true
    let alone := fun (r : ClaspRef) => ∀ g ∈ s.groups, s.parkedOn g r = []
    let word := fun (sp : Space) (a : Nat) => BitVec.ofNat 32 (leNat ((List.range 4).map (fun i => s.view sp (a + i))))
    (j.started = false → s.gateOpen j = true → s.windowSaved j = false →
      (∀ e ∈ s.allJobs, e.id < j.id → j.after e = false) →
      ∃ t, exec (.jobStart j.id) s = .next t ∧ t.job? j.id = some { j with started := true, born := s.time } ∧ { t with jobs := s.jobs } = s)
    ∧ ((∃ e ∈ s.allJobs, e.id < j.id ∧ j.after e = true) ∨ s.windowSaved j = true ∨ s.gateOpen j = false →
        exec (.jobStart j.id) s = .next s)
    ∧ (∀ k u, j.units[k]? = some u → j.started = true → j.stopped = false → s.jobServed j u.accesses = false →
        ∃ t, exec (.copyDelivery j.id k) s = .next t ∧ t.job? j.id = some { j with asked := s.jobLines j u.accesses }
          ∧ { t with jobs := s.jobs } = s)
    ∧ (∀ k u ps pd, j.units[k]? = some u → j.started = true → j.stopped = false → j.gate = false →
        s.jobServed j u.accesses = true → s.WordsAligned → s.faulty = [] → ps.addr % 4 = 0 → pd.addr % 4 = 0 →
        pd.cameo = false → (∀ d, pd.space = .peer d → pd.addr + 4 ≤ 2 ^ 39) →
        let w := s.jobWalked j u.accesses
        w.jobPlace j u.src .jobRead = .at ps →
        (∀ i, ps.space = .scratch i → s.lineAbsent (i, ps.addr / 128) true = false) →
        (if ps.space = .mem then w.recall (ps.addr / 128) else w).jobPlace j u.dst .jobWrite = .at pd →
        (∀ i, pd.space = .scratch i → (s.team? i).isSome) →
        (pd.space = .mem → s.heldAt (pd.addr / 128) = false) →
        (∀ r, u.credit = some r → alone r ∧ live r ∧ ∃ c, s.clasp? r = some c ∧ c.failed = false ∧ (c.credit 4).failed = false) →
        let read : Word := match j.snap with
          | some n => if ps.cameo = true ∧ ps.space = .mem then
              BitVec.ofNat 32 (leNat (((s.lineAt (ps.addr / 128) n).drop (ps.addr % 128)).take 4))
            else word ps.space ps.addr
          | none => word ps.space ps.addr
        let new : Word := match j.kind with
          | .coll (some op) => atomNew op (word pd.space pd.addr) read 0
          | _ => read
        ∃ t, exec (.copyDelivery j.id k) s = .next t
          ∧ t.job? j.id = some { j with units := j.units.eraseIdx k, born := s.time, asked := [] }
          ∧ (∀ i, i < 4 → t.view pd.space (pd.addr + i) = new.extractLsb' (8 * i) 8)
          ∧ (∀ sp c, (∀ d, sp = .peer d → c < 2 ^ 39) → ¬(sp = pd.space ∧ pd.addr ≤ c ∧ c < pd.addr + 4) →
              t.view sp c = s.view sp c)
          ∧ ∀ r c, u.credit = some r → s.clasp? r = some c → t.clasp? r = some (c.credit 4))
    ∧ (j.started = true → j.stopped = false → j.units = [] → j.signal = none → (∀ dec un b, j.kind ≠ .media dec un b) →
        ∃ t, exec (.jobComplete j.id) s = .next t ∧ t.jobs = s.jobs.filter (fun e => e.id ≠ j.id) ∧ t.mem = s.mem
          ∧ ∀ i tm, s.team? i = some tm → ∃ tm', t.team? i = some tm'
              ∧ tm'.absent = tm.absent.filter (fun y => !(y.entry = j.id && !y.left)))
    ∧ (∀ a pd, j.started = true → j.stopped = false → j.units = [] → j.signal = some a →
        (∀ dec un b, j.kind ≠ .media dec un b) → s.jobServed j [(a, .jobWrite)] = true → s.WordsAligned → s.faulty = [] →
        pd.addr % 4 = 0 → pd.cameo = false → (∀ d, pd.space = .peer d → pd.addr + 4 ≤ 2 ^ 39) →
        (s.jobWalked j [(a, .jobWrite)]).jobPlace j a .jobWrite = .at pd →
        (∀ i, pd.space = .scratch i → (s.team? i).isSome) → (pd.space = .mem → s.heldAt (pd.addr / 128) = false) →
        ∃ t, exec (.jobComplete j.id) s = .next t ∧ t.jobs = s.jobs.filter (fun e => e.id ≠ j.id)
          ∧ (∀ i, i < 4 → t.view pd.space (pd.addr + i) = (word pd.space pd.addr + 1).extractLsb' (8 * i) 8)
          ∧ ∀ sp c, (∀ d, sp = .peer d → c < 2 ^ 39) → ¬(sp = pd.space ∧ pd.addr ≤ c ∧ c < pd.addr + 4) →
              t.view sp c = s.view sp c)
    ∧ (∀ dec un b i, j.kind = .media dec un b → j.started = true → j.stopped = false → j.gate = false → j.units = [] →
        let off := fun (a : JobAddr) => match a with | .win _ o => o | .va _ => 0
        let own := fun (l : List JobAddr) => ∀ a ∈ l, a = .win i (off a) ∧ s.lineAbsent (i, off a / 128) true = false
        let bytes := fun (l : List JobAddr) =>
          l.flatMap (fun a => (List.range 4).map (fun k => s.view (.scratch i) (off a + k)))
        own (j.mediaReads j.block) → own (runsWords j.dstRuns) → (s.team? i).isSome →
        let out := mediaOutcome (bytes (runWords (j.block, 64))) (bytes (runsWords j.srcRuns)) j.esize
          (4 * (runsWords j.dstRuns).length)
        let puts := (runsWords j.dstRuns).zip (bytesWords out.2)
          ++ [(j.block.plus 16, BitVec.ofNat 32 out.2.length), (j.block.plus 20, BitVec.ofNat 32 out.1)]
        (∀ r, j.clasp = some r → alone r) →
        ∃ t, exec (.jobComplete j.id) s = .next t ∧ t.job? j.id = none ∧ t.mem = s.mem
          ∧ (∀ c, t.view (.scratch i) c = puts.foldl (fun v e => if off e.1 ≤ c ∧ c < off e.1 + 4 then
              e.2.extractLsb' (8 * (c - off e.1)) 8 else v) (s.view (.scratch i) c))
          ∧ ∀ r c, j.clasp = some r → s.clasp? r = some c → c.failed = false → live r →
              let n := if out.1 = 4 then 0 else out.2.length
              n = 0 ∨ (c.credit n).failed = false → t.clasp? r = some (if n = 0 then c else c.credit n))
    ∧ (j.stopped = true → (∀ k, exec (.copyDelivery j.id k) s = .next s) ∧ exec (.jobComplete j.id) s = .next s)
    ∧ (∀ c, j.started = true → j.stopped = false → s.meets j = .fatal c →
        ∃ t, exec (.jobFault j.id .fatal) s = .next t ∧ t.job? j.id = none)
    ∧ (∀ r, j.started = true → j.stopped = false → s.meets j = .stop r →
        ∃ t, exec (.jobFault j.id .translation) s = .next t ∧ t.job? j.id = some { j with stopped := true })
    ∧ (∀ core v, s.stoppedJob core v = some j →
        (v.getLsbD 8 = false → ∃ t, exec (.jobctlResume core v) s = .next t
          ∧ t.job? j.id = some { j with stopped := false } ∧ { t with jobs := s.jobs } = s)
        ∧ (v.getLsbD 8 = true → ∃ t, exec (.jobctlFail core v) s = .next t ∧ t.job? j.id = none
          ∧ ∀ r c, j.bound = [r] → s.clasp? r = some c → c.failed = false → (∀ g ∈ s.groups, s.parkedOn g r = []) →
              ∃ c', t.clasp? r = some c' ∧ c'.failed = true ∧ c'.fcode = 1))

/-! ## Clasps -/

/-- The events of R291 on a clasp that has not failed, and their test: an arrival beyond EXP fails it with code 3, the one
that brings ARR to EXP with nothing pending flips PHASE and zeroes ARR; credits and expects move PEND, which fails with
code 3 outside its 36 bits; a failed clasp keeps its code.

A lane that is parked on a clasp, alone, leaves its WAIT with its predicate set when a phase completes (R292), and a
clasp whose timer has run out while a lane waits fails with code 2, which raises CLASPTO in that lane (R295), where no
pre-emption has stopped the group (R61).

The readings of the clasp rules are log 34 and 38. A step that cannot happen in a state answers that state (next
state equal to the state): that is the model's form and no rule (log 6). -/
def Obligations.ClaspPhases : Prop :=
  (∀ c : Clasp, c.failed = false →
      let next := fun d : Clasp => if d.arr = d.exp ∧ d.pend = 0 then { d with phase := !d.phase, arr := 0 } else d
      (c.arr = c.exp → c.arrive = { c with failed := true, fcode := 3, timer := 0 })
      ∧ (c.arr ≠ c.exp → c.arrive = next { c with arr := c.arr + 1, timer := 0 })
      ∧ (∀ n : Nat, c.pend - n < -(2 ^ 35) → c.credit n = { c with failed := true, fcode := 3, timer := 0 })
      ∧ (∀ n : Nat, -(2 ^ 35) ≤ c.pend - n → c.credit n = next { c with pend := c.pend - n, timer := 0 })
      ∧ (∀ n : Nat, (2 ^ 35 ≤ n ∨ 2 ^ 35 ≤ c.pend + n) → c.expect n = { c with failed := true, fcode := 3, timer := 0 })
      ∧ (∀ n : Nat, n < 2 ^ 35 → c.pend + n < 2 ^ 35 → c.expect n = next { c with pend := c.pend + n, timer := 0 })
      ∧ (∀ (k n : Nat) (d : Clasp), d.failed = true → d.fail k = d ∧ d.arrive = d ∧ d.credit n = d ∧ d.expect n = d))
  ∧ (∀ (s : State) (g : Group) (r : ClaspRef) (c : Clasp) (k d : BitVec 7) (j : Nat), s.SlotsApart → g ∈ s.groups →
      g.lanes.length = 32 → j < 32 → (g.lane j).st = .park (.clasp k d) → s.claspRef g k = some r → s.clasp? r = some c →
      c.failed = false → d.toNat < 8 → waitBit k < 44 →
      (∀ h ∈ s.groups, ∀ i, i < 32 → ¬(h = g ∧ i = j) → ∀ k d, (h.lane i).st = .park (.clasp k d) → s.claspRef h k ≠ some r) →
      ¬(g.slot < 15 ∧ (s.coreBlock g.core).stepMask.getLsbD g.slot = true) → s.isStopped g = false →
      (c.pend = 0 → c.arr.toNat + 1 = c.exp.toNat →
        ∃ g', (s.claspEvent r Clasp.arrive).group? g.core g.slot = some g' ∧ g.SameRegs { g' with clasps := g.clasps }
          ∧ (g'.lane j).pc = g.goesTo (g.lane j).after ∧ (g'.lane j).pred d.toNat = true
          ∧ (g'.lane j).st = s.runState g.core g.slot
          ∧ (g'.lane j).wbits.getLsbD (waitBit k) = !c.phase)
      ∧ (∀ y, s.claspCtx r = some y →
          ((y.claspTmo = 0 ∨ c.timer < y.claspTmo) → exec (.claspTimeout r) s = .next s)
          ∧ (y.claspTmo ≠ 0 → y.claspTmo ≤ c.timer → ∃ t g', exec (.claspTimeout r) s = .next t
              ∧ t.clasp? r = some { c with failed := true, fcode := 2 } ∧ t.group? g.core g.slot = some g'
              ∧ (g.lane j).Trapped (g'.lane j)
                  { code := 0x08, auxa := c.word0, auxb := { c with failed := true, fcode := 2 : Clasp }.word1 })))

/-- The clasp instructions (R290 to R292), where no lane waits on the clasp yet: a lane whose wait bit differs from PHASE has
a completed phase to see, and its WAIT and CLTEST set its predicate and acquire, so that loads which its core's groups have
performed ahead are performed again (R231, R293); the others park at a WAIT and get a zero from CLTEST;
ARRIVE counts each lane of L, and ARWAIT parks it as well; EXPECT adds to PEND; a failed clasp clears the predicate and
writes S62, or raises CLASPTO after a timeout; an undeclared one takes PROTECT. -/
def Obligations.ClaspInstructions : Prop :=
  ∀ (s : State) (x : Exts) (p : Path) (d k : BitVec 7) (r : ClaspRef) (c : Clasp),
    s.Issues x (Exts.guard x) p → p.L ≠ 0 → s.claspRef p.g k = some r → s.clasp? r = some c →
    (∀ g ∈ s.groups, s.parkedOn g r = []) →
    let sees := fun j => (p.g.lane j).wbits.getLsbD (waitBit k) ≠ c.phase
    let mark := fun (l : Lane) (b : Bool) => ({ l with wbits := setBit l.wbits (waitBit k) b } : Lane)
    let n := (lanesOf p.L).length
    let seen := fun (t : State) => (s.dropEarly p.core (fun _ => true)).Resumes t p.core p.slot p.I p.next
      (p.g.modLanes p.L (fun _ l => (mark l c.phase).setPred d.toNat true))
    (c.declared = false → ∀ b, ∀ i ∈ [Instr.arrive x k, .wait x d k, .arwait x d k, .expect x k b, .cltest x d k],
      ∃ t, exec i s = .next t ∧ s.PathTraps t p { code := 0x05, sub := 4 })
    ∧ (c.declared = true → c.failed = false →
        ((∀ j, j < 32 → p.L.getLsbD j = true → sees j) →
          (∃ t, exec (.wait x d k) s = .next t ∧ seen t) ∧ (∃ t, exec (.cltest x d k) s = .next t ∧ seen t))
        ∧ ((∀ j, j < 32 → p.L.getLsbD j = true → ¬sees j) →
          (∃ t, exec (.wait x d k) s = .next t ∧ s.Parks t p (fun _ l =>
            { l with st := .park (.clasp k d), after := p.next, issue := p.L }))
          ∧ ∃ t h, exec (.cltest x d k) s = .next t ∧ s.Goes t p h ∧ p.g.Took h p.L (inPred d (fun _ => false)))
        ∧ (∀ b, ∃ (u t : State) (h : Group), exec (.expect x k b) s = .next t ∧ u.Goes t p h
            ∧ u.clasp? r = some (c.expect (p.g.rs b.toNat).toNat) ∧ u.mem = s.mem
            ∧ { h with clasps := p.g.clasps, lanes := p.g.lanes } = p.g
            ∧ ((c.expect (p.g.rs b.toNat).toNat).failed = false → h.lanes = p.g.lanes))
        ∧ (s.fenceReady p.core p.slot 1 (claspScope k) = true → c.arr.toNat + n < c.exp.toNat →
          ∃ (u t : State) (h : Group), exec (.arrive x k) s = .next t ∧ u.Goes t p h
            ∧ u.clasp? r = some { c with arr := c.arr + BitVec.ofNat 32 n, timer := 0 } ∧ u.mem = s.mem
            ∧ { h with clasps := p.g.clasps, lanes := p.g.lanes } = p.g
            ∧ ∀ j, j < 32 → h.lane j = if p.L.getLsbD j = true then mark (p.g.lane j) c.phase else p.g.lane j)
        ∧ (s.fenceReady p.core p.slot 1 (claspScope k) = true → c.arr.toNat + n < c.exp.toNat →
          ∃ (u t : State), exec (.arwait x d k) s = .next t ∧ t.clasp? r = some { c with
              arr := c.arr + BitVec.ofNat 32 n, timer := 0 } ∧ u.mem = s.mem ∧ u.Parks t
              { p with g := { p.g with clasps := ((u.group? p.core p.slot).map Group.clasps).getD [] } }
              (fun _ l => { mark l c.phase with st := .park (.clasp k d), after := p.next, issue := p.L }))
        ∧ (s.fenceReady p.core p.slot 1 (claspScope k) = true → c.pend = 0 → n = 1 → c.arr.toNat + 1 = c.exp.toNat →
          ∃ t, exec (.arrive x k) s = .next t
            ∧ t.clasp? r = some { c with arr := 0, phase := !c.phase, timer := 0 }))
    ∧ (c.declared = true → c.failed = true → c.fcode = 2 → ∀ i ∈ [Instr.wait x d k, .cltest x d k],
        ∃ t, exec i s = .next t ∧ s.PathTraps t p { code := 0x08, auxa := c.word0, auxb := c.word1 })
    ∧ (c.declared = true → c.failed = true → c.fcode ≠ 2 → ∀ i ∈ [Instr.wait x d k, .cltest x d k],
        ∃ t h, exec i s = .next t ∧ s.Goes t p h ∧ p.g.Took h p.L
          { inPred d (fun _ => false) with s := some (62, BitVec.ofNat 64 (c.fcode + 256 * k.toNat)) })

/-! ## Register pools and regrouping -/

/-- Register pools (R54, R55, R297): RCLAIM parks the issuing path at the RCLAIM and the group's other running lanes where
they stand, and queues its claim; a granted claim adds its granules to the allocation, takes them from the pool and lets
the lanes go on; RREL gives granules back, and what they held is gone; beyond 128 granules, or below one, PROTECT.

Claim deadlock (R56) of a team with one group: when it is parked on a pending claim that cannot be granted, the claims
are withdrawn and every parked lane takes CLAIMDL with the claim's size and the pool; otherwise nothing happens.

The readings of the claim rules are log 34. A step that cannot happen in a state answers that state (next state
equal to the state): that is the model's form and no rule (log 6). -/
def Obligations.RegisterPools : Prop :=
  ((∀ (s : State) (x : Exts) (p : Path) (n : BitVec 7), s.Issues x (Exts.guard x) p → p.L ≠ 0 →
      (128 < p.g.alloc + n.toNat → ∃ t, exec (.rclaim x n) s = .next t ∧ s.PathTraps t p { code := 0x05, sub := 4 })
      ∧ (p.g.alloc ≤ n.toNat → ∃ t, exec (.rrel x n) s = .next t ∧ s.PathTraps t p { code := 0x05, sub := 4 })
      ∧ (∀ id tm, p.g.team = some id → s.team? id = some tm → p.g.alloc + n.toNat ≤ 128 →
          ∃ t g' tm', exec (.rclaim x n) s = .next t ∧ t.group? p.core p.slot = some g' ∧ s.OthersKept t p.core p.slot
            ∧ { g' with lanes := p.g.lanes } = p.g ∧ t.team? id = some tm'
            ∧ tm' = { tm with claims := tm.claims ++ [(p.slot, n.toNat)] }
            ∧ ∀ j, j < 32 → (g'.lane j).pc = (p.g.lane j).pc ∧ (g'.lane j).st =
                if p.I.getLsbD j = true then .park (.claim true)
                else if (p.g.lane j).st = .run then .park (.claim false) else (p.g.lane j).st)
      ∧ (∀ id tm, p.g.team = some id → s.team? id = some tm → n.toNat < p.g.alloc →
          s.loadsInto p.core p.slot (4 * (p.g.alloc - n.toNat)) = false →
          ∃ (u t : State) (h : Group), exec (.rrel x n) s = .next t ∧ u.Goes t p h
            ∧ u.team? id = some { tm with pool := tm.pool + n.toNat }
            ∧ { h with v := p.g.v, alloc := p.g.alloc } = p.g ∧ h.alloc = p.g.alloc - n.toNat
            ∧ ∀ a j, j < 32 → h.rv a j = if a < 4 * h.alloc then p.g.rv a j else 0))
    ∧ ∀ (s : State) (tm : Team) (slot n : Nat) (rest : List (Nat × Nat)) (g : Group), s.team? tm.id = some tm →
      tm.claims = (slot, n) :: rest → s.group? tm.core slot = some g → g.lanes.length = 32 →
      ¬(slot < 15 ∧ (s.coreBlock tm.core).stepMask.getLsbD slot = true) → g.team = some tm.id →
      s.isStopped g = false → (∀ e ∈ rest, e.1 ≠ slot) →
      (tm.pool < n → exec (.claimGrant tm.id) s = .next s)
      ∧ (n ≤ tm.pool → ∀ e, (∀ j, j < 32 → (g.lane j).st = .park (.claim true) → (g.lane j).after = e) →
          ∃ t g', exec (.claimGrant tm.id) s = .next t ∧ t.group? tm.core slot = some g' ∧ g'.alloc = g.alloc + n
            ∧ g'.v = g.v ∧ t.team? tm.id = some { tm with claims := rest, pool := tm.pool - n }
            ∧ ∀ j, j < 32 →
                ((g.lane j).st = .park (.claim true) → (g'.lane j).st = .run ∧ (g'.lane j).pc = g.goesTo e)
                ∧ ((g.lane j).st = .park (.claim false) → (g'.lane j).st = .run ∧ (g'.lane j).pc = (g.lane j).pc)))
  ∧ (∀ (s : State) (tm : Team) (g : Group) (n : Nat), s.team? tm.id = some tm → s.SlotsApart → g ∈ s.groups →
      (∀ h ∈ s.groups, h.team = some tm.id ↔ h = g) →
      g.lanes.length = 32 → g.core = tm.core → tm.claims = [(g.slot, n)] →
      (∀ j, j < 32 → (g.lane j).st = .park (.claim true) ∨ (g.lane j).st = .exit) → (∃ j, j < 32 ∧ (g.lane j).st ≠ .exit) →
      s.isStopped g = false → (n ≤ tm.pool → exec (.claimdl tm.id) s = .next s)
      ∧ (tm.pool < n → ∃ t g', exec (.claimdl tm.id) s = .next t ∧ t.team? tm.id = some { tm with claims := [] }
          ∧ t.group? g.core g.slot = some g' ∧ g.SameRegs g' ∧ ∀ j, j < 32 → (g.lane j).st = .park (.claim true) →
            (g.lane j).Trapped (g'.lane j) { code := 0x07, auxa := BitVec.ofNat 64 n, auxb := BitVec.ofNat 64 tm.pool }))

/-- REGROUP (R57, R298): every issuing lane parks with its key; once all live lanes of a role of one group stand at it, the
lanes are placed in ascending key order, lanes of one key in their old order, with the registers that the live mask names, and go
on after the REGROUP. -/
def Obligations.Regrouping : Prop :=
  (∀ (s : State) (x : Exts) (p : Path) (a b : BitVec 7), s.Issues x (Exts.guard x) p →
    p.g.hasRegs (vuse (Exts.uniA x) a 1) = true →
    ∃ t g', exec (.regroup x a b) s = .next t ∧ s.OnlyGroup t p.core p.slot g' ∧ { g' with lanes := p.g.lanes } = p.g
      ∧ ∀ j, j < 32 → g'.lane j = if p.I.getLsbD j = true then
          { p.g.lane j with st := .park (.regroup ((p.g.srcA x a j).setWidth 16) b.toNat), after := p.next, issue := p.I }
        else p.g.lane j)
  ∧ ∀ (s : State) (id role : Nat) (g : Group) (key : Nat → BitVec 16) (sreg : Nat) (e : DWord), s.SlotsApart → g ∈ s.groups →
    (∀ h ∈ s.groups, h.team = some id ∧ h.roleId = role ↔ h = g) → g.lanes.length = 32 → g.txn = none →
        s.loadsDone g.core g.slot = true → s.isStopped g = false →
    ¬(g.slot < 15 ∧ (s.coreBlock g.core).stepMask.getLsbD g.slot = true) → s.claimPending g.core g.slot = false →
    (∀ j, j < 32 → (g.lane j).st = .park (.regroup (key j) sreg) ∧ (g.lane j).after = e) →
    ∃ (t : State) (g' : Group) (from_ : Nat → Nat), exec (.regroupExecute id role) s = .next t
      ∧ t.group? g.core g.slot = some g' ∧ { g' with lanes := g.lanes, lc := g.lc, v := g.v } = g
      ∧ (∀ j, j < 32 → from_ j < 32) ∧ (∀ i j, i < 32 → j < 32 → from_ i = from_ j → i = j)
      ∧ (∀ i j, i < j → j < 32 → (key (from_ i)).toNat < (key (from_ j)).toNat
          ∨ key (from_ i) = key (from_ j) ∧ from_ i < from_ j)
      ∧ ∀ j, j < 32 → (g'.lane j).st = .run ∧ (g'.lane j).pc = g.goesTo e ∧ (g'.lane j).preds = (g.lane (from_ j)).preds
          ∧ (g'.lane j).flags = (g.lane (from_ j)).flags ∧ (g'.lane j).rets = (g.lane (from_ j)).rets
          ∧ ∀ a, g'.rv a j = if g.wbase ≤ a ∧ a < g.wbase + 64 ∧ a < 4 * g.alloc
              ∧ (g.rs sreg).getLsbD (a - g.wbase) = true then g.rv a (from_ j) else 0

/-! ## Issue, pre-emption, saved teams -/

/-- One cycle of a core (R45 to R51): where the lanes that run on the core are one group's and the pipes are free, its
primary path joins the issue queue (log 2) with its running lanes and the slack tag of one ready group (R218). Of the
eligible paths the primary is an unyielded one before a yielded one, then the one of more lanes, then the one at the lower
PC; once a lane of one has waited 32 opportunities, it is the path with the longest wait, then the lower PC (R48, R49). A
second path issues beside it exactly where one is a candidate: at another PC, of the same class of pipe, neither writing a
uniform register, within two crossbar ports, and reading nothing that the primary writes; the best by the same rank is
taken (R46, R48, R82, R83). Issued lanes' wait counts restart, those of the other eligible lanes grow by one, unless they wait
for the primary's writes, and every yield count falls by one (R49, R50). Where no lane runs, or the context has stopped,
nothing is issued. The core's buffers may have lost lines of text (log 16).

The readings of the scheduler's rules are log 41, the issue queue is log 2. -/
def Obligations.IssueSelectsAPath : Prop :=
  ∀ (s : State) (core : Nat) (lost : List Nat), s.thermal = false → core < s.ncores →
    ((∀ g ∈ s.groups, g.core = core → (∀ j, (g.lane j).running = false)
        ∨ g.keeper = false ∧ s.stopped.contains (core, s.ctxOf g) = true) →
      ∃ t, exec (.issueOpportunity ⟨core, lost⟩) s = .next t ∧ { t with cores := s.cores } = s)
    ∧ ∀ (slot : Nat) (g : Group),
        let d := (s.coreBlock core).sched
        let u := s.loseText core lost
        slot < 15 → s.SlotsApart → s.group? core slot = some g → g.lanes.length = 32 →
        (∀ l h, l ≠ slot → s.group? core l = some h → ∀ j, (h.lane j).running = false) →
        s.savedTeams = [] → s.stopped = [] →
        d.xbar = none → d.f64 = 0 → d.sfu = 0 → d.fma0 = 0 → d.fma1 = 0 →
        let cs := (u.paths g).filter (u.eligible d (if slot < 8 then 0 else 1) g)
        let lanes := fun (c : Cand) (j : Nat) => j < 32 ∧ c.lanes.getLsbD j = true
        let yields := fun c : Cand => ∀ j, lanes c j → (g.lane j).yield ≠ 0
        let size := fun c : Cand => ((List.range 32).filter (fun j => c.lanes.getLsbD j)).length
        let better := fun a b : Cand => (¬yields a ∧ yields b)
          ∨ ((yields a ↔ yields b) ∧ (size b < size a ∨ size a = size b ∧ a.pc.toNat < b.pc.toNat))
        let beside := fun p c : Cand => p.pipe.pairs = true ∧ c.pipe = p.pipe ∧ c.pc ≠ p.pc ∧ p.writesUniform = false
          ∧ c.writesUniform = false ∧ p.ports + c.ports ≤ 2
        cs ≠ [] →
        ∃ (t : State) (g' : Group) (p : Cand) (rest : List Cand), exec (.issueOpportunity ⟨core, lost⟩) s = .next t
          ∧ t.issueQ = s.issueQ ++ (p :: rest).map (fun c =>
              { core := core, slot := slot, pc := c.pc, lanes := c.lanes, tag := 1 })
          ∧ p ∈ cs ∧ (∀ j, lanes p j ↔ j < 32 ∧ (g.lane j).running = true ∧ (g.lane j).pc = p.pc)
          ∧ ((∀ c ∈ cs, ∀ j, lanes c j → (g.lane j).wait < 32) → ∀ c ∈ cs, c.pc ≠ p.pc → better p c)
          ∧ ((∃ c ∈ cs, ∃ j, lanes c j ∧ 32 ≤ (g.lane j).wait) → ∃ j, lanes p j ∧ ∀ c ∈ cs, ∀ i, lanes c i →
              (g.lane i).wait ≤ (g.lane j).wait ∧ ((g.lane i).wait = (g.lane j).wait → p.pc.toNat ≤ c.pc.toNat))
          ∧ (rest = [] → ∀ c ∈ cs, beside p c → c.readsFrom g p = true)
          ∧ (rest ≠ [] → ∃ q ∈ cs, rest = [q] ∧ beside p q ∧ q.readsFrom g p = false
              ∧ ∀ c ∈ cs, beside p c → c.readsFrom g p = false → c.pc ≠ q.pc → better q c)
          ∧ t.group? core slot = some g' ∧ s.OthersKept t core slot
          ∧ { g' with lanes := g.lanes, ended := g.ended } = g ∧ g'.ended = 0
          ∧ (∀ j, j < 32 → (g'.lane j) = { g.lane j with wait := (g'.lane j).wait, yield := (g.lane j).yield - 1 }
              ∧ ((∃ c ∈ p :: rest, lanes c j) → (g'.lane j).wait = 0)
              ∧ ((∀ c ∈ cs, ¬lanes c j) → (g'.lane j).wait = (g.lane j).wait)
              ∧ (∀ c ∈ cs, lanes c j → c.pc ≠ p.pc → c ∉ rest →
                  (g'.lane j).wait = if (c.candidate p && c.readsFrom g p) = true then (g.lane j).wait else (g.lane j).wait + 1))
          ∧ { t with groups := s.groups, issueQ := s.issueQ, cores := s.cores } = s

/-- Pre-emption of a queue (R61, R325, R355, R356): PREEMPT is set in its row; a core that it asks to stop stops for the
context, and the transactions of the context's groups there are doomed; the drain ends when nothing of the context is
under way; when every team of the queue's launches is saved, but for one that only waits for jobs of saved teams (R288, log 76), its launches stand in LSAVE and PREEMPTED is raised; clearing
PREEMPT lets the cores that no other row stops go on.

The readings of the pre-emption rules are log 43. A step that cannot happen in a state answers that state (next
state equal to the state): that is the model's form and no rule (log 6). -/
def Obligations.QueuesArePreempted : Prop :=
  ∀ s : State,
    (∀ q, (s.row q).valid = true → ∃ t, exec (.preemptSet q) s = .next t ∧ s.RowIs t q { s.row q with preempt := true }
        ∧ { t with rows := s.rows } = s)
    ∧ (∀ core ctx, s.stopAsked core ctx = true → (core, ctx) ∉ s.stopped →
        ∃ t, exec (.preemptStop core ctx) s = .next t ∧ t.stopped = s.stopped ++ [(core, ctx)]
          ∧ { t with stopped := s.stopped, groups := s.groups } = s
          ∧ ∀ c l g, s.group? c l = some g → ∃ g', t.group? c l = some g' ∧ { g' with txn := g.txn } = g
            ∧ (g.core = core → g.keeper = false → s.ctxOf g = ctx → ∀ y, g.txn = some y →
                g'.txn = some { y with doomed := true, bytes := [] })
            ∧ (¬(g.core = core ∧ g.keeper = false ∧ s.ctxOf g = ctx) → g' = g))
    ∧ (∀ core ctx, (core, ctx) ∈ s.stopped → (core, ctx) ∉ s.drained →
        ((∃ g ∈ s.groups, g.keeper = false ∧ g.core = core ∧ s.ctxOf g = ctx ∧ s.loadsDone g.core g.slot = false) →
          exec (.preemptDrainDone core ctx) s = .next s)
        ∧ ((s.allJobs.map Job.id).Nodup → (∃ j ∈ s.jobs, j.ctx.ctxid = ctx ∧ (j.started = true ∨ s.gateOpen j = true
            ∧ s.windowSaved j = false ∧ ∀ e ∈ s.allJobs, j.after e = false)) → exec (.preemptDrainDone core ctx) s = .next s)
        ∧ (s.writes = [] → s.acks = [] → s.loads = [] → s.jobs = [] → (∀ e ∈ s.engines, e.entries = []) →
          ∃ t, exec (.preemptDrainDone core ctx) s = .next t ∧ t.drained = s.drained ++ [(core, ctx)]
            ∧ { t with drained := s.drained } = s))
    ∧ ∀ q, (s.row q).valid = true → (s.row q).preempt = true →
        let d := s.qdescOf q
        (∀ l ∈ s.launchesOf d.addr, (∃ t ∈ s.teams, t.launch = l.id ∧ s.nothingToSave t = false) →
          exec (.launchSaveWrite q) s = .next s)
        ∧ (∀ l, (s.row q).lsaved = false → s.launchesOf d.addr = [l] →
          (∀ t ∈ s.teams, t.launch = l.id → s.nothingToSave t = true) → s.WordsAligned →
          l.body.length = 64 → l.grid.length = 8 → s.backedRange d.lsave 256 = true →
          ∃ t, exec (.launchSaveWrite q) s = .next t ∧ (t.row q).lsaved = true ∧ t.raised 6 d.addr ∧ t.groups = s.groups
            ∧ t.launches = s.launches ∧ t.deviceNum d.lsave 4 = l.next % 2 ^ 32
            ∧ t.deviceNum (d.lsave + 4) 4 = l.retired % 2 ^ 32)
        ∧ ∃ t, exec (.preemptClear q) s = .next t ∧ (t.row q).preempt = false
          ∧ ((∀ g ∈ s.groups, ∀ j, (∀ k d, (g.lane j).st ≠ .park (.clasp k d)) ∧ ∀ ls, (g.lane j).st ≠ .park (.presence ls)) →
            t.groups = s.groups ∧ t.teams = s.teams)
          ∧ (∀ e, e ∈ t.stopped ↔ e ∈ s.stopped ∧ t.stopAsked e.1 e.2 = true)
          ∧ ((s.row q).lsaved = false → t.launches = s.launches)

/-- Saving, restoring and discarding a team (R63, R326, R327), and an error of on-core storage (R328): a saved team leaves
its core with its groups, and its save area holds its context, its index and the record of each group in GROUPID order; a
restored one stands on the core that restores it, when that fits it and its gang (R62, R215), with the groups that the records
give, its clasps, its pool and its claims. A record holds the lanes, the uniform registers and the registers of the saved set
of its group, and what is read back from it is the group, lane by lane and register by register, with zero in every other
register, its timers restarted (R296) and a transaction doomed (R245). A discarded team is gone, and its launch will end with
FAULTED where nothing has ended it otherwise; a corrected on-core error discards nothing, and an uncorrectable one discards
every team of the context on the core and leaves the record of the lane unread in the signet queue. Which of several saved
teams an area names is log 42.

The readings of the save and restore rules are log 42. A step that cannot happen in a state answers that state (next
state equal to the state): that is the model's form and no rule (log 6). -/
def Obligations.TeamsAreSavedAndRestored : Prop :=
  let shape := fun g : Group => g.lanes.length = 32 ∧ g.q.length = 4 ∧ g.n.length = 4 ∧ g.lc.length = 3 ∧ g.clasps.length = 4
  (∀ (s : State) (core : Nat) (v : DWord) (tm : Team), s.saveTarget core v = some tm → core < s.cores.length →
    let base := (s.coreBlock core).savePtr.toNat
    let area := s.saveEnd tm base - base
    let gs := s.teamGroups tm
    let set := fun g : Group => s.savedSet g (((s.launch? tm.launch).map Launch.live).getD [])
      (((s.launch? tm.launch).map Launch.textEnd).getD 0)
    let at' := fun n : Nat => (gs.take n).foldl (fun a g => align128 (a + recordLen g.ntiles g.naccs (set g).length))
      (base + 0x1000 + 65536 * tm.granules)
    (v.getLsbD 8 = false → v.getLsbD 9 = false → (s.coreBlock core).saveBusy = false →
      (s.canSave tm = false → exec (.savectlSave core v) s = .next s)
      ∧ (s.canSave tm = true → s.backed base = false ∨ s.framesLost base area = true →
          ∃ t, exec (.savectlSave core v) s = .next t
            ∧ (t.coreBlock core).saveUnreadable = true ∧ { t with cores := s.cores } = s)
      ∧ (s.canSave tm = true → s.framesLost base area = false → s.WordsAligned →
          s.backedRange base (s.headerBytes tm).length = true →
          ∃ t y, exec (.savectlSave core v) s = .next t ∧ (t.coreBlock core).saveBusy = true ∧ t.team? tm.id = none
            ∧ (∀ g ∈ t.groups, g.team ≠ some tm.id) ∧ (∀ j ∈ t.jobs, j.team ≠ tm.id)
            ∧ t.savedTeams = s.savedTeams ++ [y] ∧ y.launch = tm.launch ∧ y.team = { tm with scratch := [] } ∧ y.area = base
            ∧ t.deviceNum base 4 = tm.ctx.ctxid.toNat ∧ t.deviceNum (base + 4) 4 = tm.lin % 2 ^ 32
            ∧ (s.backedRange base area = true → (∀ g ∈ gs, shape g) → ∀ n g k, gs[n]? = some g →
                k < (s.groupBytes g (set g)).length →
                t.view .mem (at' n + k) = (s.groupBytes g (set g)).getD k 0)))
    ∧ (v.getLsbD 9 = true → ∃ t, exec (.savectlDiscard core v) s = .next t ∧ t.team? tm.id = none
        ∧ (∀ g ∈ t.groups, g.team ≠ some tm.id)
        ∧ ∀ l, s.launch? tm.launch = some l →
            t.launch? tm.launch = none ∨ ∃ l', t.launch? tm.launch = some l'
              ∧ l'.fate = (if l.fate = 0 ∨ l.fate = 5 then 5 else l.fate)))
  ∧ (∀ (s : State) (core : Nat) (v : DWord) (y : SavedTeam) (l : Launch), v.getLsbD 8 = true → v.getLsbD 9 = false →
    (s.coreBlock core).saveBusy = false → core < s.ncores → core < s.cores.length →
    let base := (s.coreBlock core).savePtr.toNat
    let b := s.deviceBytes base 0x240
    field b 18 1 / 16 = 1 → s.badIn base 0x240 = none → s.savedFor base b = some y → s.launch? y.launch = some l →
    s.badIn base (s.areaLen base b) = none →
    let room := fits s.freeOf (restoreNeed b y.team) [] core && s.gangFits y.team core
    (room = false → ∃ t, exec (.savectlRestore core v) s = .next t
        ∧ (t.coreBlock core).saveNoFit = true ∧ { t with cores := s.cores } = s)
    ∧ (room = true → ∃ t tm, exec (.savectlRestore core v) s = .next t
        ∧ (t.coreBlock core).saveBusy = true ∧ (t.coreBlock core).saveNoFit = false
        ∧ tm ∈ t.teams ∧ tm.id = y.team.id ∧ tm.core = core ∧ tm.launch = y.team.launch ∧ tm.lin = y.team.lin
        ∧ (∀ z ∈ t.savedTeams, ¬(z.launch = y.launch ∧ z.team.id = y.team.id))
        ∧ tm.clasps = loadClasps y.team.clasps (slice b 0x40 256) ∧ tm.pool = y.team.pool / 256 * 256 + field b 16 1
        ∧ (∀ e ∈ tm.claims, ∃ i, i < 15 ∧ e.2 = field b (35 + i) 1 ∧ ∃ g ∈ t.groups, g.team = some tm.id ∧ g.slot = e.1
            ∧ g.groupId = field b (20 + i) 1)
        ∧ (∀ z ∈ t.gangs, z.launch = y.team.launch → z.idx = y.team.gang → ∀ c ∈ z.clasps, c.timer = 0)
        ∧ (s.faulty = [] → s.upartials = [] → ∀ n, n < field b 13 1 →
            let at' := fun k : Nat => s.recordsEnd k (base + 0x1000 + 65536 * field b 14 1)
            (∀ k, k ≤ n → s.backedRange (at' k) 0xF00 = true) →
            let h := (loadGroup' y.team l y.groups (s.bytes .mem (at' n) maxGroupBytes)).1
            (∀ j, (∀ k d, (h.lane j).st ≠ .park (.clasp k d)) ∧ ∀ ls, (h.lane j).st ≠ .park (.presence ls)) →
            ∃ slot, slot < 15 ∧ s.group? core slot = none
              ∧ t.group? core slot = some { h with core := core, slot := slot })))
  ∧ (∀ (s : State) (g : Group) (set : List Nat) (j : Nat), shape g → j < 32 → set.Nodup → (∀ a ∈ set, a < 512) →
      let b := s.groupBytes g set
      let e := 0x10 + 16 * j
      let l := g.lane j
      b.length = 0xF00 + 2048 * g.ntiles + 16384 * g.naccs + 128 * set.length
      ∧ field b 0 2 = g.wbase % 65536 ∧ field b 2 1 = g.alloc % 256 ∧ field b 3 1 = g.roleId % 256
      ∧ field b 4 1 = g.roleGrp % 256 ∧ field b 5 1 = g.groupId % 256 ∧ field b 6 1 = g.ntiles % 256
      ∧ field b 7 1 = g.naccs % 256
      ∧ field b e 4 = ((l.pc - (s.textOf g).1).setWidth 32 : Word).toNat ∧ field b (e + 4) 1 = (laneCode l.st).1
      ∧ field b (e + 5) 1 = (laneCode l.st).2 ∧ field b (e + 6) 1 = l.yield % 256 ∧ field b (e + 7) 1 = l.rets.length % 256
      ∧ field b (e + 8) 4 = l.seq.toNat ∧ field b (e + 12) 1 = l.preds.toNat ∧ field b (e + 13) 1 = l.flags.toNat
      ∧ (∀ n, n < 64 → field b (0x210 + 8 * n) 8 = (g.rs n).toNat) ∧ field b (0x568 + 8 * j) 8 = l.wbits.toNat
      ∧ (∀ r, l.svc = some r → slice b (0x668 + 64 * j) 64 = recordBytes g.core g.slot j (s.gen g.core g.slot) r)
      ∧ (∀ a, a < 512 → (bitN (field b 0xE68 64) a = true ↔ a ∈ set))
      ∧ ∀ k a, set[k]? = some a →
          field b (0xF00 + 2048 * g.ntiles + 16384 * g.naccs + 128 * k + 4 * j) 4 = (g.rv a j).toNat)
  ∧ (∀ (s : State) (g : Group) (tm u : Team) (l : Launch) (p : Nat → Bool) (pad : List Byte), s.teamOf g = some u →
      u.textBase = tm.textBase → shape g → g.alloc ≤ 128 → g.wbase < 65536 → g.roleId < 256 → g.roleGrp < 256 →
      g.groupId < 256 → g.ntiles < 256 → g.naccs < 256 →
      let near := fun pc : DWord => (pc - tm.textBase).toNat < 2 ^ 32
      (∀ j, j < 32 → (g.lane j).yield < 256 ∧ (g.lane j).rets.length < 256 ∧ near (g.lane j).pc ∧ near (g.lane j).after
        ∧ ((g.lane j).svc.isSome = true ↔ (g.lane j).st = .park .fault ∨ (g.lane j).st = .park .syscall)
        ∧ ∀ r, (g.lane j).svc = some r → r.fwd = true → r.code = 0x11) →
      let set := (List.range (4 * g.alloc)).filter p
      let h := (loadGroup' tm l [s.savedGroup g] (s.groupBytes g set ++ pad)).1
      h.core = tm.core ∧ h.team = some tm.id ∧ h.groupId = g.groupId ∧ h.roleId = g.roleId ∧ h.roleGrp = g.roleGrp
      ∧ h.alloc = g.alloc ∧ h.wbase = g.wbase ∧ h.ntiles = g.ntiles ∧ h.naccs = g.naccs ∧ h.q = g.q ∧ h.n = g.n
      ∧ h.burst = g.burst ∧ h.fpctl = g.fpctl &&& 3 ∧ h.relScope = g.relScope
      ∧ h.txn = g.txn.map (fun y => { snap := y.snap, doomed := true })
      ∧ (∀ j, j < 32 → { h.lane j with wait := (g.lane j).wait } = g.lane j)
      ∧ (∀ n, n < 64 → h.rs n = g.rs n) ∧ (∀ n, n < 8 → sget h.g n = mapMask (sget g.g n))
      ∧ (∀ (n : Nat) (c : LoopCounter), g.lc[n]? = some c → near c.start → near c.stop → h.lc[n]? = some c)
      ∧ (∀ (n : Nat) (c : Clasp), g.clasps[n]? = some c → c.fcode < 8 → -(2 ^ 35) ≤ c.pend → c.pend < 2 ^ 35 →
          ∃ c', h.clasps[n]? = some c' ∧ c'.timer = 0 ∧ { c' with timer := c.timer, declared := c.declared } = c)
      ∧ (∀ a j, j < 32 → h.rv a j = if a ∈ set then g.rv a j else 0)
      ∧ (∀ i, i < 2048 * g.ntiles → sget h.t i = sget g.t i) ∧ ∀ i, i < 4096 * g.naccs → sget h.m i = sget g.m i)
  ∧ (∀ (s : State) (core : Nat), ∃ t, exec (.saveComplete core) s = .next t ∧ { t with cores := s.cores } = s
      ∧ t.coreBlock core = { s.coreBlock core with saveBusy := false } ∧ ∀ c, c ≠ core → t.coreBlock c = s.coreBlock c)
  ∧ ∀ (s : State) (core slot lane : Nat) (g : Group), s.group? core slot = some g → lane < 32 →
      core / 32 < s.tus.length →
      (∃ t, exec (.onCoreError core slot ⟨lane, true⟩) s = .next t ∧ t.groups = s.groups ∧ t.teams = s.teams ∧ t.tus = s.tus)
      ∧ ∃ t, exec (.onCoreError core slot ⟨lane, false⟩) s = .next t
        ∧ 512 * (core % 32) + 32 * slot + lane ∈ (t.tu (core / 32)).unread
        ∧ (slot ≠ 15 → ∀ tm ∈ t.teams, ¬(tm.core = core ∧ tm.ctx.ctxid = s.ctxOf g))

/-! ## The front complex -/

/-- Rows (R332 to R334, R340 to R343): a commit makes a row VALID exactly when its descriptor and its cores pass each test of
R343 (and the device does not stand still, R27, R368), with the wake word as NOTIFY, a watch on it in its home's table (R254), and the ready packets from RDIDX prefetched; an unmapped row leaves a
watch, with the wake that its slot's watch has seen, or raises WATCHFULL; HOLD, the wake of a queue and of an unmapped queue,
which a write that made the word differ causes whatever the word holds now, and the reading of events. Every write of memory
marks the watches whose words differ after it. No sector has an error here (log 61).

The readings of the queue rules are log 49 and 50, those of the watches log 68. A step that cannot happen in a state
answers that state (next state equal to the state): that is the model's form and no rule (log 6). -/
def Obligations.QueueRows : Prop :=
  ∀ (s : State) (q : Nat),
    s.WordsAligned → s.faulty = [] →
    let r := s.row q
    let d := s.qdescOf q
    let ready := s.readyFrom d 16 d.rdidx
    let slice := s.sliceOf (s.wakeAddr r.qdesc.toNat)
    let roomy : Prop := s.watches.length + (s.rowWatches slice).length + s.peerWatches.length < 1024
    (q < 128 → r.valid = false → ∀ ctl : DWord, ctl.getLsbD 0 = true →
      ((s.halted = true ∨ r.cores = 0 ∨ s.coresPresent r.cores = false ∨ (∃ o, o < 128 ∧ (s.row o).valid = true
          ∧ (s.row o).qdesc = r.qdesc) ∨ d.sizelog < 4 ∨ 16 < d.sizelog
          ∨ d.clean = false ∨ d.ring % 4096 ≠ 0 ∨ d.wake % 4 ≠ 0 ∨ d.lsave % 1024 ≠ 0
          ∨ ∃ p ∈ [d.ring, d.wake, d.lsave, d.report, d.ctxdesc], s.backed p = false) ↔ s.canCommit q = false)
      ∧ (s.canCommit q = false →
        ∃ t, exec (.rowCommit q ctl) s = .next t ∧ (t.row q).valid = false ∧ { t with rows := s.rows } = s)
      ∧ (s.canCommit q = true → ∃ u t : State, exec (.rowCommit q ctl) s = .next t ∧ u.Rewaited t
        ∧ (u.row q).valid = true ∧ (u.row q).watch = true ∧ (u.row q).watchEnded = false ∧ (u.row q).watchAge = s.nextId
        ∧ (u.row q).notify = s.wakeWord d ∧ (u.row q).woken = false ∧ u.wdog d.addr = 0
        ∧ (u.row q).hold = ctl.getLsbD 1 ∧ (u.row q).preempt = ctl.getLsbD 2 ∧ (u.row q).reserve = ctl.getLsbD 3
            ∧ (u.row q).band = (ctl >>> 4).setWidth 2
        ∧ (u.row q).cores = r.cores ∧ (u.row q).qdesc = r.qdesc
        ∧ (ctl.getLsbD 1 = false → d.addr ∉ s.destroying → s.draining d.addr = false → (u.row q).prefetched = ready)
        ∧ (∀ o, o ≠ q → { u.row o with watchEnded := (s.row o).watchEnded } = s.row o)
        ∧ (roomy → (∀ o, o ≠ q → u.row o = s.row o) ∧ u.watches = s.watches ∧ u.peerWatches = s.peerWatches)
        ∧ (∀ y ∈ u.unmapped, y.desc ≠ d.addr)
        ∧ s.Recalled { u with
            rows := s.rows, unmapped := s.unmapped, watches := s.watches, peerWatches := s.peerWatches
            nextId := s.nextId, wdogs := s.wdogs }))
    ∧ (q < 128 → r.valid = true → ∀ ctl : DWord, ctl.getLsbD 0 = false →
      (4096 ≤ s.unmapped.length →
        ∃ t, exec (.rowUnmap q ctl) s = .next t ∧ t.raised 5 d.addr ∧ { t with events := s.events } = s)
      ∧ (s.unmapped.length < 4096 → ∃ u t : State, exec (.rowUnmap q ctl) s = .next t ∧ u.Rewaited t
        ∧ (u.row q).valid = false ∧ (u.row q).watch = false ∧ (u.row q).woken = false ∧ (u.row q).prefetched = []
        ∧ (u.row q).qdesc = r.qdesc ∧ (∀ o, o ≠ q → u.row o = s.row o)
        ∧ u.unmapped = s.unmapped ++ [{ desc := d.addr, notify := r.notify, woken := r.watch && r.woken }]
        ∧ s.Recalled { u with rows := s.rows, unmapped := s.unmapped }))
    ∧ (r.valid = true →
      (∃ t, exec (.holdSet q) s = .next t ∧ s.RowIs t q { r with hold := true } ∧ { t with rows := s.rows } = s)
      ∧ (r.hold = true → d.addr ∉ s.destroying → s.draining d.addr = false → ∃ t, exec (.holdClear q) s = .next t
        ∧ s.RowIs t q { r with hold := false, prefetched := ready } ∧ s.Recalled { t with rows := s.rows })
      ∧ (r.watch = true → (r.watchEnded = true ∨ r.woken = true ∨ s.wakeWord d ≠ r.notify) → s.frontServed d.wake 4 = true →
        roomy → r.hold = false → d.addr ∉ s.destroying → s.draining d.addr = false → ∃ t, exec (.queueWake q) s = .next t
        ∧ s.RowIs t q { r with
            notify := s.wakeWord d, prefetched := ready, watchEnded := false, woken := false, watchAge := s.nextId }
        ∧ s.Recalled { t with rows := s.rows, nextId := s.nextId }))
    ∧ ((r.watch = false ∨ (r.watchEnded = false ∧ r.woken = false ∧ s.wakeWord d = r.notify)) →
      exec (.queueWake q) s = .next s)
    ∧ (∀ desc y, s.unmapped.find? (fun u => u.desc = desc) = some y →
      ((y.fired = true ∨ y.woken = false ∧ s.wakeWord (s.qdescAt desc) = y.notify) → exec (.unmappedWake desc) s = .next s)
      ∧ (y.fired = false → (y.woken = true ∨ s.wakeWord (s.qdescAt desc) ≠ y.notify) → ∃ t, exec (.unmappedWake desc) s = .next t
        ∧ t.raised 1 desc ∧ t.unmapped.find? (fun u => u.desc = desc) = some { y with fired := true }
        ∧ { t with events := s.events, unmapped := s.unmapped } = s))
    ∧ (∀ o, o < s.rows.length → s.fire.row o = { s.row o with woken := (s.row o).woken
        || ((s.row o).valid && (s.row o).watch && s.wakeDiffers (s.row o).qdesc.toNat (s.row o).notify) })
    ∧ s.fire.unmapped = s.unmapped.map (fun y => { y with woken := y.woken || (!y.fired && s.wakeDiffers y.desc y.notify) })
    ∧ (s.halted = true ∨ s.events = [] → ∃ t, exec .evpop s = .next t ∧ t.busRead = 0xFFFFFFFFFFFFFFFF
        ∧ { t with busRead := s.busRead } = s)
    ∧ ∀ e l, s.halted = false → s.events = e :: l → ∃ t, exec .evpop s = .next t ∧ t.busRead = e ∧ t.events = l
        ∧ { t with busRead := s.busRead, events := s.events } = s

/-- Packets (R335 to R341, R346): with nothing prepared, or while it may not issue, the packet at the issue point stays; a
preparation whose header reads TYPE 0 is discarded (R340); a packet that issues frees its slot and advances RDIDX. A bad header ends with 0x10; a NOP and a BARRIER without signals end at
once; a BARRIER watches every signal that it names from its issue, and stays until the STATUS of each has been seen, whatever
the word holds later (R338); a launch ends with the first check that it fails, or
stands in flight. The checks of R346 are spelled out, with the STATUS of the first that fails and what the packet gives the
launch (R336); a grid without teams ends at once with DONE. No sector has an error here (log 61).

Completion (R342, R354, R357): the packet is no longer in flight, its signal holds STATUS, the dropped records and the
started teams, COMPLETE stands for its queue, with the fault bit where the signal could not be written, and the watchdog of
its queue restarts.

The readings of the packet rules are log 49. A step that cannot happen in a state answers that state (next state
equal to the state): that is the model's form and no rule (log 6). -/
def Obligations.PacketsIssueAndComplete : Prop :=
  ((∀ (s : State) (q : Nat), s.faulty = [] →
      let all := [Instr.packetLaunch q, .packetPool q, .packetBarrier q, .packetNop q, .badpkt q]
      (s.headPacket q = none → s.headGone q = false → ∀ i ∈ all, exec i s = .next s)
      ∧ (s.headGone q = true → s.WordsAligned → ∀ i ∈ all, ∃ t, exec i s = .next t
          ∧ s.RowIs t q { s.row q with prefetched := [] } ∧ s.Recalled { t with rows := s.rows })
      ∧ ∀ (idx : Word) (b : List Byte) (p : Packet) (u : State),
        s.headPacket q = some (idx, b) → s.issuePacket q idx b = (p, u) →
        let d := s.qdescOf q
        let ends := fun (i : Instr) (st : Nat) =>
          ∃ v t, u.Recalled v ∧ exec i s = .next t ∧ (((v.completePacket p st 0 0).settleLaunches).Rewaited t)
        let same := fun (l : List Packet) => l.map (fun y => { y with sigWatch := [] })
        (s.mayIssue q b = false → ∀ i ∈ all, exec i s = .next s)
        ∧ (s.mayIssue q b = true → s.frontServed (d.slot d.rdidx) 64 = true → s.WordsAligned →
          (∃ ps, u.packets = ps ++ [p] ∧ same ps = same s.packets) ∧ p.desc = d.addr ∧ u.groups = s.groups ∧ u.teams = s.teams
          ∧ (s.backedRange (d.addr + 20) 4 = true → s.backedRange (d.slot d.rdidx) 8 = true →
              (d.slot d.rdidx + 8 ≤ d.addr + 20 ∨ d.addr + 24 ≤ d.slot d.rdidx) →
              u.deviceNum (d.slot d.rdidx) 8 = 0 ∧ u.deviceNum (d.addr + 20) 4 = (d.rdidx + 1) % 2 ^ 32)
          ∧ (hdrOk b = false → ends (.badpkt q) 0x10)
          ∧ (hdrOk b = true → hdrType b = 4 → ends (.packetNop q) (if u.addrsOk p b = true then 1 else 0x16))
          ∧ (hdrOk b = true → hdrType b = 3 →
              (u.addrsOk p b = false → ends (.packetBarrier q) 0x16)
              ∧ (u.addrsOk p b = true → p.sigs = [] → ends (.packetBarrier q) 1)
              ∧ (u.addrsOk p b = true → p.sigs ≠ [] →
                  ∃ (v t : State), u.Recalled { v with packets := u.packets } ∧ exec (.packetBarrier q) s = .next t
                    ∧ v.settleLaunches.Rewaited t ∧ (∀ y ∈ u.packets, y.id ≠ p.id → y ∈ v.packets)
                    ∧ ∃ y : Packet, y ∈ v.packets ∧ { y with sigWatch := [] } = p ∧ ∀ a ∈ p.sigs, ∀ pl, u.signalPlace p.ctx a = some pl →
                        ∃ w ∈ y.sigWatch, w.va = a ∧ w.space = pl.space ∧ w.addr = pl.addr
                          ∧ (pl.space ≠ .mem ∨ u.framesLost pl.addr 8 = false ∧ u.backedRange pl.addr 8 = true ∧ pl.addr % 8 = 0 →
                            (w.seen = true ↔ u.view pl.space (pl.addr + 7) ≠ 0))))
          ∧ ∀ i, (i = .packetLaunch q ∧ hdrType b = 1 ∨ i = .packetPool q ∧ hdrType b = 2) → hdrOk b = true →
              (∀ st, u.admission p b = .error st → ends i st)
              ∧ ∀ l, u.admission p b = .ok l → (∀ y ∈ s.packets, y.id < s.nextId ∧ ∀ n, y.launch = some n → n < s.nextId) →
                  (∀ m ∈ s.launches, m.id < s.nextId) →
                  ∃ t, exec i s = .next t ∧ t.groups = s.groups ∧ t.teams = s.teams
                    ∧ ((l.pool.isSome = true ∨ 0 < l.x * l.y * l.z) →
                        l ∈ t.launches ∧ ∃ y ∈ t.packets, y.id = p.id ∧ y.launch = some l.id)
                    ∧ (l.pool = none → l.x * l.y * l.z = 0 → l ∉ t.launches ∧ (∀ y ∈ t.packets, y.id ≠ p.id)
                      ∧ ((∀ m ∈ s.launches, m.done = true → s.draining m.desc = true) →
                          (∀ y ∈ s.savedTeams, y.launch < s.nextId) → t.raised 2 d.addr
                        ∧ ∀ pl, p.signal ≠ 0 → u.frontPlace p.ctx p.signal 8 .store = some pl → pl.space = .mem →
                          pl.cameo = false → u.mustHold p.ctx.ctxid pl = false → pl.addr % 128 ≤ 120 →
                          ∀ k, k < 8 → t.view .mem (pl.addr + k) = if k = 7 then 1 else 0))))
    ∧ (∀ (s : State) (p : Packet) (b : List Byte),
        (s.addrsOk p b = true ↔ (p.signal = 0 ∨ p.signal.toNat % 8 = 0 ∧ (s.frontPlace p.ctx p.signal 8 { w := true }).isSome = true)
          ∧ (let reads := fun (off align : Nat) (acc : Access) =>
              let va : DWord := BitVec.ofNat 64 (field b off 8)
              va.toNat % align = 0 ∧ (s.frontPlace p.ctx va 8 acc).isSome = true
            (hdrType b = 1 → reads 8 128 { r := true })
            ∧ (hdrType b = 2 → reads 8 128 { r := true } ∧ reads 32 16 { r := true, w := true } ∧ reads 24 16 { r := true })
            ∧ (hdrType b ≠ 1 → hdrType b ≠ 2 →
                ∀ a ∈ p.sigs, a.toNat % 8 = 0 ∧ (s.frontPlace p.ctx a 8 { r := true }).isSome = true)))
        ∧ (s.addrsOk p b = false → s.admission p b = .error 0x16)
        ∧ (s.addrsOk p b = true →
          let kobj : DWord := BitVec.ofNat 64 (field b 8 8)
          let d := s.qdescAt p.desc
          ((∀ o ∈ (s.context p.ctx.ctxid).objects, o.addr ≠ kobj) → s.admission p b = .error 0x11)
          ∧ (∀ h, s.frontBytes p.ctx kobj 16 = some h → field h 8 4 ≤ field b 16 4 → s.admission p b = .error 0x11)
          ∧ ∀ l, s.buildLaunch p d b = some l →
            let total := l.x * l.y * l.z
            let groups := fun r : Role => (r.lanes + 31) / 32
            let n := (l.roles.map groups).sum
            let grid := 1 ≤ l.gs ∧ l.gs ≤ 32 ∧ total < 2 ^ 32 ∧ total % l.gs = 0
              ∧ (l.pool ≠ none → ∃ r, l.roles = [r] ∧ r.lanes = 32)
            let sizes := (1 ≤ l.roles.length ∧ l.roles.length ≤ 4
                ∧ (∀ r ∈ l.roles, 1 ≤ r.lanes ∧ r.lanes ≤ 480 ∧ 1 ≤ r.budget ∧ r.budget ≤ 128)
                ∧ n ≤ 15 ∧ (l.roles.filter Role.producer).length = 1)
              ∧ (l.roles.map (fun r => groups r * r.budget)).sum + l.poolres ≤ 508 ∧ l.scratch ≤ 11 ∧ l.tiles ≤ 8 ∧ l.accs ≤ 8
              ∧ n * l.tiles ≤ 64 ∧ n * l.accs ≤ 64 ∧ l.copyq ≤ 32
              ∧ (∀ e ∈ l.claspTable, e.2.2 ≠ 0
                  ∧ (e.1 = 0 ∧ e.2.1 < 4 ∨ (e.1 = 1 ∨ e.1 = 2) ∧ e.2.1 < 16 ∨ e.1 = 3 ∧ e.2.1 < 8))
              ∧ (l.claspTable.filter (fun e => e.1 = 1)).length ≤ 64
            (hdrType b = 1 → l.x = field b 20 4 ∧ l.y = field b 24 2 ∧ l.z = field b 26 2 ∧ l.gs = field b 28 1
              ∧ l.poolres = field b 29 1 ∧ l.coop = bitN (field b 30 1) 0 ∧ l.fuse = bitN (field b 30 1) 1
              ∧ l.medmask.toNat = field b 31 1 % 256 ∧ l.pool = none ∧ l.kargs.toNat = field b 32 8 % 2 ^ 64
              ∧ l.deadline = if field b 48 8 ≠ 0 then field b 48 8 else s.time + 1000 * d.dlus)
            ∧ (hdrType b = 2 → l.gs = 1 ∧ l.coop = false ∧ l.medmask = 0 ∧ l.kargs.toNat = field b 40 8 % 2 ^ 64
              ∧ l.deadline = (if field b 56 8 ≠ 0 then field b 56 8 else s.time + 1000 * d.dlus)
              ∧ ∃ k, l.pool = some k ∧ k.pctl.toNat = field b 32 8 % 2 ^ 64 ∧ k.recbase.toNat = field b 24 8 % 2 ^ 64
                ∧ k.reclog = field b 20 1 ∧ k.taken = 0 ∧ k.bins = [] ∧ k.formed = [] ∧ k.dropped = 0)
            ∧ l.next = 0 ∧ l.started = 0 ∧ l.retired = 0 ∧ l.fate = 0
            ∧ (¬grid → s.admission p b = .error 0x12)
            ∧ (grid → ¬sizes → s.admission p b = .error 0x13)
            ∧ (grid → sizes → l.medmask ≠ 0 → s.mediaDie = false → s.admission p b = .error 0x15)
            ∧ (grid → sizes → (l.medmask = 0 ∨ s.mediaDie = true) →
                (l.pool = none → total = 0 → s.admission p b = .ok l)
                ∧ ((l.pool ≠ none ∨ total ≠ 0) → s.admission p b =
                    if l.fitsEmpty (s.row p.row) = true then .ok l else .error 0x14))))
    ∧ ∀ (s : State) (id : Nat) (p : Packet), s.packets.find? (fun p => p.id = id && p.typ = 3) = some p →
        let seen := fun (a : DWord) => ∃ w ∈ p.sigWatch, w.va = a ∧ (w.seen = true ∨ s.num w.space w.addr 8 / 2 ^ 56 ≠ 0)
        ((s.draining p.desc = true ∨ ∃ a ∈ p.sigs, ¬seen a) → exec (.barrierComplete id) s = .next s)
        ∧ (s.draining p.desc = false → (∀ a ∈ p.sigs, seen a) →
            ∃ t, exec (.barrierComplete id) s = .next t ∧ ((s.completePacket p 1 0 0).settleLaunches).Rewaited t)
        ∧ s.fire.packets = s.packets.map (fun y => { y with sigWatch := y.sigWatch.map (fun w =>
            { w with seen := w.seen || decide (s.num w.space w.addr 8 / 2 ^ 56 ≠ 0) }) }))
  ∧ (∀ (s : State) (p : Packet) (st dropped teams : Nat),
      let t := s.completePacket p st dropped teams
      t.packets.map Packet.id = (s.packets.map Packet.id).filter (· ≠ p.id) ∧ t.raised 2 p.desc ∧ t.wdog p.desc = 0
      ∧ (p.signal = 0 → t.mem = s.mem)
      ∧ (∀ pl, p.signal ≠ 0 → s.frontPlace p.ctx p.signal 8 .store = some pl → s.mustHold p.ctx.ctxid pl = true →
          (s.WordsAligned → s.faulty = [] → ∀ a, t.view .mem a = s.view .mem a) ∧ ∃ w ∈ t.writes, w.held = true ∧ w.space = .mem ∧ w.line = pl.addr / 128)
      ∧ (∀ pl, p.signal ≠ 0 → s.frontPlace p.ctx p.signal 8 .store = some pl → pl.space = .mem → pl.cameo = false →
          s.mustHold p.ctx.ctxid pl = false → pl.addr % 128 ≤ 120 → s.WordsAligned → s.faulty = [] →
          (∀ k, k < 8 → t.view .mem (pl.addr + k) = BitVec.ofNat 8
            ((st % 256 * 2 ^ 56 + dropped % 2 ^ 24 * 2 ^ 32 + teams % 2 ^ 32) / 2 ^ (8 * k)))
          ∧ ∀ a, ¬(pl.addr ≤ a ∧ a < pl.addr + 8) → t.view .mem a = s.view .mem a)
      ∧ (p.signal ≠ 0 → s.frontPlace p.ctx p.signal 8 .store = none → t.mem = s.mem
          ∧ ∃ e ∈ t.events, eventKey e = (2, p.desc % 2 ^ 39 / 64 * 64) ∧ e.getLsbD 51 = true))

/-- Dispatch and retirement (R36, R42, R60, R344, R345, R349, R353): the rows stand by BAND, then the deadline of their oldest
launch with unstarted units, then their index; a unit goes to the lowest cluster with enough cores that fit it, on the lowest
of these, and die 1 places one only where no cluster of die 0 takes it. The best row's next unit starts, each team on the core
that its placement gives it, in the order of its linear indices, when the ramp allows it; a started group has its lanes at the
kernel's entry and registers of zero; a team retires exactly when its groups have retired and its writes and the jobs that it awaits are done, and no drain is
discarding it (log 48).

A step that cannot happen in a state answers that state (next state equal to the state): that is the model's form
and no rule (log 6). -/
def Obligations.TeamsStartAndRetire : Prop :=
  (∀ s : State,
    (∀ q r l, (q, r, l) ∈ s.ranked ↔ q < 128 ∧ r = s.row q ∧ r.valid = true ∧ r.hold = false ∧ r.preempt = false
      ∧ s.nextLaunch r = some l)
    ∧ s.ranked.Pairwise (fun a b => a.2.1.band.toNat < b.2.1.band.toNat ∨ a.2.1.band = b.2.1.band ∧
        (a.2.2.deadline < b.2.2.deadline ∨ a.2.2.deadline = b.2.2.deadline ∧ a.1 < b.1))
    ∧ (∀ r l, s.nextLaunch r = some l ↔ ∃ x y, s.launchesOf r.qdesc.toNat = x ++ l :: y
        ∧ (∀ m ∈ x, m.allStarted = true) ∧ l.allStarted = false ∧ ∀ p, l.pool = some p → p.formed ≠ [])
    ∧ (∀ l : Launch, l.allStarted = true ↔ l.fate ≠ 0 ∨ (l.pool = none ∧ l.x * l.y * l.z ≤ l.next)
        ∨ ∃ p, l.pool = some p ∧ p.ended = true ∧ p.bins = [] ∧ p.formed = [])
    ∧ (∀ (l : Launch) (used : List Nat) (c : Nat), c ∉ used →
        let n := l.need
        let f := s.freeOf c
        (fits s.freeOf n used c = true ↔ n.slots ≤ f.slots ∧ n.regs ≤ f.regs ∧ n.tiles ≤ f.tiles ∧ n.scratch ≤ f.scratch
          ∧ n.copyq ≤ f.copyq ∧ n.clasps ≤ f.clasps
          ∧ ((used.filter (fun e => e / 4 = c / 4)).length + 1) * n.accs ≤ f.accs))
    ∧ ∀ (die : Nat) (l : Launch) (cores : List Nat), die < 2 → cores.Pairwise (· < ·) →
        (l.coop = false → ∀ us : List (List Nat),
          let chosen := fun (cl : Nat) (u : List Nat) => u.Pairwise (· < ·) ∧ ∀ c, c ∈ u ↔
            c ∈ cores ∧ c / 32 = cl ∧ s.fuseOk l.fuse c = true ∧ (u.filter (fun e => e < c)).length < l.gs
              ∧ fits s.freeOf l.need (u.filter (fun e => e < c)) c = true
          s.placement die l cores = some us ↔
            (∃ cl u, us = [u] ∧ cl / 4 = die ∧ chosen cl u ∧ u.length = l.gs
              ∧ ∀ k v, k < cl → k / 4 = die → chosen k v → v.length ≠ l.gs)
            ∧ (die = 1 → ∀ k v, k < 4 → chosen k v → v.length ≠ l.gs))
        ∧ (l.coop = true → (∃ y ∈ s.savedTeams, y.launch = l.id) → s.placement die l cores = none)
        ∧ (l.coop = true → ∀ us, s.placement die l cores = some us →
            us.length = (l.x * l.y * l.z - l.next) / max 1 l.gs
            ∧ ∀ k u, us[k]? = some u → u.length = l.gs ∧ ∃ cl, ∀ c ∈ u, c ∈ cores ∧ c / 32 = cl ∧ s.fuseOk l.fuse c = true
                ∧ fits s.freeOf l.need ((us.take k).flatten ++ u.filter (fun e => e < c)) c = true))
  ∧ (∀ (s : State) (die : Nat),
    (s.halted = true → exec (.dispatchStep die) s = .next s)
    ∧ (s.halted = false → die < s.dies →
      (s.ranked = [] → ∃ t, exec (.dispatchStep die) s = .next t ∧ s.Rewaited t)
      ∧ ∀ q r l rest unit more, s.ranked = (q, r, l) :: rest → s.launch? l.id = some l →
          s.placement die l r.coreList = some (unit :: more) →
          (∀ d ∈ rampEvents l.coop (unit :: more),
            s.rampAllows d ((rampEvents l.coop (unit :: more)).filter (· = d)).length = true) →
          ∃ t, exec (.dispatchStep die) s = .next t
            ∧ ∀ k c, unit[k]? = some c → ∃ tm ∈ t.teams, tm.launch = l.id ∧ tm.core = c ∧ tm.lin = l.next + k))
  ∧ (∀ (s : State) (l : Launch) (core lin slot : Nat) (k : Seat), l.seats = [k] → l.pool = none →
    s.nextSlot core = some slot →
    ∃ g, (s.startTeam l core lin []).group? core slot = some g ∧ g.lanes.length = 32 ∧ g.alloc = k.role.budget
      ∧ g.wbase = 0 ∧ (∀ n, g.rs n = 0) ∧ (∀ a j, g.rv a j = 0)
      ∧ (∀ j, j < 32 → (g.lane j).preds = 0 ∧ (g.lane j).flags = 0 ∧
          if 32 * k.roleGrp + j < k.role.lanes then (g.lane j).st = .run ∧ (g.lane j).pc = l.entry
          else (g.lane j).st = .none)
      ∧ (core < s.cores.length → (s.startTeam l core lin []).gen core slot = s.gen core slot + 1))
  ∧ ∀ (s : State) (id : Nat) (tm : Team), s.team? id = some tm →
    let busy := (∃ g ∈ s.groups, g.team = some id) ∨ (∃ w ∈ s.writes, w.team = some id) ∨ (∃ a ∈ s.acks, a.team = some id)
      ∨ (∃ j ∈ s.allJobs, j.team = id ∨ ∃ f ∈ j.writes, f.win = some id) ∨ ∃ d ∈ s.drains, id ∈ d.teams
    (busy → exec (.teamRetire id) s = .next s)
    ∧ (¬busy → ∃ t, exec (.teamRetire id) s = .next t ∧ t.team? id = none
        ∧ ∀ l, s.launch? tm.launch = some l → t.launch? tm.launch = none
            ∨ ∃ l', t.launch? tm.launch = some l' ∧ l'.retired = l.retired + 1 ∧ l'.started = l.started)

/-- A microsecond passes (R295, R342, R353, R357): device time grows by 1,000 ns, the ramps grow by their steps or restart
after an idle one, and keep the retirements beyond their allowance, the watchdogs of the queues that wait for work under way count, except under PREEMPT or while a drain of the queue is under way
(log 48), and the timers of the clasps that lanes of running contexts
wait on.

Continuation pools (R58, R59, R351, R352): the next published record joins its bin, which leaves as a group exactly
with its 32nd record, or, without a bin, takes a new one, the oldest of 64 leaving first, or is dropped where its entry is not in the text, and CONS advances; once END is seen and every record is taken, no
bin is left; a bin flushes 2 µs after its oldest record. No sector has an error here (log 61).

The readings of the pool rules are log 14, those of the ramp and the power cap log 54. A step that cannot happen in
a state answers that state (next state equal to the state): that is the model's form and no rule (log 6). -/
def Obligations.TimeAndContinuationPools : Prop :=
  (∀ s : State, ∃ t, exec .rampTick s = .next t ∧ t.time = s.time + 1000 ∧ t.mem = s.mem ∧ t.issueQ = s.issueQ
      ∧ t.rows = s.rows ∧ (∀ d, t.wdog d = if s.watching d = true then s.wdog d + 1 else s.wdog d)
      ∧ (∀ d, s.watching d = true ↔ (s.qdescAt d).wdogus ≠ 0
          ∧ (∃ p ∈ s.packets, p.desc = d ∧ (p.typ = 3 ∨ ∃ l ∈ s.launchesOf d, ∃ tm ∈ s.teams, tm.launch = l.id))
          ∧ (∀ q, s.rowOf d = some q → (s.row q).preempt = false) ∧ ∀ e ∈ s.drains, d ∉ e.queues)
      ∧ (∀ (d : Nat) (r : Ramp), s.ramps[d]? = some r → ∃ r', t.ramps[d]? = some r'
          ∧ r'.used = (if s.rampMax r = 0 then 0 else r.used - r.allowance)
          ∧ (r.used = 0 → r'.allowance = r.init.toNat)
          ∧ (r.used ≠ 0 → 2400 ≤ s.capInForce → r'.allowance = min (r.allowance + r.step.toNat) r.max.toNat))
      ∧ ∀ k c y, s.clasp? k = some c → s.claspCtx k = some y →
          (k ∈ s.waitedClasps → y.claspTmo ≠ 0 → s.ctxRuns y = true → c.failed = false →
            t.clasp? k = some { c with timer := c.timer + 1 })
          ∧ ((k ∉ s.waitedClasps ∨ y.claspTmo = 0 ∨ s.ctxRuns y = false ∨ c.failed = true) → t.clasp? k = some c))
  ∧ (∀ (s : State) (id : Nat) (l : Launch) (p : Pool), s.launch? id = some l → l.pool = some p → s.WordsAligned →
      s.faulty = [] →
      (∀ w, p.ended = false → l.fate = 0 → s.frontBytes l.ctx p.pctl 1 = some w →
        let pub := leNat w
        (p.taken = pub % 2 ^ 31 → bitN pub 31 = false → ∃ t, exec (.poolRecordTake id) s = .next t ∧ s.Recalled t)
        ∧ (p.taken = pub % 2 ^ 31 → bitN pub 31 = true → ∃ t, exec (.poolRecordTake id) s = .next t
            ∧ (t.launch? id = none ∨ ∃ l' p', t.launch? id = some l' ∧ l'.pool = some p' ∧ p'.ended = true ∧ p'.bins = []))
        ∧ (∀ b cons, p.taken ≠ pub % 2 ^ 31 →
            s.frontBytes l.ctx (p.recbase + BitVec.ofNat 64 (16 * (p.taken % 2 ^ p.reclog))) 4 = some b →
            s.frontPlace l.ctx (p.pctl + 4) 4 .store = some cons → cons.space = .mem → cons.cameo = false →
            s.heldAt (cons.addr / 128) = false → cons.addr % 128 ≤ 124 →
            let code := field b 0 4
            ∃ t l' p', exec (.poolRecordTake id) s = .next t ∧ t.launch? id = some l' ∧ l'.pool = some p'
              ∧ p'.taken = (p.taken + 1) % 2 ^ 31
              ∧ (∀ k, k < 4 → t.view .mem (cons.addr + k) = BitVec.ofNat 8 ((p.taken + 1) % 2 ^ 31 / 2 ^ (8 * k)))
              ∧ ((code % 4 ≠ 0 ∨ l.textSize ≤ code) → p'.dropped = p.dropped + 1 ∧ p'.bins = p.bins ∧ p'.formed = p.formed)
              ∧ (code % 4 = 0 → code < l.textSize → p'.dropped = p.dropped
                  ∧ ∃ r : PoolRecord, r.codeoff.toNat = code % 2 ^ 32 ∧ r.arg0.toNat = field b 4 4 % 2 ^ 32
                    ∧ r.arg1.toNat = field b 8 4 % 2 ^ 32 ∧ r.arg2.toNat = field b 12 4 % 2 ^ 32
                    ∧ (∀ c, p.bins.find? (fun c => c.codeoff = r.codeoff) = some c →
                        (c.recs.length = 31 → p'.formed = p.formed ++ [c.recs ++ [r]] ∧ ∀ e ∈ p'.bins, e.codeoff ≠ r.codeoff)
                        ∧ (c.recs.length < 31 → p'.formed = p.formed ∧ { c with recs := c.recs ++ [r] } ∈ p'.bins))
                    ∧ ((∀ c ∈ p.bins, c.codeoff ≠ r.codeoff) →
                        let new : Bin := { codeoff := r.codeoff, recs := [r], since := s.time }
                        (p.bins.length < 64 → p'.formed = p.formed ∧ p'.bins = p.bins ++ [new])
                        ∧ (p.bins.length = 64 → ∃ o ∈ p.bins, (∀ c ∈ p.bins, o.since ≤ c.since)
                            ∧ p'.formed = p.formed ++ [o.recs]
                            ∧ p'.bins = p.bins.filter (fun c => c.codeoff ≠ o.codeoff) ++ [new])))))
      ∧ ∀ n b, p.bins[n]? = some b →
          (s.time < b.since + 2000 → exec (.binTimedFlush id n) s = .next s)
          ∧ (b.since + 2000 ≤ s.time → ∃ t l' p', exec (.binTimedFlush id n) s = .next t ∧ t.launch? id = some l'
              ∧ l'.pool = some p' ∧ p'.formed = p.formed ++ [b.recs] ∧ ∀ c ∈ p'.bins, c ∈ p.bins ∧ c.codeoff ≠ b.codeoff))

/-- Destroys and watchdogs (R27, R357 to R362). While the device stands still no command of a queue acts. A destroy of an idle queue ends its
unmapped watch and raises DESTROYED at once. Else DESTROY ends its barriers and lets no unit start that has not started, and
DESTROY.FORCE discards its teams; either gives its STATUS to a launch that nothing, or a fatal trap alone, has ended before
(log 48), what an act on the queue ended first stands (R362), and the queue ends, with DESTROYED raised, its row cleared and its unmapped watch
gone, when none of its packets is in flight any more. FAILBAR ends a waiting BARRIER. A watchdog that has run out holds
the rows of its partition, discards their teams, and leaves a stop report; a team whose scratchpad an access or a job of the
drain may yet reach stays, without groups, until the drain ends (R358). What is held of the accesses and jobs of a forced
destroy or a watchdog keeps its drain open, and the packets complete when nothing of them is left (log 48).

A step that cannot happen in a state answers that state (next state equal to the state): that is the model's form
and no rule (log 6). -/
def Obligations.QueuesEnd : Prop :=
  (∀ (s : State) (desc : Nat),
    let a := qctlDesc desc
    let awaited := fun (t : State) (a : Nat) (tm : Team) => (∀ g ∈ t.groups, g.team ≠ some tm.id)
      ∧ ∃ e ∈ t.drains, e.desc = a ∧ tm.id ∈ e.teams ∧ t.windowAwaited e tm.id = true
    let closed := fun (t : State) => (a ∈ t.destroying ↔ ∃ p ∈ t.packets, p.desc = a)
      ∧ (a ∉ t.destroying → t.raised 7 a ∧ (∀ q, s.rowOf a = some q → (t.row q).valid = false) ∧ ∀ y ∈ t.unmapped, y.desc ≠ a)
    let fates := fun (t : State) (n : Nat) => ∀ l ∈ t.launches, (∃ p ∈ t.packets, p.launch = some l.id ∧ p.desc = a) →
      ∃ m ∈ s.launches, m.id = l.id ∧ l.fate = (if m.fate = 0 ∨ m.fate = 5 then n else m.fate)
    (s.halted = true → ∀ i ∈ [Instr.destroy desc, .destroyForce desc, .failbar desc], exec i s = .next s)
    ∧ (s.halted = false → s.idleQueue a = true →
      ∀ i, (i = .destroy desc ∨ i = .destroyForce desc ∨ i = .failbar desc ∧ s.draining a = false) → ∃ t, exec i s = .next t
        ∧ t.raised 7 a ∧ (∀ y, y ∈ t.unmapped ↔ y ∈ s.unmapped ∧ y.desc ≠ a)
        ∧ { t with events := s.events, unmapped := s.unmapped } = s)
    ∧ (s.halted = false → s.idleQueue a = false → s.draining a = false →
      (∃ t, exec (.destroy desc) s = .next t ∧ closed t ∧ fates t 2 ∧ (∀ p ∈ t.packets, p.desc = a → p.typ ≠ 3)
        ∧ t.groups = s.groups)
      ∧ (∃ t, exec (.destroyForce desc) s = .next t ∧ fates t 3
        ∧ (∀ tm ∈ t.teams, ∀ l ∈ s.launchesOf a, tm.launch = l.id → awaited t a tm)
        ∧ ((t.drains = s.drains ∧ closed t ∧ ∀ p ∈ t.packets, p.desc = a → p.typ ≠ 3)
          ∨ ∃ e, t.drains = s.drains ++ [e] ∧ e.desc = a ∧ e.queues = [a] ∧ e.status = 3 ∧ e.report = none
              ∧ t.drainReady e = false ∧ a ∈ t.destroying)
        ∧ (s.writes = [] → s.jobs = [] → (∀ y ∈ s.savedTeams, y.jobs = []) → t.drains = s.drains))
      ∧ ((s.inFlight a).find? (fun p => p.typ = 3) = none → exec (.failbar desc) s = .next s)
      ∧ ∀ p, (s.inFlight a).find? (fun p => p.typ = 3) = some p → ∃ t, exec (.failbar desc) s = .next t
          ∧ ((s.completePacket p 6 0 0).settleLaunches).Rewaited t)
    ∧ (s.halted = false → s.draining a = true → exec (.failbar desc) s = .next s
      ∧ (s.idleQueue a = false → ∀ i ∈ [Instr.destroy desc, .destroyForce desc], ∃ t, exec i s = .next t ∧ a ∈ t.destroying
        ∧ (∀ q, s.rowOf a = some q → s.RowIs t q { s.row q with prefetched := [] })
        ∧ { t with destroying := s.destroying, rows := s.rows } = s))
    ∧ (a ∈ s.destroying → closed s.settleLaunches))
  ∧ ∀ (s : State) (n : Nat),
    (s.wdogQueue n = none → exec (.watchdogExpiry n) s = .next s)
    ∧ ∀ a, s.wdogQueue n = some a →
      let d := s.qdescAt a
      ((∀ e ∈ s.drains, e.desc ≠ a) →
        (d.wdogus = 0 ∨ s.draining a = true ∨ s.wdog a < d.wdogus → exec (.watchdogExpiry n) s = .next s)
        ∧ (d.wdogus ≠ 0 → s.draining a = false → d.wdogus ≤ s.wdog a → ∃ t, exec (.watchdogExpiry n) s = .next t
          ∧ t.wdog a = 0
          ∧ (∀ o, (s.row o).valid = true → (s.row o).qdesc.toNat ∈ s.partQueues d.part → (t.row o).hold = true)
          ∧ (∀ tm ∈ t.teams, ∀ b ∈ s.partQueues d.part, tm.ctx.ctxid = (s.readCtx (s.qdescAt b).ctxdesc).ctxid →
              (∀ g ∈ t.groups, g.team ≠ some tm.id)
              ∧ ∃ e ∈ t.drains, e.desc = a ∧ tm.id ∈ e.teams ∧ t.windowAwaited e tm.id = true)
          ∧ ((t.drains = s.drains ∧ t.raised 3 a ∧ (s.backedRange d.report 64 = true → t.deviceNum d.report 1 = 9))
            ∨ ∃ e, t.drains = s.drains ++ [e] ∧ e.desc = a ∧ e.queues = s.partQueues d.part ∧ e.status = 4
                ∧ e.report.isSome = true ∧ t.drainReady e = false)
          ∧ (s.writes = [] → s.jobs = [] → (∀ y ∈ s.savedTeams, y.jobs = []) → t.drains = s.drains)))
      ∧ ∀ e, s.drains.find? (fun e => e.desc = a) = some e →
        (s.drainReady e = false → exec (.watchdogExpiry n) s = .next s)
        ∧ (s.drainReady e = true → ∃ t, exec (.watchdogExpiry n) s = .next t ∧ (∀ f, f ∈ t.drains ↔ f ∈ s.drains ∧ f ≠ e)
          ∧ (∀ tm ∈ t.teams, tm.id ∉ e.teams) ∧ (∀ j ∈ t.jobs, j.id ∉ e.jobs)
          ∧ (e.report.isSome = true → t.raised 3 a)
          ∧ (∀ b ∈ e.queues, ∀ p ∈ t.packets, p.desc = b → p.typ ≠ 3)
          ∧ (e.report = none → e.queues ≠ [] → ∀ b ∈ s.destroying, (b ∈ t.destroying ↔ ∃ p ∈ t.packets, p.desc = b)))

/-! ## Registers of the device, the board and the host -/

/-- Registers (R219 to R221, R314, R316, R317, R323, R343, R363, R371): SQPOP, INVCMD, the commit and the clearing of entries
of the address-range table and of the inbound table; what a released signet core writes and reads in the control space, where
an absent unit gives an access fault; and what the policy core writes and reads of the front registers. Besides, a signet
core's AMO at a physical address, a service core's FENCE (R229), what the loader does with a code object (R348) and the
guest_cid. A service core's own instructions are those of RISC-V, which stand outside the spec (log 10): an access of one goes
the way of the core's accesses and gives it what is read, or an access fault; the end of one leaves its registers; an access
that is none of its own reads nothing, and no instruction leaves a signet core an satp. Of the instructions ADDI and ECALL, in
M mode, are spelled out. No sector has an error where memory is read (log 61).

The masks of written base registers are log 44, a write to an entry with VALID set log 45 and 46, what the service
cores reach log 65. A step that cannot happen in a state answers that state (next state equal to the state): that is
the model's form and no rule (log 6). -/
def Obligations.ControlRegisters : Prop :=
  ∀ s : State,
    let access := fun op : BusOp => (∃ v, op = .write v) ∨ op = .read ∨ ∃ k w v, op = .amo k w v
    (∀ cl, (s.halted = true ∨ (s.tu cl).unread = [] → ∃ t, exec (.sqpop cl) s = .next t ∧ t.busRead = 0xFFFFFFFF
          ∧ { t with busRead := s.busRead } = s)
        ∧ ∀ i r, s.halted = false → (s.tu cl).unread = i :: r → ∃ t, exec (.sqpop cl) s = .next t ∧ t.busRead = BitVec.ofNat 64 i
          ∧ (t.tu cl).unread = r ∧ { t with busRead := s.busRead, tus := s.tus } = s)
    ∧ (∀ cl v, s.halted = false → cl < s.nclusters → cl < s.tus.length → invScope v ≤ 2 → ∃ t, exec (.invcmd cl v) s = .next t
        ∧ (t.tu cl).invUpto = s.nextId ∧ { t with tus := s.tus, tlb := s.tlb, utlb := s.utlb } = s
        ∧ ∀ e, let stays := ¬(invScope v = 2 ∨ e.ctx = v.setWidth 32
              ∧ (invScope v = 1 ∨ invScope v = 0 ∧ e.page = (s.tu cl).invAddr.toNat / 2 ^ e.log))
            (e ∈ t.tlb ↔ e ∈ s.tlb ∧ stays) ∧ (e ∈ t.utlb ↔ e ∈ s.utlb ∧ stays))
    ∧ (∀ die n v, s.halted = false → die < s.dies → n < 64 →
        let k := 128 * die + 2 * n
        let others := fun t : State => (∀ j, j ≠ k → sget t.art j = sget s.art j) ∧ { t with art := s.art } = s
        let word := fun (t : State) (on : Bool) => ∀ j, (sget t.art k).getLsbD j =
          if j = 63 then on else v.getLsbD j && (decide (j < 27) || decide (47 ≤ j))
        (v.getLsbD 63 = true → bitN (s.artWord die n 0) 63 = true → exec (.artCommit die n v) s = .next s)
        ∧ (v.getLsbD 63 = true → bitN (s.artWord die n 0) 63 = false → ∃ t, exec (.artCommit die n v) s = .next t
            ∧ others t ∧ word t (s.artOk die n v.toNat (s.artWord die n 1)))
        ∧ (s.artOk die n v.toNat (s.artWord die n 1) = true → ∀ m, m < 64 → m ≠ n → bitN (s.artWord die m 0) 63 = true →
            bits (s.artWord die n 1) 26 0 < bits (s.artWord die m 0) 26 0
              ∨ bits (s.artWord die m 1) 26 0 < bits v.toNat 26 0)
        ∧ (v.getLsbD 63 = false → ∃ t, exec (.artClear die n v) s = .next t ∧ others t ∧ word t false))
    ∧ (∀ n v, s.halted = false → n < 256 →
        let others := fun t : State => (∀ j, j ≠ 2 * n → sget t.inb j = sget s.inb j) ∧ { t with inb := s.inb } = s
        let word := fun (t : State) (on : Bool) => ∀ j, (sget t.inb (2 * n)).getLsbD j =
          if j = 63 then on else v.getLsbD j && (decide (j < 27) || decide (50 ≤ j ∧ j < 59) || decide (61 ≤ j ∧ j < 64))
        (v.getLsbD 63 = true → bitN (s.inbWord n 0) 63 = false → ∃ t, exec (.inbCommit n v) s = .next t
            ∧ others t ∧ word t (s.pagesBacked (bits v.toNat 26 0) (bits (s.inbWord n 1) 26 0)))
        ∧ (v.getLsbD 63 = false → ∃ t, exec (.inbClear n v) s = .next t ∧ others t ∧ word t false))
    ∧ (∀ (m : BusMaster) (a : DWord) (op : BusOp), s.masterRuns m = false → exec (.registerWrite ⟨m, a⟩ op) s = .next s)
    ∧ (∀ cl, s.masterRuns (.signet cl .m) = true →
        let at' := fun (unit off : Nat) (op : BusOp) (t : State) =>
          exec (.registerWrite ⟨.signet cl .m, BitVec.ofNat 64 (0x0000800000000000 + 0x1000000000 * unit + off)⟩ op) s = .next t
        let reads := fun (unit off : Nat) (v : DWord) => at' unit off .read { s with busRead := v, busFault := false }
        (∀ (c : Nat) (v : DWord), c < s.ncores → c < s.cores.length →
          let write := fun (off : Nat) (b : CoreBlock) => ∃ t, at' 1 (0x10000 * c + off) (.write v) t
              ∧ t.coreBlock c = b ∧ (∀ o, o ≠ c → t.coreBlock o = s.coreBlock o) ∧ t.busFault = false
              ∧ { t with cores := s.cores, busFault := s.busFault } = s
          let b := s.coreBlock c
          write 0x010 { b with resVal := (v.setWidth 32).setWidth 64 }
          ∧ write 0x018 { b with resPc := ((v >>> 2).setWidth 30).setWidth 64 <<< 2 }
          ∧ write 0x020 { b with stepMask := v.setWidth 15 }
          ∧ write 0x068 { b with kpcd0 := v &&& 0x01FFFFFFFFFFFFFF } ∧ write 0x070 { b with kpcd1 := v &&& 0x01FFFFFFFFFFF000 } ∧ write 0x040 b
          ∧ reads 1 (0x10000 * c + 0x008) 0 ∧ reads 1 (0x10000 * c + 0x010) b.resVal
          ∧ reads 1 (0x10000 * c + 0x068) b.kpcd0 ∧ reads 1 (0x10000 * c + 0x078) 0
          ∧ (∀ k, k < 4 → ∃ w, reads 1 (0x10000 * c + 0x048 + 8 * k) w
              ∧ ∀ n, n < 4 → w.extractLsb' (16 * n) 16 = sget b.gens (4 * k + n)))
        ∧ (∀ c, c < s.nclusters → reads 2 (0x10000 * c + 0x010) ((s.tu c).sqCount.setWidth 64)
            ∧ reads 2 (0x10000 * c + 0x028) (if s.performed (s.tu c).invUpto = true then 0 else 1))
        ∧ (∀ v : DWord, ∃ t, at' 3 0x10 (.write v) t ∧ t.hostCtl = v.setWidth 4
            ∧ (∀ n f, n < 4 → s.fns[n]? = some f → t.fns[n]? = some (if v.getLsbD n then f else { f with status := 0 }))
            ∧ { t with hostCtl := s.hostCtl, fns := s.fns, busFault := s.busFault } = s)
        ∧ reads 3 0 (BitVec.ofNat 64 s.domId) ∧ reads 3 0x10 (s.hostCtl.setWidth 64)
        ∧ (∀ off op, access op → off < 0x1000000000 → s.ncores ≤ off / 0x10000 → at' 1 off op { s with busFault := true })
        ∧ (∀ (a v : DWord), s.WordsAligned → s.faulty = [] → s.writes = [] → s.loads = [] → s.jobRequests = [] →
            a.toNat % 8 = 0 → s.framesLost a.toNat 8 = false → s.backedRange a.toNat 8 = true →
            let byte := fun (t : State) (k : Nat) => t.view .mem (a.toNat + k)
            let old : DWord := BitVec.ofNat 64 (leNat ((List.range 8).map (byte s)))
            ∃ t, exec (.registerWrite ⟨.signet cl .m, a⟩ (.amo .add true v)) s = .next t ∧ t.busRead = old ∧ t.busFault = false
              ∧ (∀ k, k < 8 → byte t k = (old + v).extractLsb' (8 * k) 8)
              ∧ ∀ x, ¬(a.toNat ≤ x ∧ x < a.toNat + 8) → t.view .mem x = s.view .mem x))
    ∧ (∀ (m : BusMaster) (a : DWord), s.masterRuns m = true →
        (s.hartRuns m = false → exec (.registerWrite ⟨m, a⟩ .run) s = .next s)
        ∧ (s.hartRuns m = true → ∃ t, exec (.registerWrite ⟨m, a⟩ .run) s = .next t
          ∧ (match hartNext (busCore m) (s.hart m) (s.busIrq m) with
            | .retire h => t = s.setHart m (hartEnded h m)
            | .access place op =>
              let told := fun (u : State) (r : Option DWord) => u.setHart m { s.hart m with got := (s.hart m).got ++ [r] }
              (hartMay (s.hart m) m place op = false → t = told s none)
              ∧ (hartMay (s.hart m) m place op = true →
                (op = .fence → (s.fenceHeld m = true → t = s) ∧ (s.fenceHeld m = false → t = told s (some 0)))
                ∧ (op ≠ .fence →
                  (s.busAccess place op = .fault → t = told { s with busFault := true } none)
                  ∧ (∀ u, s.busAccess place op = .lost u → t = told { u with busFault := true } none)
                  ∧ (s.busAccess place op = .wait → t = s)
                  ∧ ∀ u, s.busAccess place op = .done u → t = told { u with busFault := false } (some u.busRead))))
          ∧ (isSignet m = true → (∀ e ∈ (s.hart m).csr, e.1 ≠ 0x180) → ∀ e ∈ (t.hart m).csr, e.1 ≠ 0x180)))
    ∧ (∀ (m : BusMaster) (h : Hart) (irq : Bool) (lo hi : DWord), (∀ n, m ≠ .packet n) → h.mode = .m → h.x.length = 31 →
        h.got = [some lo, some hi] → lo.toNat % 4 = 3 →
        let w := lo.toNat % 65536 + 65536 * (hi.toNat % 65536)
        (∀ rd rs1 imm, rd < 32 → rs1 < 32 → imm < 4096 → w = imm * 2 ^ 20 + rs1 * 2 ^ 15 + rd * 2 ^ 7 + 0x13 →
          ∃ h', hartNext m h irq = .retire h' ∧ h'.pc = h.pc + 4 ∧ h'.mode = .m
            ∧ ∀ n, n < 32 → h'.gx n = if n = rd ∧ n ≠ 0 then h.gx rs1 + (BitVec.ofNat 12 imm).signExtend 64 else h.gx n)
        ∧ (w = 0x73 → ∃ h', hartNext m h irq = .retire h' ∧ h'.mode = .m ∧ h'.csrRaw 0x341 = h.pc ∧ h'.csrRaw 0x342 = 11
            ∧ h'.pc = h.csrRaw 0x305 &&& ~~~(3 : DWord)))
    ∧ (∀ (m : BusMaster) (a : DWord), s.masterRuns m = true →
        ((∃ w ∈ s.writes, w.core = busUnit m) → exec (.registerWrite ⟨m, a⟩ .fence) s = .next s)
        ∧ ((∀ w ∈ s.writes, w.core ≠ busUnit m) → exec (.registerWrite ⟨m, a⟩ .fence) s = .next { s with busFault := false }))
    ∧ (∀ (cl : Nat) (md : SvcMode) (a v : DWord), s.masterRuns (.signet cl md) = true →
        exec (.registerWrite ⟨.signet cl md, a⟩ (.guestCid v)) s = .next { s with guestCid := v }
        ∧ (s.WordsAligned → s.faulty = [] → ∀ desc : DWord,
            let c := s.readCtx desc.toNat
            let o : CodeObject := { addr := a, data := v }
            let h := (s.frontBytes c a 16).getD []
            let placed := v.toNat % 128 = 0
              ∧ s.mapped c (a + BitVec.ofNat 64 (field h 16 4)) (field h 20 4) { r := true, x := true } = true
              ∧ s.mapped c v (field h 28 4) { r := true, w := true } = true
            let asks := fun (t : State) => exec (.registerWrite ⟨.signet cl md, a⟩ (.register desc v)) s = .next t
            ((s.frontBytes c a 16).isSome = true →
              (field h 0 4 ≠ 0x4F5A4B47 ∨ field h 4 2 ≠ 1 → s.loaderCode c o = some 0x20)
              ∧ (field h 0 4 = 0x4F5A4B47 → field h 4 2 = 1 →
                (a.toNat % 128 ≠ 0 ∨ field h 8 4 = 0 ∨ 4096 < field h 8 4 ∨ field h 16 4 % 128 ≠ 0 ∨ field h 20 4 % 4 ≠ 0 →
                  s.loaderCode c o = some 0x21)
                ∧ ∀ i k, i < field h 8 4 → s.frontBytes c (a + BitVec.ofNat 64 (field h 12 4 + 128 * i)) 32 = some k →
                  (field h 28 4 < field k 12 4 + field k 16 4 ∨ field h 28 4 < field k 64 4 + 8 * field k 26 1
                    ∨ field h 36 4 < 20 * (field k 68 4 + field k 72 4) ∨ field k 20 1 = 0 ∨ 4 < field k 20 1) →
                  s.loaderCode c o = some 0x21))
            ∧ (∀ code, s.loaderCode c o = some code → ∃ t, asks t
              ∧ t.busRead = BitVec.ofNat 64 code ∧ s.Recalled { t with busRead := s.busRead })
            ∧ (s.loaderCode c o = none → ¬placed → ∃ t, asks t ∧ s.Recalled t)
            ∧ (s.loaderCode c o = none → placed → ∃ t, asks t ∧ t.busRead = 0 ∧ t.registered c a = some o
              ∧ (a + BitVec.ofNat 64 (field h 24 4) = v → s.Recalled { t with contexts := s.contexts, busRead := s.busRead }))))
    ∧ (∀ (a : DWord) (op : BusOp), access op → s.masterRuns .policy = true → 0x0000800000000000 ≤ a.toNat →
        a.toNat < 0x0000900000000000 → exec (.registerWrite ⟨.policy, a⟩ op) s = .next { s with busFault := true })
    ∧ (s.masterRuns .policy = true → ∀ (q : Nat) (v : DWord), q < 128 →
        let write := fun (r : Row) =>
          ∃ u t : State, exec (.registerWrite ⟨.policy, BitVec.ofNat 64 (0x0000900000000000 + 64 * q + 16)⟩ (.write v)) s = .next t
            ∧ u.Rewaited t ∧ s.RowIs u q r ∧ { u with rows := s.rows, busFault := s.busFault } = s
        ((s.row q).valid = true → write (s.row q))
        ∧ ((s.row q).valid = false → q < s.rows.length → write { s.row q with qdesc := v })
        ∧ exec (.registerWrite ⟨.policy, BitVec.ofNat 64 (0x0000900000000000 + 64 * q + 16)⟩ .read) s
            = .next { s with busRead := (s.row q).qdesc, busFault := false })
    ∧ (s.masterRuns .policy = true → exec (.registerWrite ⟨.policy, 0x0000900000003018⟩ .read) s
          = .next { s with busRead := BitVec.ofNat 64 s.time, busFault := false }
        ∧ exec (.registerWrite ⟨.policy, 0x0000900000003010⟩ .read) s = .next { s with busRead := 0, busFault := false })

/-- Resets (R27, R368, R386): a device reset leaves no work and no row, and starts the first boot image that passes: its
payload stands at its load address, MR0 and MR1 are extended with the boot configuration and the image's digest (R370, log 9),
and the boot core stands at its entry, with the other signet cores and the keeper that it names (R302, log 66); or it fails; a loss of power loses memory and the log too; a thermal stop ends every context, and nothing issues after it. The
events of the host port (R364 to R367): its link, its functions' resets, its drivers and their requests.

What a device reset keeps beyond R386 is log 55, the events of the host port log 56. A step that cannot happen in a
state answers that state (next state equal to the state): that is the model's form and no rule (log 6). -/
def Obligations.ResetsAndTheHostPort : Prop :=
  ∀ s : State,
    let told := fun (t : State) (kind : Nat) => ∃ e ∈ t.hostEvents, e.toNat / 2 ^ 60 = kind
    (∃ t, exec .deviceReset s = .next t ∧ t.teams = [] ∧ t.launches = [] ∧ t.packets = []
        ∧ t.writes = [] ∧ t.loads = [] ∧ t.jobs = [] ∧ (∀ q, (t.row q).valid = false) ∧ t.time = 0 ∧ t.clock = 1
        ∧ t.hostCtl = 0 ∧ t.elogBase = s.elogBase ∧ t.peer = s.peer
        ∧ (∀ b, s.boot.sources.find? s.boot.passes = some b →
            let load := field b.header 24 8
            let extended := fun (l : List Byte) => some (BitVec.ofNat 512 (leNat (shake256 (leBytes 64 0 ++ l) 64)))
            t.boardState = 2 ∧ t.bootEntry = some (BitVec.ofNat 64 (load + field b.header 32 8))
            ∧ (t.backedRange load b.payload.length = true →
                ∀ k, k < b.payload.length → t.view .mem (load + k) = b.payload.getD k 0)
            ∧ t.mrs[0]? = extended (leBytes 64 (Config.bootConfigValue s.boot.config).toNat)
            ∧ t.mrs[1]? = extended (shake256 b.message 64) ∧ (∀ n, 2 ≤ n → n < 8 → t.mrs[n]? = some 0)
            ∧ (∀ cl, cl < s.nclusters → (t.signets.getD cl {}).held = false)
            ∧ (s.boot.keeper = none → t.groups = State.reset.groups)
            ∧ ∀ k, s.boot.keeper = some k → t.keeperText = k.text ∧ ∀ c, c < s.ncores → ∃ g, t.group? c 15 = some g
                ∧ ∀ j, j < 32 → g.lane j = { st := .run, pc := k.entry })
        ∧ ((∀ b ∈ s.boot.sources, s.boot.passes b = false) → t.groups = State.reset.groups
            ∧ (∀ cl, cl < 8 → (t.signets.getD cl {}).held = true) ∧ (∀ m, t.masterRuns m = false) ∧ t.boardState = 3
            ∧ t.hostUp = false ∧ t.bootEntry = none ∧ t.mrs = List.replicate 8 0))
    ∧ (∃ t, exec .powerLoss s = .next t ∧ t.mem = [] ∧ t.elogHead = 0 ∧ t.teams = [] ∧ t.groups = State.reset.groups
        ∧ t.boot = s.boot)
    ∧ (∀ die, s.thermal = false → s.allDies ≤ die → exec (.thermalStop die) s = .next s)
    ∧ (∀ die, s.thermal = false → die < s.allDies → ∃ t, exec (.thermalStop die) s = .next t ∧ t.thermal = true
        ∧ t.boardState = 4 ∧ t.hostUp = false ∧ t.teams = [] ∧ t.launches = [] ∧ t.contexts = [] ∧ t.issueQ = []
        ∧ (∀ g ∈ t.groups, g.keeper = true) ∧ ∀ c lost, exec (.issueOpportunity ⟨c, lost⟩) t = .next t)
    ∧ (s.boot.attach = true → s.thermal = false → exec .hotReset s = exec .deviceReset s
        ∧ exec .linkDown s = exec .deviceReset s)
    ∧ (s.boot.attach = false → s.thermal = false → s.boardState ≠ 3 → ∀ i k, (i = .hotReset ∧ k = 1 ∨ i = .linkDown ∧ k = 2) →
        ∃ t, exec i s = .next t ∧ told t k ∧ t.hostUp = false
          ∧ (∀ f ∈ t.fns, f.status = 0 ∧ f.pending = [] ∧ f.masked = true)
          ∧ { t with fns := s.fns, hostUp := s.hostUp, hostEvents := s.hostEvents } = s)
    ∧ (s.thermal = false → s.boardState ≠ 3 → ∃ t, exec .linkUp s = .next t ∧ told t 3 ∧ t.hostUp = true
        ∧ { t with hostUp := s.hostUp, hostEvents := s.hostEvents } = s)
    ∧ (∀ n f, n < 4 → s.thermal = false → s.boardState ≠ 3 → s.fns[n]? = some f →
        (∃ t, exec (.functionLevelReset n) s = .next t ∧ told t 4 ∧ t.fns[n]? = some { masked := true }
          ∧ (∀ m, m ≠ n → t.fns[m]? = s.fns[m]?) ∧ { t with fns := s.fns, hostEvents := s.hostEvents } = s)
        ∧ (s.hostUp = true → ∀ v, ∃ t f', exec (.driverStatusChange n v) s = .next t ∧ told t 5 ∧ t.fns[n]? = some f'
          ∧ (∀ m, m ≠ n → t.fns[m]? = s.fns[m]?) ∧ { t with fns := s.fns, hostEvents := s.hostEvents } = s
          ∧ (s.hostCtl.getLsbD n = false → f'.status = 0 ∧ f'.needsReset = (f.needsReset || v.getLsbD 2))
          ∧ (s.hostCtl.getLsbD n = true → f'.status = v ∧ (v = 0 → f'.pending = [] ∧ f'.used = [])))
        ∧ (s.hostUp = true → s.hostCtl.getLsbD n = true → f.status.getLsbD 2 = true → ∀ k, ∃ t f',
          exec (.virtioRequest n k) s = .next t ∧ t.fns[n]? = some f' ∧ { t with fns := s.fns } = s
            ∧ (let room := k / 65536 < (virtioDevice n).queues ∧ k % 65536 < 1024
                  ∧ (f.pending.filter (fun e => e / 65536 = k / 65536)).length < 1024;
                (k ∉ f.pending → room → k ∈ f'.pending ∧ k ∉ f'.used) ∧ (k ∉ f.pending → ¬room → f' = f))
            ∧ (k ∈ f.pending → k ∉ f'.pending ∧ k ∈ f'.used))
        ∧ (s.hostCtl.getLsbD n = false → ∀ k, exec (.virtioRequest n k) s = .next s))
    ∧ (s.halted = true ∨ s.hostEvents = [] → ∃ t, exec .hostev s = .next t ∧ t.busRead = 0xFFFFFFFFFFFFFFFF
        ∧ { t with busRead := s.busRead } = s)
    ∧ ∀ e l, s.halted = false → s.hostEvents = e :: l → ∃ t, exec .hostev s = .next t ∧ t.busRead = e ∧ t.hostEvents = l
        ∧ { t with busRead := s.busRead, hostEvents := s.hostEvents } = s

/-- Accesses of domain devices (R237, R371, R373): what no inbound entry admits has no effect, nor has a write behind one that
is held (R243); a device's own writes change its memory and its own entries; a read gives the bytes that any
reader finds, an atomic the old word, an MWAIT's check the word too, with a watch at its home while it holds (R254, R373),
which a later write that ends it marks; what lies in a retired frame has no effect (R328); a write changes its bytes and no other, and on cameo lines keeps the version that a
live snapshot of any context reads and stamps the line with the clock.

The readings of the inbound rules are log 57. A step that cannot happen in a state answers that state (next state
equal to the state): that is the model's form and no rule (log 6). -/
def Obligations.InboundAccesses : Prop :=
  ∀ (s : State) (src : Nat), s.thermal = false → s.WordsAligned → s.faulty = [] →
    let word := fun (t : State) (pa n : Nat) => leNat ((List.range n).map (fun k => t.view .mem (pa + k)))
    (∀ pa n, ((s.admits src pa n 62 = false ∨ s.framesLost pa n = true) → exec (.inboundAccess src (.read pa n)) s = .next s)
      ∧ (s.admits src pa n 62 = true → s.framesLost pa n = false → s.backedRange pa n = true →
        ∃ t, exec (.inboundAccess src (.read pa n)) s = .next t ∧ t.busRead = BitVec.ofNat 64 (word s pa n)
          ∧ ∀ a, t.view .mem a = s.view .mem a))
    ∧ (∀ pa bs cameo, (s.admits src pa bs.length 61 = false ∨ s.framesLost pa bs.length = true
          ∨ ∃ l ∈ linesAt pa bs.length, s.heldAt l = true) →
        exec (.inboundAccess src (.write pa bs cameo)) s = .next s)
    ∧ (∀ pa bs cameo, s.admits src pa bs.length 61 = true → s.framesLost pa bs.length = false → s.inboundRoom (linesAt pa bs.length) cameo = true →
        ∃ t, exec (.inboundAccess src (.write pa bs cameo)) s = .next t ∧ t.groups = s.groups ∧ t.clock = s.clock
          ∧ (∀ a, t.view .mem a = if pa ≤ a ∧ a < pa + bs.length then bs.getD (a - pa) 0 else s.view .mem a)
          ∧ (cameo = false → t.stamps = s.stamps ∧ t.contexts = s.contexts)
          ∧ (cameo = true → ∀ l, (l ∉ linesAt pa bs.length → t.stamp l = s.stamp l) ∧ (l ∈ linesAt pa bs.length →
              t.stamp l = s.clock ∧ ∀ y ∈ s.snaps, s.stamp l ≤ y.num →
                ∃ v ∈ (t.context y.ctx).versions, v.line = l ∧ v.stamp = s.stamp l ∧ v.succ = s.clock)))
    ∧ (src ≠ s.boot.domIdx.toNat → (∀ pa bs, ∃ t, exec (.inboundAccess src (.own pa bs)) s = .next t
          ∧ (∀ k, k < bs.length → t.byte (.peer src) (pa + k) = bs.getD k 0)
          ∧ (∀ q, { t.row q with woken := (s.row q).woken } = s.row q)
          ∧ { t with
              peer := s.peer, watches := s.watches, peerWatches := s.peerWatches, rows := s.rows, unmapped := s.unmapped
              packets := s.packets } = s)
        ∧ ∀ key v, key < 512 → ∃ t, exec (.inboundAccess src (.entry key v)) s = .next t
          ∧ sget t.peerInb (512 * src + key) = v ∧ { t with peerInb := s.peerInb } = s)
    ∧ (∀ pa b ne, pa % 4 = 0 → s.admits src pa 4 62 = true → s.framesLost pa 4 = false → s.backedRange pa 4 = true →
        let v := word s pa 4
        ∃ t, exec (.inboundAccess src (.watch pa b ne)) s = .next t ∧ t.busRead = BitVec.ofNat 64 v
          ∧ (∀ a, t.view .mem a = s.view .mem a)
          ∧ ((v = b.toNat ↔ ne = true) → t.peerWatches = s.peerWatches)
          ∧ (¬(v = b.toNat ↔ ne = true) → ∃ w ∈ t.peerWatches, w.src = src ∧ w.addr = pa ∧ w.b = b ∧ w.ne = ne ∧ w.fired = false))
    ∧ (∀ pa b ne, (pa % 4 ≠ 0 ∨ s.admits src pa 4 62 = false ∨ s.framesLost pa 4 = true) →
        exec (.inboundAccess src (.watch pa b ne)) s = .next s)
    ∧ (s.fire.peerWatches = s.peerWatches.map (fun w =>
        { w with fired := w.fired || (decide (s.num .mem w.addr 4 = w.b.toNat) == w.ne) }))
    ∧ (∀ pa, let mine := fun (w : PeerWatch) => w.src = src ∧ w.addr = pa
        ∃ t, exec (.inboundAccess src (.unwatch pa)) s = .next t ∧ (∀ w, w ∈ t.peerWatches ↔ w ∈ s.peerWatches ∧ ¬mine w)
          ∧ ((∃ w ∈ s.peerWatches, mine w ∧ w.fired = true) → t.busRead = 1)
          ∧ ((∀ w ∈ s.peerWatches, mine w → w.fired = false) → t.busRead = 0)
          ∧ { t with peerWatches := s.peerWatches, busRead := s.busRead } = s)
    ∧ ∀ op pa b d, pa % 4 = 0 → s.admits src pa 4 61 = true → s.readFails pa = false → s.backedRange pa 4 = true → s.heldAt (pa / 128) = false →
        ∃ t, exec (.inboundAccess src (.atom op pa b d false)) s = .next t ∧ t.busRead = BitVec.ofNat 64 (word s pa 4)
          ∧ word t pa 4 = (atomNew op (BitVec.ofNat 32 (word s pa 4)) b d).toNat
          ∧ ∀ a, ¬(pa ≤ a ∧ a < pa + 4) → t.view .mem a = s.view .mem a

/-- Checkpoints (R375 to R380): a job that cannot start ends with status 5; a block without a route to the buddy ends the
job with 4, one that does not translate, or for which the buddy refuses an access, with 2 (log 57); a block is read word by
word, or, of a cameo page, as a whole at the snapshot (R377), where it is this device's own (a cameo page of a peer is a fault,
log 57), and then stored, or tried again while another job fills its
entry, and a full store ends the job with 3; a stored block's manifest slot holds its address, its digest and its
entry; the end writes the number of blocks, releases its snapshot, and raises COMPLETE with the status in CKSTAT.

The digest is SHAKE256, computed (log 9). The statuses of a bad request and the form of a manifest slot are log 58.
A step that cannot happen in a state answers that state (next state equal to the state): that is the model's form
and no rule (log 6). -/
def Obligations.Checkpoints : Prop :=
  ∀ s : State,
    ((s.ckpt.isSome = true ∨ s.halted = true) → ∀ v, exec (.ckcmd v) s = .next s)
    ∧ (s.halted = true → exec .checkpointBlock s = .next s ∧ exec .checkpointEnd s = .next s)
    ∧ (s.ckpt = none → s.halted = false → ∀ v : DWord,
        let b := s.deviceBytes v.toNat 128
        (s.ckptOk v.toNat b = false → ∃ t c, exec (.ckcmd v) s = .next t ∧ t.ckpt = some c ∧ c.outcome = some 5
          ∧ { t with ckpt := none } = s)
        ∧ (s.ckptOk v.toNat b = true → bitN (field b 44 1) 0 = false → ∃ t c, exec (.ckcmd v) s = .next t
          ∧ t.ckpt = some c ∧ { t with ckpt := none } = s ∧ c.done = 0 ∧ c.desc = v.toNat ∧ c.buddy = field b 46 2 % 512
          ∧ (c.outcome = none ↔ ∃ y ∈ s.snaps, y.ctx = c.ctx.ctxid ∧ y.num = BitVec.ofNat 64 (field b 24 8)))
        ∧ (s.ckptOk v.toNat b = true → bitN (field b 44 1) 0 = true → s.snaps.length < 4096 →
          ∃ t c, exec (.ckcmd v) s = .next t ∧ t.ckpt = some c ∧ c.outcome = none ∧ c.snap = s.clock
            ∧ t.clock = s.clock + 1 ∧ ∃ y ∈ t.snaps, y.num = s.clock ∧ y.ctx = c.ctx.ctxid))
    ∧ (∀ c va n rest, s.halted = false → s.ckpt = some c → c.outcome = none → c.blocks = (va, n) :: rest →
        let n' := c.part.length
        let ends := fun (t : State) (k : Nat) => exec .checkpointBlock s = .next { t with ckpt := some { c with outcome := some k } }
        (s.routeTo c.buddy = false → ends s 4)
        ∧ (s.routeTo c.buddy = true → n' < 4096 →
          let fails := ∃ t, exec .checkpointBlock s = .next t ∧ t.ckpt = some { c with outcome := some 2 }
            ∧ (s.faulty = [] → s.WordsAligned → s.Recalled { t with ckpt := s.ckpt })
          let reads := fun (bytes : State → List Byte) => s.faulty = [] → s.WordsAligned →
            ∃ t, exec .checkpointBlock s = .next t ∧ s.Recalled { t with ckpt := s.ckpt }
              ∧ t.ckpt = some { c with part := c.part ++ bytes t, born := s.time }
          (s.frontPlace c.ctx va 4096 { r := true } = none → fails)
          ∧ ∀ pl, s.frontPlace c.ctx va 4096 { r := true } = some pl →
            (pl.space = .mem →
              (pl.cameo = false → (s.badIn (pl.addr + n') 4 ≠ none → fails)
                ∧ (s.framesLost (pl.addr + n') 4 = false → s.backedRange (pl.addr + n') 4 = true →
                  reads (fun _ => (List.range 4).map (fun k => s.view .mem (pl.addr + n' + k)))))
              ∧ (pl.cameo = true → (s.badIn pl.addr 4096 ≠ none → fails)
                ∧ (s.framesLost pl.addr 4096 = false →
                  reads (fun t => (linesAt pl.addr 4096).flatMap (fun l => t.lineAt l c.snap)))))
            ∧ ∀ d, pl.space = .peer d → ((pl.cameo = true ∨ s.routeTo d = false) → fails)
              ∧ (pl.cameo = false → s.routeTo d = true →
                reads (fun _ => (List.range 4).map (fun k => s.byte (.peer d) (pl.addr + n' + k)))))
        ∧ (s.routeTo c.buddy = true → 4096 ≤ n' →
          let digest := shake256 c.part 16
          let stored := s.storeBlock c digest c.part 16 0
          let slot := c.manifest + 32 * c.done.toNat
          (∀ e w, stored = .at e w → w.peerAdmits c.buddy slot 32 false true = true →
            ∃ t, exec .checkpointBlock s = .next t
              ∧ t.ckpt = some { c with
                  done := c.done + 1, blocks := if n ≤ 1 then rest else (va + 4096, n - 1) :: rest, part := [], born := s.time }
              ∧ t.num (.peer c.buddy) slot 8 = va.toNat ∧ t.bytes (.peer c.buddy) (slot + 8) 16 = digest
              ∧ t.num (.peer c.buddy) (slot + 24) 8 = e % 2 ^ 64)
          ∧ (∀ w, (stored = .refused w ∨ ∃ e, stored = .at e w ∧ w.peerAdmits c.buddy slot 32 false true = false) → ends w 2)
          ∧ (∀ w, stored = .full w → ends w 3)
          ∧ (stored = .busy → exec .checkpointBlock s = .next s))
        ∧ exec .checkpointEnd s = .next s)
    ∧ ∀ c, s.halted = false → s.ckpt = some c → (c.outcome.isSome = true ∨ c.blocks = []) →
        ∃ t, exec .checkpointEnd s = .next t ∧ t.ckpt = none ∧ t.raised 2 0
          ∧ (c.outcome = none → t.ckStatus = 1) ∧ (∀ n, c.outcome = some n → t.ckStatus = BitVec.ofNat 8 n)
          ∧ (c.snapNow = true → ∀ y, y ∈ t.snaps ↔ y ∈ s.snaps ∧ y.ckpt = false) ∧ (c.snapNow = false → t.snaps = s.snaps)
          ∧ (s.WordsAligned → s.backedRange (c.desc + 16) 8 = true → t.deviceNum (c.desc + 16) 8 = c.done.toNat)

/-- Attestation (R369, R370), links (R372) and the board controller (R384, R385): a request is ignored while one is busy and
refused where its block is not aligned or backed; the evidence begins with the capability records; an extended measurement
register is the digest of its old value and the new bytes (log 9); a link goes down and up, with or without a flit resent; a
power cap takes effect between 600 and 2,400 W, and one below 600 acts as 600.

The digest is SHAKE256, computed, and a signature an opaque value of Config (log 9); the power cap's effect is log
54. A step that cannot happen in a state answers that state (next state equal to the state): that is the model's
form and no rule (log 6). -/
def Obligations.AttestationLinksAndBoard : Prop :=
  ∀ s : State,
    (∀ v : DWord, ((s.areq.isSome = true ∨ s.halted = true) → exec (.areq v) s = .next s)
      ∧ (s.areq = none → s.halted = false → ∃ t, exec (.areq v) s = .next t
          ∧ { t with areq := none, astatErr := s.astatErr } = s
          ∧ (v.toNat % 64 = 0 → s.backedRange v.toNat 1024 = true → t.areq = some v.toNat ∧ t.astatErr = false)
          ∧ ((v.toNat % 64 ≠ 0 ∨ s.backedRange v.toNat 1024 = false) → t.areq = none ∧ t.astatErr = true)))
    ∧ (s.areq = none ∨ s.halted = true → exec .evidenceSigned s = .next s)
    ∧ (∀ a, s.halted = false → s.areq = some a → s.backedRange a 1024 = true → s.WordsAligned → s.mrs.length = 8 →
        ∃ t, exec .evidenceSigned s = .next t ∧ t.areq = none ∧ t.deviceNum (a + 64) 8 = s.capRecord 0 % 2 ^ 64
          ∧ t.deviceNum (a + 88) 8 = s.domId % 2 ^ 64
          ∧ (∀ k m, s.mrs[k]? = some m → t.deviceNum (a + 96 + 64 * k) 64 = m.toNat)
          ∧ ∀ x, ¬(a + 64 ≤ x ∧ x < a + 608) → ¬(a + 672 ≤ x ∧ x < a + 1024) → t.view .mem x = s.view .mem x)
    ∧ (∀ (n : Nat) (m : BitVec 512) (v : List Byte), s.mrs[n]? = some m → v.length = 64 →
        (n < 2 → exec (.mrExtend n v) s = .next s)
        ∧ (s.halted = true → exec (.mrExtend n v) s = .next s)
        ∧ (2 ≤ n → n ≤ 7 → s.halted = false → ∃ t, exec (.mrExtend n v) s = .next t ∧ { t with mrs := s.mrs } = s
            ∧ t.mrs[n]? = some (BitVec.ofNat 512 (leNat (shake256 (leBytes 64 m.toNat ++ v) 64)))
            ∧ ∀ k, k ≠ n → t.mrs[k]? = s.mrs[k]?))
    ∧ (∀ l, l < 9 * s.dies → ∀ i on, (i = .weaberLinkDown l ∧ on = true ∨ i = .weaberLinkUp ⟨l, false⟩ ∧ on = false) →
        ∃ t, exec i s = .next t ∧ { t with linksDown := s.linksDown } = s
          ∧ ∀ k, k < 18 → t.linksDown.getLsbD k = if k = l then on else s.linksDown.getLsbD k)
    ∧ (∀ l, l < 9 * s.dies → ∃ t, exec (.weaberLinkUp ⟨l, true⟩) s = .next t ∧ t.groups = s.groups ∧ t.teams = s.teams
        ∧ ∀ k, k < 18 → t.linksDown.getLsbD k = if k = l then false else s.linksDown.getLsbD k)
    ∧ (∀ v : DWord, ∃ t, exec (.pcap v) s = .next t ∧ t.pcap = v.setWidth 16 ∧ { t with pcap := s.pcap } = s)
    ∧ (∃ t, exec .powerCapApply s = .next t ∧ { t with capInForce := s.capInForce } = s ∧ 600 ≤ t.capInForce
        ∧ t.capInForce ≤ 2400 ∧ (s.pcap = 0 → t.capInForce = 2400)
        ∧ (s.pcap ≠ 0 → s.pcap.toNat < 600 → t.capInForce = 600) ∧ (2400 < s.pcap.toNat → t.capInForce = 2400)
        ∧ (600 ≤ s.pcap.toNat → s.pcap.toNat ≤ 2400 → t.capInForce = s.pcap.toNat))
    ∧ ∀ a, ∃ t, exec (.dynamicAddress a) s = .next t ∧ t.i3cAddr = a ∧ { t with i3cAddr := s.i3cAddr } = s
end

