-- ==== Sys2Proof/Laws/Dispatch.lean ====
section
/-! SUPPORT. Laws of dispatch: what `exec` is for each constructor. -/

namespace Sys2Proof.Machine

@[simp] theorem exec_bra (x : Exts) (n : BitVec 1) (g : BitVec 3) (o : BitVec 22) (st : State) :
    exec (.bra x n g o) st = execBra x n g o st := rfl
@[simp] theorem exec_call (x : Exts) (n : BitVec 1) (g : BitVec 3) (o : BitVec 22) (st : State) :
    exec (.call x n g o) st = execCall x n g o st := rfl
@[simp] theorem exec_loop (x : Exts) (d a : BitVec 7) (i : BitVec 12) (st : State) :
    exec (.loop x d a i) st = execLoop x d a i st := rfl
@[simp] theorem exec_loopi (x : Exts) (d a : BitVec 7) (i : BitVec 12) (st : State) :
    exec (.loopi x d a i) st = execLoopi x d a i st := rfl
@[simp] theorem exec_bri (x : Exts) (a : BitVec 7) (st : State) :
    exec (.bri x a) st = execBri x a st := rfl
@[simp] theorem exec_calli (x : Exts) (a : BitVec 7) (st : State) :
    exec (.calli x a) st = execCalli x a st := rfl
@[simp] theorem exec_ret (x : Exts) (st : State) :
    exec (.ret x) st = execRet x st := rfl
@[simp] theorem exec_exit (x : Exts) (st : State) :
    exec (.exit x) st = execExit x st := rfl
@[simp] theorem exec_cjoin (x : Exts) (a : BitVec 7) (st : State) :
    exec (.cjoin x a) st = execCjoin x a st := rfl
@[simp] theorem exec_yield (x : Exts) (st : State) :
    exec (.yield x) st = execYield x st := rfl
@[simp] theorem exec_nop (x : Exts) (st : State) :
    exec (.nop x) st = execNop x st := rfl
@[simp] theorem exec_cmark (x : Exts) (d : BitVec 7) (st : State) :
    exec (.cmark x d) st = execCmark x d st := rfl
@[simp] theorem exec_wbase (x : Exts) (i : BitVec 12) (st : State) :
    exec (.wbase x i) st = execWbase x i st := rfl
@[simp] theorem exec_sadd (x : Exts) (d a b : BitVec 7) (st : State) :
    exec (.sadd x d a b) st = execSadd x d a b st := rfl
@[simp] theorem exec_ssub (x : Exts) (d a b : BitVec 7) (st : State) :
    exec (.ssub x d a b) st = execSsub x d a b st := rfl
@[simp] theorem exec_smul (x : Exts) (d a b : BitVec 7) (st : State) :
    exec (.smul x d a b) st = execSmul x d a b st := rfl
@[simp] theorem exec_smad (x : Exts) (d a b : BitVec 7) (st : State) :
    exec (.smad x d a b) st = execSmad x d a b st := rfl
@[simp] theorem exec_sand (x : Exts) (d a b : BitVec 7) (st : State) :
    exec (.sand x d a b) st = execSand x d a b st := rfl
@[simp] theorem exec_sor (x : Exts) (d a b : BitVec 7) (st : State) :
    exec (.sor x d a b) st = execSor x d a b st := rfl
@[simp] theorem exec_sxor (x : Exts) (d a b : BitVec 7) (st : State) :
    exec (.sxor x d a b) st = execSxor x d a b st := rfl
@[simp] theorem exec_sshl (x : Exts) (d a b : BitVec 7) (st : State) :
    exec (.sshl x d a b) st = execSshl x d a b st := rfl
@[simp] theorem exec_sshr (x : Exts) (d a b : BitVec 7) (st : State) :
    exec (.sshr x d a b) st = execSshr x d a b st := rfl
@[simp] theorem exec_ssra (x : Exts) (d a b : BitVec 7) (st : State) :
    exec (.ssra x d a b) st = execSsra x d a b st := rfl
@[simp] theorem exec_smin (x : Exts) (d a b : BitVec 7) (st : State) :
    exec (.smin x d a b) st = execSmin x d a b st := rfl
@[simp] theorem exec_smax (x : Exts) (d a b : BitVec 7) (st : State) :
    exec (.smax x d a b) st = execSmax x d a b st := rfl
@[simp] theorem exec_scmp (x : Exts) (d a b : BitVec 7) (st : State) :
    exec (.scmp x d a b) st = execScmp x d a b st := rfl
@[simp] theorem exec_smov (x : Exts) (d a : BitVec 7) (st : State) :
    exec (.smov x d a) st = execSmov x d a st := rfl
@[simp] theorem exec_smovi (x : Exts) (d : BitVec 7) (i : BitVec 12) (st : State) :
    exec (.smovi x d i) st = execSmovi x d i st := rfl
@[simp] theorem exec_sread (x : Exts) (d : BitVec 7) (i : BitVec 12) (st : State) :
    exec (.sread x d i) st = execSread x d i st := rfl
@[simp] theorem exec_swrite (x : Exts) (a : BitVec 7) (i : BitVec 12) (st : State) :
    exec (.swrite x a i) st = execSwrite x a i st := rfl
@[simp] theorem exec_iadd (x : Exts) (d a b : BitVec 7) (st : State) :
    exec (.iadd x d a b) st = execIadd x d a b st := rfl
@[simp] theorem exec_iaddc (x : Exts) (d a b : BitVec 7) (st : State) :
    exec (.iaddc x d a b) st = execIaddc x d a b st := rfl
@[simp] theorem exec_isub (x : Exts) (d a b : BitVec 7) (st : State) :
    exec (.isub x d a b) st = execIsub x d a b st := rfl
@[simp] theorem exec_imul (x : Exts) (d a b : BitVec 7) (st : State) :
    exec (.imul x d a b) st = execImul x d a b st := rfl
@[simp] theorem exec_imulh (x : Exts) (d a b : BitVec 7) (st : State) :
    exec (.imulh x d a b) st = execImulh x d a b st := rfl
@[simp] theorem exec_imad (x : Exts) (d a b : BitVec 7) (st : State) :
    exec (.imad x d a b) st = execImad x d a b st := rfl
@[simp] theorem exec_imadw (x : Exts) (d a b : BitVec 7) (st : State) :
    exec (.imadw x d a b) st = execImadw x d a b st := rfl
@[simp] theorem exec_iand (x : Exts) (d a b : BitVec 7) (st : State) :
    exec (.iand x d a b) st = execIand x d a b st := rfl
@[simp] theorem exec_ior (x : Exts) (d a b : BitVec 7) (st : State) :
    exec (.ior x d a b) st = execIor x d a b st := rfl
@[simp] theorem exec_ixor (x : Exts) (d a b : BitVec 7) (st : State) :
    exec (.ixor x d a b) st = execIxor x d a b st := rfl
@[simp] theorem exec_inot (x : Exts) (d a : BitVec 7) (st : State) :
    exec (.inot x d a) st = execInot x d a st := rfl
@[simp] theorem exec_ishl (x : Exts) (d a b : BitVec 7) (st : State) :
    exec (.ishl x d a b) st = execIshl x d a b st := rfl
@[simp] theorem exec_ishr (x : Exts) (d a b : BitVec 7) (st : State) :
    exec (.ishr x d a b) st = execIshr x d a b st := rfl
@[simp] theorem exec_isra (x : Exts) (d a b : BitVec 7) (st : State) :
    exec (.isra x d a b) st = execIsra x d a b st := rfl
@[simp] theorem exec_imin (x : Exts) (d a b : BitVec 7) (st : State) :
    exec (.imin x d a b) st = execImin x d a b st := rfl
@[simp] theorem exec_imax (x : Exts) (d a b : BitVec 7) (st : State) :
    exec (.imax x d a b) st = execImax x d a b st := rfl
@[simp] theorem exec_iabs (x : Exts) (d a : BitVec 7) (st : State) :
    exec (.iabs x d a) st = execIabs x d a st := rfl
@[simp] theorem exec_icmp (x : Exts) (d a b : BitVec 7) (st : State) :
    exec (.icmp x d a b) st = execIcmp x d a b st := rfl
@[simp] theorem exec_isel (x : Exts) (d a b : BitVec 7) (st : State) :
    exec (.isel x d a b) st = execIsel x d a b st := rfl
@[simp] theorem exec_popc (x : Exts) (d a : BitVec 7) (st : State) :
    exec (.popc x d a) st = execPopc x d a st := rfl
@[simp] theorem exec_clz (x : Exts) (d a : BitVec 7) (st : State) :
    exec (.clz x d a) st = execClz x d a st := rfl
@[simp] theorem exec_brev (x : Exts) (d a : BitVec 7) (st : State) :
    exec (.brev x d a) st = execBrev x d a st := rfl
@[simp] theorem exec_bfx (x : Exts) (d a b : BitVec 7) (st : State) :
    exec (.bfx x d a b) st = execBfx x d a b st := rfl
@[simp] theorem exec_bfi (x : Exts) (d a b : BitVec 7) (st : State) :
    exec (.bfi x d a b) st = execBfi x d a b st := rfl
@[simp] theorem exec_lea (x : Exts) (d a b : BitVec 7) (st : State) :
    exec (.lea x d a b) st = execLea x d a b st := rfl
@[simp] theorem exec_pand (x : Exts) (d a b : BitVec 7) (st : State) :
    exec (.pand x d a b) st = execPand x d a b st := rfl
@[simp] theorem exec_por (x : Exts) (d a b : BitVec 7) (st : State) :
    exec (.por x d a b) st = execPor x d a b st := rfl
@[simp] theorem exec_pxor (x : Exts) (d a b : BitVec 7) (st : State) :
    exec (.pxor x d a b) st = execPxor x d a b st := rfl
@[simp] theorem exec_pnot (x : Exts) (d a : BitVec 7) (st : State) :
    exec (.pnot x d a) st = execPnot x d a st := rfl
@[simp] theorem exec_pmov (x : Exts) (d a : BitVec 7) (st : State) :
    exec (.pmov x d a) st = execPmov x d a st := rfl
@[simp] theorem exec_voteP (x : Exts) (d a : BitVec 7) (st : State) :
    exec (.voteP x d a) st = execVoteP x d a st := rfl
@[simp] theorem exec_voteS (x : Exts) (d a : BitVec 7) (st : State) :
    exec (.voteS x d a) st = execVoteS x d a st := rfl
@[simp] theorem exec_matchV (x : Exts) (d a : BitVec 7) (st : State) :
    exec (.matchV x d a) st = execMatchV x d a st := rfl
@[simp] theorem exec_matchS (x : Exts) (d a : BitVec 7) (st : State) :
    exec (.matchS x d a) st = execMatchS x d a st := rfl
@[simp] theorem exec_redIV (x : Exts) (d a : BitVec 7) (st : State) :
    exec (.redIV x d a) st = execRedIV x d a st := rfl
@[simp] theorem exec_redIS (x : Exts) (d a : BitVec 7) (st : State) :
    exec (.redIS x d a) st = execRedIS x d a st := rfl
@[simp] theorem exec_scanIV (x : Exts) (d a : BitVec 7) (st : State) :
    exec (.scanIV x d a) st = execScanIV x d a st := rfl
@[simp] theorem exec_scanIS (x : Exts) (d a : BitVec 7) (st : State) :
    exec (.scanIS x d a) st = execScanIS x d a st := rfl
@[simp] theorem exec_fadd (x : Exts) (d a b : BitVec 7) (st : State) :
    exec (.fadd x d a b) st = execFadd x d a b st := rfl
@[simp] theorem exec_fsub (x : Exts) (d a b : BitVec 7) (st : State) :
    exec (.fsub x d a b) st = execFsub x d a b st := rfl
@[simp] theorem exec_fmul (x : Exts) (d a b : BitVec 7) (st : State) :
    exec (.fmul x d a b) st = execFmul x d a b st := rfl
@[simp] theorem exec_ffma (x : Exts) (d a b : BitVec 7) (st : State) :
    exec (.ffma x d a b) st = execFfma x d a b st := rfl
@[simp] theorem exec_fmin (x : Exts) (d a b : BitVec 7) (st : State) :
    exec (.fmin x d a b) st = execFmin x d a b st := rfl
@[simp] theorem exec_fmax (x : Exts) (d a b : BitVec 7) (st : State) :
    exec (.fmax x d a b) st = execFmax x d a b st := rfl
@[simp] theorem exec_fcmp (x : Exts) (d a b : BitVec 7) (st : State) :
    exec (.fcmp x d a b) st = execFcmp x d a b st := rfl
@[simp] theorem exec_fclass (x : Exts) (d a : BitVec 7) (st : State) :
    exec (.fclass x d a) st = execFclass x d a st := rfl
@[simp] theorem exec_frnd (x : Exts) (d a : BitVec 7) (st : State) :
    exec (.frnd x d a) st = execFrnd x d a st := rfl
@[simp] theorem exec_faddX (x : Exts) (d a b : BitVec 7) (st : State) :
    exec (.faddX x d a b) st = execFaddX x d a b st := rfl
@[simp] theorem exec_fsubX (x : Exts) (d a b : BitVec 7) (st : State) :
    exec (.fsubX x d a b) st = execFsubX x d a b st := rfl
@[simp] theorem exec_fmulX (x : Exts) (d a b : BitVec 7) (st : State) :
    exec (.fmulX x d a b) st = execFmulX x d a b st := rfl
@[simp] theorem exec_dwadd (x : Exts) (d a b : BitVec 7) (st : State) :
    exec (.dwadd x d a b) st = execDwadd x d a b st := rfl
@[simp] theorem exec_dwsub (x : Exts) (d a b : BitVec 7) (st : State) :
    exec (.dwsub x d a b) st = execDwsub x d a b st := rfl
@[simp] theorem exec_dwmul (x : Exts) (d a b : BitVec 7) (st : State) :
    exec (.dwmul x d a b) st = execDwmul x d a b st := rfl
@[simp] theorem exec_dwnorm (x : Exts) (d a : BitVec 7) (st : State) :
    exec (.dwnorm x d a) st = execDwnorm x d a st := rfl
@[simp] theorem exec_faddF64 (x : Exts) (d a b : BitVec 7) (st : State) :
    exec (.faddF64 x d a b) st = execFaddF64 x d a b st := rfl
@[simp] theorem exec_fsubF64 (x : Exts) (d a b : BitVec 7) (st : State) :
    exec (.fsubF64 x d a b) st = execFsubF64 x d a b st := rfl
@[simp] theorem exec_fmulF64 (x : Exts) (d a b : BitVec 7) (st : State) :
    exec (.fmulF64 x d a b) st = execFmulF64 x d a b st := rfl
@[simp] theorem exec_ffmaF64 (x : Exts) (d a b : BitVec 7) (st : State) :
    exec (.ffmaF64 x d a b) st = execFfmaF64 x d a b st := rfl
@[simp] theorem exec_fminF64 (x : Exts) (d a b : BitVec 7) (st : State) :
    exec (.fminF64 x d a b) st = execFminF64 x d a b st := rfl
@[simp] theorem exec_fmaxF64 (x : Exts) (d a b : BitVec 7) (st : State) :
    exec (.fmaxF64 x d a b) st = execFmaxF64 x d a b st := rfl
@[simp] theorem exec_fcmpF64 (x : Exts) (d a b : BitVec 7) (st : State) :
    exec (.fcmpF64 x d a b) st = execFcmpF64 x d a b st := rfl
@[simp] theorem exec_fclassF64 (x : Exts) (d a : BitVec 7) (st : State) :
    exec (.fclassF64 x d a) st = execFclassF64 x d a st := rfl
@[simp] theorem exec_frndF64 (x : Exts) (d a : BitVec 7) (st : State) :
    exec (.frndF64 x d a) st = execFrndF64 x d a st := rfl
@[simp] theorem exec_faddXF64 (x : Exts) (d a b : BitVec 7) (st : State) :
    exec (.faddXF64 x d a b) st = execFaddXF64 x d a b st := rfl
@[simp] theorem exec_fsubXF64 (x : Exts) (d a b : BitVec 7) (st : State) :
    exec (.fsubXF64 x d a b) st = execFsubXF64 x d a b st := rfl
@[simp] theorem exec_fmulXF64 (x : Exts) (d a b : BitVec 7) (st : State) :
    exec (.fmulXF64 x d a b) st = execFmulXF64 x d a b st := rfl
@[simp] theorem exec_dwaddF64 (x : Exts) (d a b : BitVec 7) (st : State) :
    exec (.dwaddF64 x d a b) st = execDwaddF64 x d a b st := rfl
@[simp] theorem exec_dwsubF64 (x : Exts) (d a b : BitVec 7) (st : State) :
    exec (.dwsubF64 x d a b) st = execDwsubF64 x d a b st := rfl
@[simp] theorem exec_dwmulF64 (x : Exts) (d a b : BitVec 7) (st : State) :
    exec (.dwmulF64 x d a b) st = execDwmulF64 x d a b st := rfl
@[simp] theorem exec_dwnormF64 (x : Exts) (d a : BitVec 7) (st : State) :
    exec (.dwnormF64 x d a) st = execDwnormF64 x d a st := rfl
@[simp] theorem exec_fdiv (x : Exts) (d a b : BitVec 7) (st : State) :
    exec (.fdiv x d a b) st = execFdiv x d a b st := rfl
@[simp] theorem exec_fsqrt (x : Exts) (d a : BitVec 7) (st : State) :
    exec (.fsqrt x d a) st = execFsqrt x d a st := rfl
@[simp] theorem exec_frcp (x : Exts) (d a : BitVec 7) (st : State) :
    exec (.frcp x d a) st = execFrcp x d a st := rfl
@[simp] theorem exec_frsq (x : Exts) (d a : BitVec 7) (st : State) :
    exec (.frsq x d a) st = execFrsq x d a st := rfl
@[simp] theorem exec_fex2 (x : Exts) (d a : BitVec 7) (st : State) :
    exec (.fex2 x d a) st = execFex2 x d a st := rfl
@[simp] theorem exec_flg2 (x : Exts) (d a : BitVec 7) (st : State) :
    exec (.flg2 x d a) st = execFlg2 x d a st := rfl
@[simp] theorem exec_fsin (x : Exts) (d a : BitVec 7) (st : State) :
    exec (.fsin x d a) st = execFsin x d a st := rfl
@[simp] theorem exec_fcos (x : Exts) (d a : BitVec 7) (st : State) :
    exec (.fcos x d a) st = execFcos x d a st := rfl
@[simp] theorem exec_fdivF64 (x : Exts) (d a b : BitVec 7) (st : State) :
    exec (.fdivF64 x d a b) st = execFdivF64 x d a b st := rfl
@[simp] theorem exec_fsqrtF64 (x : Exts) (d a : BitVec 7) (st : State) :
    exec (.fsqrtF64 x d a) st = execFsqrtF64 x d a st := rfl
@[simp] theorem exec_frcpF64 (x : Exts) (d a : BitVec 7) (st : State) :
    exec (.frcpF64 x d a) st = execFrcpF64 x d a st := rfl
@[simp] theorem exec_frsqF64 (x : Exts) (d a : BitVec 7) (st : State) :
    exec (.frsqF64 x d a) st = execFrsqF64 x d a st := rfl
@[simp] theorem exec_cvt (x : Exts) (d a : BitVec 7) (src t : BitVec 5) (st : State) :
    exec (.cvt x d a src t) st = execCvt x d a src t st := rfl
@[simp] theorem exec_redFV (x : Exts) (d a : BitVec 7) (st : State) :
    exec (.redFV x d a) st = execRedFV x d a st := rfl
@[simp] theorem exec_redFS (x : Exts) (d a : BitVec 7) (st : State) :
    exec (.redFS x d a) st = execRedFS x d a st := rfl
@[simp] theorem exec_redFcV (x : Exts) (d a : BitVec 7) (st : State) :
    exec (.redFcV x d a) st = execRedFcV x d a st := rfl
@[simp] theorem exec_redFcS (x : Exts) (d a : BitVec 7) (st : State) :
    exec (.redFcS x d a) st = execRedFcS x d a st := rfl
@[simp] theorem exec_scanF (x : Exts) (d a : BitVec 7) (st : State) :
    exec (.scanF x d a) st = execScanF x d a st := rfl
@[simp] theorem exec_redFF64V (x : Exts) (d a : BitVec 7) (st : State) :
    exec (.redFF64V x d a) st = execRedFF64V x d a st := rfl
@[simp] theorem exec_redFF64S (x : Exts) (d a : BitVec 7) (st : State) :
    exec (.redFF64S x d a) st = execRedFF64S x d a st := rfl
@[simp] theorem exec_redFcF64 (x : Exts) (d a : BitVec 7) (st : State) :
    exec (.redFcF64 x d a) st = execRedFcF64 x d a st := rfl
@[simp] theorem exec_scanFF64 (x : Exts) (d a : BitVec 7) (st : State) :
    exec (.scanFF64 x d a) st = execScanFF64 x d a st := rfl
@[simp] theorem exec_flgr (x : Exts) (d : BitVec 7) (st : State) :
    exec (.flgr x d) st = execFlgr x d st := rfl
@[simp] theorem exec_flgc (x : Exts) (m : BitVec 5) (st : State) :
    exec (.flgc x m) st = execFlgc x m st := rfl
@[simp] theorem exec_qset (x : Exts) (d a : BitVec 7) (st : State) :
    exec (.qset x d a) st = execQset x d a st := rfl
@[simp] theorem exec_nset (x : Exts) (d a : BitVec 7) (st : State) :
    exec (.nset x d a) st = execNset x d a st := rfl
@[simp] theorem exec_ld (x : Exts) (d a : BitVec 7) (i : BitVec 12) (st : State) :
    exec (.ld x d a i) st = execLd x d a i st := rfl
@[simp] theorem exec_st (x : Exts) (d a : BitVec 7) (i : BitVec 12) (st : State) :
    exec (.st x d a i) st = execSt x d a i st := rfl
@[simp] theorem exec_atomAdd (x : Exts) (d a b : BitVec 7) (st : State) :
    exec (.atomAdd x d a b) st = execAtomAdd x d a b st := rfl
@[simp] theorem exec_atomMin (x : Exts) (d a b : BitVec 7) (st : State) :
    exec (.atomMin x d a b) st = execAtomMin x d a b st := rfl
@[simp] theorem exec_atomMax (x : Exts) (d a b : BitVec 7) (st : State) :
    exec (.atomMax x d a b) st = execAtomMax x d a b st := rfl
@[simp] theorem exec_atomAnd (x : Exts) (d a b : BitVec 7) (st : State) :
    exec (.atomAnd x d a b) st = execAtomAnd x d a b st := rfl
@[simp] theorem exec_atomOr (x : Exts) (d a b : BitVec 7) (st : State) :
    exec (.atomOr x d a b) st = execAtomOr x d a b st := rfl
@[simp] theorem exec_atomXor (x : Exts) (d a b : BitVec 7) (st : State) :
    exec (.atomXor x d a b) st = execAtomXor x d a b st := rfl
@[simp] theorem exec_atomXchg (x : Exts) (d a b : BitVec 7) (st : State) :
    exec (.atomXchg x d a b) st = execAtomXchg x d a b st := rfl
@[simp] theorem exec_atomCas (x : Exts) (d a b : BitVec 7) (st : State) :
    exec (.atomCas x d a b) st = execAtomCas x d a b st := rfl
@[simp] theorem exec_atomInc (x : Exts) (d a b : BitVec 7) (st : State) :
    exec (.atomInc x d a b) st = execAtomInc x d a b st := rfl
@[simp] theorem exec_atomDec (x : Exts) (d a b : BitVec 7) (st : State) :
    exec (.atomDec x d a b) st = execAtomDec x d a b st := rfl
@[simp] theorem exec_atomXchgT (x : Exts) (d a b : BitVec 7) (st : State) :
    exec (.atomXchgT x d a b) st = execAtomXchgT x d a b st := rfl
@[simp] theorem exec_redMAdd (x : Exts) (a b : BitVec 7) (st : State) :
    exec (.redMAdd x a b) st = execRedMAdd x a b st := rfl
@[simp] theorem exec_redMMin (x : Exts) (a b : BitVec 7) (st : State) :
    exec (.redMMin x a b) st = execRedMMin x a b st := rfl
@[simp] theorem exec_redMMax (x : Exts) (a b : BitVec 7) (st : State) :
    exec (.redMMax x a b) st = execRedMMax x a b st := rfl
@[simp] theorem exec_redMAnd (x : Exts) (a b : BitVec 7) (st : State) :
    exec (.redMAnd x a b) st = execRedMAnd x a b st := rfl
@[simp] theorem exec_redMOr (x : Exts) (a b : BitVec 7) (st : State) :
    exec (.redMOr x a b) st = execRedMOr x a b st := rfl
@[simp] theorem exec_redMXor (x : Exts) (a b : BitVec 7) (st : State) :
    exec (.redMXor x a b) st = execRedMXor x a b st := rfl
@[simp] theorem exec_mwait (x : Exts) (a b : BitVec 7) (st : State) :
    exec (.mwait x a b) st = execMwait x a b st := rfl
@[simp] theorem exec_fenceAcq (x : Exts) (src : BitVec 3) (st : State) :
    exec (.fenceAcq x src) st = execFenceAcq x src st := rfl
@[simp] theorem exec_fenceRel (x : Exts) (src : BitVec 3) (st : State) :
    exec (.fenceRel x src) st = execFenceRel x src st := rfl
@[simp] theorem exec_fenceSc (x : Exts) (src : BitVec 3) (st : State) :
    exec (.fenceSc x src) st = execFenceSc x src st := rfl
@[simp] theorem exec_fenceEngine (x : Exts) (st : State) :
    exec (.fenceEngine x) st = execFenceEngine x st := rfl
@[simp] theorem exec_fenceCode (x : Exts) (st : State) :
    exec (.fenceCode x) st = execFenceCode x st := rfl
@[simp] theorem exec_icinv (x : Exts) (a : BitVec 7) (st : State) :
    exec (.icinv x a) st = execIcinv x a st := rfl
@[simp] theorem exec_dcflush (x : Exts) (a : BitVec 7) (st : State) :
    exec (.dcflush x a) st = execDcflush x a st := rfl
@[simp] theorem exec_dcinv (x : Exts) (a : BitVec 7) (st : State) :
    exec (.dcinv x a) st = execDcinv x a st := rfl
@[simp] theorem exec_pref (x : Exts) (a : BitVec 7) (st : State) :
    exec (.pref x a) st = execPref x a st := rfl
@[simp] theorem exec_hprobe (x : Exts) (d a b : BitVec 7) (st : State) :
    exec (.hprobe x d a b) st = execHprobe x d a b st := rfl
@[simp] theorem exec_snap (x : Exts) (d : BitVec 7) (st : State) :
    exec (.snap x d) st = execSnap x d st := rfl
@[simp] theorem exec_snrel (x : Exts) (a : BitVec 7) (st : State) :
    exec (.snrel x a) st = execSnrel x a st := rfl
@[simp] theorem exec_txb (x : Exts) (d : BitVec 7) (st : State) :
    exec (.txb x d) st = execTxb x d st := rfl
@[simp] theorem exec_txc (x : Exts) (d : BitVec 7) (st : State) :
    exec (.txc x d) st = execTxc x d st := rfl
@[simp] theorem exec_txa (x : Exts) (st : State) :
    exec (.txa x) st = execTxa x st := rfl
@[simp] theorem exec_mma (x : Exts) (d a b : BitVec 7) (st : State) :
    exec (.mma x d a b) st = execMma x d a b st := rfl
@[simp] theorem exec_mzero (x : Exts) (d : BitVec 7) (st : State) :
    exec (.mzero x d) st = execMzero x d st := rfl
@[simp] theorem exec_mld (x : Exts) (d a : BitVec 7) (st : State) :
    exec (.mld x d a) st = execMld x d a st := rfl
@[simp] theorem exec_mst (x : Exts) (d a : BitVec 7) (st : State) :
    exec (.mst x d a) st = execMst x d a st := rfl
@[simp] theorem exec_mdrain (x : Exts) (d a b : BitVec 7) (st : State) :
    exec (.mdrain x d a b) st = execMdrain x d a b st := rfl
@[simp] theorem exec_mmap (x : Exts) (d a : BitVec 7) (st : State) :
    exec (.mmap x d a) st = execMmap x d a st := rfl
@[simp] theorem exec_mburst (x : Exts) (a : BitVec 7) (st : State) :
    exec (.mburst x a) st = execMburst x a st := rfl
@[simp] theorem exec_tld (x : Exts) (d a : BitVec 7) (st : State) :
    exec (.tld x d a) st = execTld x d a st := rfl
@[simp] theorem exec_tmovTv (x : Exts) (d a : BitVec 7) (st : State) :
    exec (.tmovTv x d a) st = execTmovTv x d a st := rfl
@[simp] theorem exec_tmovVt (x : Exts) (d a : BitVec 7) (st : State) :
    exec (.tmovVt x d a) st = execTmovVt x d a st := rfl
@[simp] theorem exec_copy (x : Exts) (a b : BitVec 7) (st : State) :
    exec (.copy x a b) st = execCopy x a b st := rfl
@[simp] theorem exec_copyMc (x : Exts) (a b : BitVec 7) (st : State) :
    exec (.copyMc x a b) st = execCopyMc x a b st := rfl
@[simp] theorem exec_gather (x : Exts) (a b : BitVec 7) (st : State) :
    exec (.gather x a b) st = execGather x a b st := rfl
@[simp] theorem exec_coll (x : Exts) (a b : BitVec 7) (st : State) :
    exec (.coll x a b) st = execColl x a b st := rfl
@[simp] theorem exec_media (x : Exts) (a b : BitVec 7) (st : State) :
    exec (.media x a b) st = execMedia x a b st := rfl
@[simp] theorem exec_arrive (x : Exts) (a : BitVec 7) (st : State) :
    exec (.arrive x a) st = execArrive x a st := rfl
@[simp] theorem exec_wait (x : Exts) (d a : BitVec 7) (st : State) :
    exec (.wait x d a) st = execWait x d a st := rfl
@[simp] theorem exec_arwait (x : Exts) (d a : BitVec 7) (st : State) :
    exec (.arwait x d a) st = execArwait x d a st := rfl
@[simp] theorem exec_expect (x : Exts) (a b : BitVec 7) (st : State) :
    exec (.expect x a b) st = execExpect x a b st := rfl
@[simp] theorem exec_cltest (x : Exts) (d a : BitVec 7) (st : State) :
    exec (.cltest x d a) st = execCltest x d a st := rfl
@[simp] theorem exec_rclaim (x : Exts) (n : BitVec 7) (st : State) :
    exec (.rclaim x n) st = execRclaim x n st := rfl
@[simp] theorem exec_rrel (x : Exts) (n : BitVec 7) (st : State) :
    exec (.rrel x n) st = execRrel x n st := rfl
@[simp] theorem exec_regroup (x : Exts) (a b : BitVec 7) (st : State) :
    exec (.regroup x a b) st = execRegroup x a b st := rfl
@[simp] theorem exec_sysc (x : Exts) (a b : BitVec 7) (st : State) :
    exec (.sysc x a b) st = execSysc x a b st := rfl
@[simp] theorem exec_trap (x : Exts) (n : BitVec 7) (st : State) :
    exec (.trap x n) st = execTrap x n st := rfl
@[simp] theorem exec_bkpt (x : Exts) (n : BitVec 7) (st : State) :
    exec (.bkpt x n) st = execBkpt x n st := rfl
@[simp] theorem exec_mbxrd (x : Exts) (d a : BitVec 7) (st : State) :
    exec (.mbxrd x d a) st = execMbxrd x d a st := rfl
@[simp] theorem exec_laneres (x : Exts) (a b : BitVec 7) (st : State) :
    exec (.laneres x a b) st = execLaneres x a b st := rfl
@[simp] theorem exec_tlbinv (x : Exts) (a b : BitVec 7) (st : State) :
    exec (.tlbinv x a b) st = execTlbinv x a b st := rfl
@[simp] theorem exec_eret (x : Exts) (st : State) :
    exec (.eret x) st = execEret x st := rfl
@[simp] theorem exec_capr (x : Exts) (d : BitVec 7) (i : BitVec 12) (st : State) :
    exec (.capr x d i) st = execCapr x d i st := rfl
@[simp] theorem exec_joinRelease (core slot : Nat) (st : State) :
    exec (.joinRelease core slot) st = execJoinRelease core slot st := rfl
@[simp] theorem exec_mwaitWake (core slot lane : Nat) (st : State) :
    exec (.mwaitWake core slot lane) st = execMwaitWake core slot lane st := rfl
@[simp] theorem exec_engineGrant (engine : Nat) (st : State) :
    exec (.engineGrant engine) st = execEngineGrant engine st := rfl
@[simp] theorem exec_matrixOpComplete (engine : Nat) (st : State) :
    exec (.matrixOpComplete engine) st = execMatrixOpComplete engine st := rfl
@[simp] theorem exec_jobStart (job : Nat) (st : State) :
    exec (.jobStart job) st = execJobStart job st := rfl
@[simp] theorem exec_copyDelivery (job unit : Nat) (st : State) :
    exec (.copyDelivery job unit) st = execCopyDelivery job unit st := rfl
@[simp] theorem exec_jobComplete (job : Nat) (st : State) :
    exec (.jobComplete job) st = execJobComplete job st := rfl
@[simp] theorem exec_jobFault (job : Nat) (why : JobTrouble) (st : State) :
    exec (.jobFault job why) st = execJobFault job why st := rfl
@[simp] theorem exec_claspTimeout (ref : ClaspRef) (st : State) :
    exec (.claspTimeout ref) st = execClaspTimeout ref st := rfl
@[simp] theorem exec_claimGrant (team : Nat) (st : State) :
    exec (.claimGrant team) st = execClaimGrant team st := rfl
@[simp] theorem exec_claimdl (team : Nat) (st : State) :
    exec (.claimdl team) st = execClaimdl team st := rfl
@[simp] theorem exec_regroupExecute (team role : Nat) (st : State) :
    exec (.regroupExecute team role) st = execRegroupExecute team role st := rfl
@[simp] theorem exec_issueOpportunity (c : CoreCycle) (st : State) :
    exec (.issueOpportunity c) st = execIssueOpportunity c st := rfl
@[simp] theorem exec_loadReturn (id : Nat) (phase : ReadPhase) (st : State) :
    exec (.loadReturn id phase) st = execLoadReturn id phase st := rfl
@[simp] theorem exec_homeApplyWrite (id : Nat) (phase : WritePhase) (st : State) :
    exec (.homeApplyWrite id phase) st = execHomeApplyWrite id phase st := rfl
@[simp] theorem exec_writeAck (id : Nat) (st : State) :
    exec (.writeAck id) st = execWriteAck id st := rfl
@[simp] theorem exec_pageWalkComplete (core : Nat) (ctx : BitVec 32) (va : BitVec 64) (st : State) :
    exec (.pageWalkComplete core ctx va) st = execPageWalkComplete core ctx va st := rfl
@[simp] theorem exec_versionReclaim (ctx : BitVec 32) (line : Nat) (stamp : BitVec 64) (st : State) :
    exec (.versionReclaim ctx line stamp) st = execVersionReclaim ctx line stamp st := rfl
@[simp] theorem exec_heldWriteRelease (id : Nat) (st : State) :
    exec (.heldWriteRelease id) st = execHeldWriteRelease id st := rfl
@[simp] theorem exec_preemptStop (core : Nat) (ctx : BitVec 32) (st : State) :
    exec (.preemptStop core ctx) st = execPreemptStop core ctx st := rfl
@[simp] theorem exec_preemptDrainDone (core : Nat) (ctx : BitVec 32) (st : State) :
    exec (.preemptDrainDone core ctx) st = execPreemptDrainDone core ctx st := rfl
@[simp] theorem exec_saveComplete (core : Nat) (st : State) :
    exec (.saveComplete core) st = execSaveComplete core st := rfl
@[simp] theorem exec_queueWake (row : Nat) (st : State) :
    exec (.queueWake row) st = execQueueWake row st := rfl
@[simp] theorem exec_unmappedWake (desc : Nat) (st : State) :
    exec (.unmappedWake desc) st = execUnmappedWake desc st := rfl
@[simp] theorem exec_packetLaunch (row : Nat) (st : State) :
    exec (.packetLaunch row) st = execPacketLaunch row st := rfl
@[simp] theorem exec_packetPool (row : Nat) (st : State) :
    exec (.packetPool row) st = execPacketPool row st := rfl
@[simp] theorem exec_packetBarrier (row : Nat) (st : State) :
    exec (.packetBarrier row) st = execPacketBarrier row st := rfl
@[simp] theorem exec_packetNop (row : Nat) (st : State) :
    exec (.packetNop row) st = execPacketNop row st := rfl
@[simp] theorem exec_badpkt (row : Nat) (st : State) :
    exec (.badpkt row) st = execBadpkt row st := rfl
@[simp] theorem exec_barrierComplete (packet : Nat) (st : State) :
    exec (.barrierComplete packet) st = execBarrierComplete packet st := rfl
@[simp] theorem exec_dispatchStep (die : Nat) (st : State) :
    exec (.dispatchStep die) st = execDispatchStep die st := rfl
@[simp] theorem exec_teamRetire (team : Nat) (st : State) :
    exec (.teamRetire team) st = execTeamRetire team st := rfl
@[simp] theorem exec_poolRecordTake (launch : Nat) (st : State) :
    exec (.poolRecordTake launch) st = execPoolRecordTake launch st := rfl
@[simp] theorem exec_binTimedFlush (launch bin : Nat) (st : State) :
    exec (.binTimedFlush launch bin) st = execBinTimedFlush launch bin st := rfl
@[simp] theorem exec_rampTick (st : State) :
    exec (.rampTick) st = execRampTick st := rfl
@[simp] theorem exec_launchSaveWrite (row : Nat) (st : State) :
    exec (.launchSaveWrite row) st = execLaunchSaveWrite row st := rfl
@[simp] theorem exec_watchdogExpiry (row : Nat) (st : State) :
    exec (.watchdogExpiry row) st = execWatchdogExpiry row st := rfl
@[simp] theorem exec_remoteGiveUp (what : GiveUp) (st : State) :
    exec (.remoteGiveUp what) st = execRemoteGiveUp what st := rfl
@[simp] theorem exec_checkpointBlock (st : State) :
    exec (.checkpointBlock) st = execCheckpointBlock st := rfl
@[simp] theorem exec_checkpointEnd (st : State) :
    exec (.checkpointEnd) st = execCheckpointEnd st := rfl
@[simp] theorem exec_evidenceSigned (st : State) :
    exec (.evidenceSigned) st = execEvidenceSigned st := rfl
@[simp] theorem exec_powerCapApply (st : State) :
    exec (.powerCapApply) st = execPowerCapApply st := rfl
@[simp] theorem exec_fullConditionClear (ctx : BitVec 32) (st : State) :
    exec (.fullConditionClear ctx) st = execFullConditionClear ctx st := rfl
@[simp] theorem exec_onCoreError (core slot : Nat) (err : CoreError) (st : State) :
    exec (.onCoreError core slot err) st = execOnCoreError core slot err st := rfl
@[simp] theorem exec_lanectlComplete (core : Nat) (sel : BitVec 64) (st : State) :
    exec (.lanectlComplete core sel) st = execLanectlComplete core sel st := rfl
@[simp] theorem exec_lanectlRetry (core : Nat) (sel : BitVec 64) (st : State) :
    exec (.lanectlRetry core sel) st = execLanectlRetry core sel st := rfl
@[simp] theorem exec_lanectlKill (core : Nat) (sel : BitVec 64) (st : State) :
    exec (.lanectlKill core sel) st = execLanectlKill core sel st := rfl
@[simp] theorem exec_lanectlSetpc (core : Nat) (sel : BitVec 64) (st : State) :
    exec (.lanectlSetpc core sel) st = execLanectlSetpc core sel st := rfl
@[simp] theorem exec_jobctlResume (core : Nat) (v : BitVec 64) (st : State) :
    exec (.jobctlResume core v) st = execJobctlResume core v st := rfl
@[simp] theorem exec_jobctlFail (core : Nat) (v : BitVec 64) (st : State) :
    exec (.jobctlFail core v) st = execJobctlFail core v st := rfl
@[simp] theorem exec_savectlSave (core : Nat) (v : BitVec 64) (st : State) :
    exec (.savectlSave core v) st = execSavectlSave core v st := rfl
@[simp] theorem exec_savectlRestore (core : Nat) (v : BitVec 64) (st : State) :
    exec (.savectlRestore core v) st = execSavectlRestore core v st := rfl
@[simp] theorem exec_savectlDiscard (core : Nat) (v : BitVec 64) (st : State) :
    exec (.savectlDiscard core v) st = execSavectlDiscard core v st := rfl
@[simp] theorem exec_sqpop (cluster : Nat) (st : State) :
    exec (.sqpop cluster) st = execSqpop cluster st := rfl
@[simp] theorem exec_invcmd (cluster : Nat) (v : BitVec 64) (st : State) :
    exec (.invcmd cluster v) st = execInvcmd cluster v st := rfl
@[simp] theorem exec_artCommit (die entry : Nat) (v : BitVec 64) (st : State) :
    exec (.artCommit die entry v) st = execArtCommit die entry v st := rfl
@[simp] theorem exec_artClear (die entry : Nat) (v : BitVec 64) (st : State) :
    exec (.artClear die entry v) st = execArtClear die entry v st := rfl
@[simp] theorem exec_inbCommit (entry : Nat) (v : BitVec 64) (st : State) :
    exec (.inbCommit entry v) st = execInbCommit entry v st := rfl
@[simp] theorem exec_inbClear (entry : Nat) (v : BitVec 64) (st : State) :
    exec (.inbClear entry v) st = execInbClear entry v st := rfl
@[simp] theorem exec_registerWrite (place : BusAddr) (op : BusOp) (st : State) :
    exec (.registerWrite place op) st = execRegisterWrite place op st := rfl
@[simp] theorem exec_rowCommit (row : Nat) (ctl : BitVec 64) (st : State) :
    exec (.rowCommit row ctl) st = execRowCommit row ctl st := rfl
@[simp] theorem exec_rowUnmap (row : Nat) (ctl : BitVec 64) (st : State) :
    exec (.rowUnmap row ctl) st = execRowUnmap row ctl st := rfl
@[simp] theorem exec_holdClear (row : Nat) (st : State) :
    exec (.holdClear row) st = execHoldClear row st := rfl
@[simp] theorem exec_holdSet (row : Nat) (st : State) :
    exec (.holdSet row) st = execHoldSet row st := rfl
@[simp] theorem exec_preemptSet (row : Nat) (st : State) :
    exec (.preemptSet row) st = execPreemptSet row st := rfl
@[simp] theorem exec_preemptClear (row : Nat) (st : State) :
    exec (.preemptClear row) st = execPreemptClear row st := rfl
@[simp] theorem exec_evpop (st : State) :
    exec (.evpop) st = execEvpop st := rfl
@[simp] theorem exec_destroy (desc : Nat) (st : State) :
    exec (.destroy desc) st = execDestroy desc st := rfl
@[simp] theorem exec_destroyForce (desc : Nat) (st : State) :
    exec (.destroyForce desc) st = execDestroyForce desc st := rfl
@[simp] theorem exec_failbar (desc : Nat) (st : State) :
    exec (.failbar desc) st = execFailbar desc st := rfl
@[simp] theorem exec_deviceReset (st : State) :
    exec (.deviceReset) st = execDeviceReset st := rfl
@[simp] theorem exec_thermalStop (die : Nat) (st : State) :
    exec (.thermalStop die) st = execThermalStop die st := rfl
@[simp] theorem exec_hotReset (st : State) :
    exec (.hotReset) st = execHotReset st := rfl
@[simp] theorem exec_linkDown (st : State) :
    exec (.linkDown) st = execLinkDown st := rfl
@[simp] theorem exec_linkUp (st : State) :
    exec (.linkUp) st = execLinkUp st := rfl
@[simp] theorem exec_functionLevelReset (func : Nat) (st : State) :
    exec (.functionLevelReset func) st = execFunctionLevelReset func st := rfl
@[simp] theorem exec_driverStatusChange (func : Nat) (status : BitVec 8) (st : State) :
    exec (.driverStatusChange func status) st = execDriverStatusChange func status st := rfl
@[simp] theorem exec_virtioRequest (func : Nat) (desc : Nat) (st : State) :
    exec (.virtioRequest func desc) st = execVirtioRequest func desc st := rfl
@[simp] theorem exec_hostev (st : State) :
    exec (.hostev) st = execHostev st := rfl
@[simp] theorem exec_inboundAccess (src : Nat) (req : InboundReq) (st : State) :
    exec (.inboundAccess src req) st = execInboundAccess src req st := rfl
@[simp] theorem exec_ckcmd (v : BitVec 64) (st : State) :
    exec (.ckcmd v) st = execCkcmd v st := rfl
@[simp] theorem exec_areq (v : BitVec 64) (st : State) :
    exec (.areq v) st = execAreq v st := rfl
@[simp] theorem exec_mrExtend (reg : Nat) (v : List (BitVec 8)) (st : State) :
    exec (.mrExtend reg v) st = execMrExtend reg v st := rfl
@[simp] theorem exec_pcap (v : BitVec 64) (st : State) :
    exec (.pcap v) st = execPcap v st := rfl
@[simp] theorem exec_contextEnd (ctx : BitVec 32) (st : State) :
    exec (.contextEnd ctx) st = execContextEnd ctx st := rfl
@[simp] theorem exec_weaberLinkDown (link : Nat) (st : State) :
    exec (.weaberLinkDown link) st = execWeaberLinkDown link st := rfl
@[simp] theorem exec_weaberLinkUp (l : LinkUp) (st : State) :
    exec (.weaberLinkUp l) st = execWeaberLinkUp l st := rfl
@[simp] theorem exec_powerLoss (st : State) :
    exec (.powerLoss) st = execPowerLoss st := rfl
@[simp] theorem exec_dynamicAddress (addr : BitVec 7) (st : State) :
    exec (.dynamicAddress addr) st = execDynamicAddress addr st := rfl

end Sys2Proof.Machine
end

