-- ==== Sys2Proof/Laws/Map.lean ====
section
/-! SUPPORT. Laws of the sparse maps and of the list helpers of Base.lean: what a read gives after a write, and that every
write keeps the canonical form. -/

namespace Sys2Proof.Machine

variable {w : Nat}

/-! ## Reads after writes -/

theorem sget_sins_same (q : Nat) (x : BitVec w) : ∀ m : SMap w, (∀ e ∈ m, e.1 ≠ q) → sget (sins q x m) q = x
  | [], _ => by
    by_cases h : x = 0#w <;> simp [sins, sget, h]
  | (k, v) :: r, h => by
    have hk : k ≠ q := h (k, v) (by simp)
    have hr : ∀ e ∈ r, e.1 ≠ q := fun e he => h e (by simp [he])
    have hz : ∀ m : SMap w, (∀ e ∈ m, e.1 ≠ q) → sget m q = 0 := by
      intro m
      induction m with
      | nil => intro _; rfl
      | cons e m ih =>
        obtain ⟨a, b⟩ := e
        intro hm
        have : a ≠ q := hm (a, b) (by simp)
        simp [sget, this, ih (fun e he => hm e (by simp [he]))]
    by_cases hq : q < k
    · by_cases hx : x = 0#w
      · simp [sins, hq, hx, sget, hk, hz r hr]
      · simp [sins, hq, hx, sget]
    · simp [sins, hq, sget, hk, sget_sins_same q x r hr]

theorem sget_sins_other (q p : Nat) (x : BitVec w) (h : p ≠ q) : ∀ m : SMap w, sget (sins q x m) p = sget m p
  | [] => by by_cases hx : x = 0#w <;> simp [sins, sget, hx, Ne.symm h]
  | (k, v) :: r => by
    by_cases hq : q < k
    · by_cases hx : x = 0#w <;> simp [sins, hq, hx, sget, Ne.symm h]
    · simp [sins, hq, sget, sget_sins_other q p x h r]

theorem sget_filter (f : Nat → Bool) (p : Nat) (h : f p = true) :
    ∀ m : SMap w, sget (m.filter (fun e => f e.1)) p = sget m p
  | [] => rfl
  | (k, v) :: r => by
    by_cases hk : f k = true
    · simp [hk, sget, sget_filter f p h r]
    · have : k ≠ p := by rintro rfl; exact hk h
      simp [hk, sget, this, sget_filter f p h r]

theorem sget_filter_out (f : Nat → Bool) (p : Nat) (h : f p = false) :
    ∀ m : SMap w, sget (m.filter (fun e => f e.1)) p = 0
  | [] => rfl
  | (k, v) :: r => by
    by_cases hk : f k = true
    · have : k ≠ p := by rintro rfl; simp [h] at hk
      simp [hk, sget, this, sget_filter_out f p h r]
    · simp [hk, sget_filter_out f p h r]

/-- A read gives what was last written to its key, and what it gave before for every other key. -/
@[simp] theorem sget_sset (m : SMap w) (q p : Nat) (x : BitVec w) :
    sget (sset m q x) p = if p = q then x else sget m p := by
  by_cases h : p = q
  · subst h
    rw [if_pos rfl]
    exact sget_sins_same p x _ (by simp)
  · rw [if_neg h, sset, sget_sins_other q p x h]
    exact sget_filter (fun k => decide (k ≠ q)) p (by simp [h]) m

@[simp] theorem sget_nil (p : Nat) : sget ([] : SMap w) p = 0 := rfl

@[simp] theorem sget_skeep (m : SMap w) (f : Nat → Bool) (p : Nat) : sget (skeep m f) p = if f p then sget m p else 0 := by
  by_cases h : f p = true
  · simp [h, skeep, sget_filter f p h]
  · have h' : f p = false := by simpa using h
    simp [h', skeep, sget_filter_out f p h']

/-- Writing many keys changes only the listed ones. -/
theorem sget_ssets_other (p : Nat) : ∀ (l : List (Nat × BitVec w)) (m : SMap w), (∀ e ∈ l, e.1 ≠ p) →
    sget (ssets m l) p = sget m p
  | [], _, _ => rfl
  | e :: l, m, h => by
    have h1 : p ≠ e.1 := fun hp => h e (by simp) hp.symm
    have := sget_ssets_other p l (sset m e.1 e.2) (fun f hf => h f (by simp [hf]))
    simpa [ssets, h1] using this

/-- Of many writes to one key the last stands. -/
theorem sget_ssets_snoc (l : List (Nat × BitVec w)) (m : SMap w) (q p : Nat) (x : BitVec w) :
    sget (ssets m (l ++ [(q, x)])) p = if p = q then x else sget (ssets m l) p := by
  simp [ssets]

theorem ssets_append (m : SMap w) (a b : List (Nat × BitVec w)) : ssets m (a ++ b) = ssets (ssets m a) b := by
  simp [ssets]

/-! ## The canonical form -/

/-- The form said of a head and a tail. -/
theorem SMapWf_cons (k : Nat) (v : BitVec w) (r : SMap w) :
    SMapWf ((k, v) :: r) = true ↔ v ≠ 0 ∧ (∀ e ∈ r, k < e.1) ∧ SMapWf r = true := by
  induction r generalizing k v with
  | nil => simp [SMapWf]
  | cons f r ih =>
    obtain ⟨k', v'⟩ := f
    constructor
    · intro h
      simp only [SMapWf, Bool.and_eq_true, decide_eq_true_eq] at h
      have h' := (ih k' v').1 h.2
      refine ⟨by simpa using h.1.1, ?_, h.2⟩
      intro e he
      rcases List.mem_cons.1 he with rfl | he
      · exact h.1.2
      · exact lt_trans h.1.2 (h'.2.1 e he)
    · rintro ⟨hv, hk, hr⟩
      simp only [SMapWf, Bool.and_eq_true, decide_eq_true_eq]
      exact ⟨⟨by simpa using hv, hk (k', v') (by simp)⟩, hr⟩

theorem SMapWf_nil : SMapWf ([] : SMap w) = true := rfl

theorem SMapWf_filter (f : Nat × BitVec w → Bool) : ∀ m : SMap w, SMapWf m = true → SMapWf (m.filter f) = true
  | [], _ => rfl
  | (k, v) :: r, h => by
    obtain ⟨hv, hk, hr⟩ := (SMapWf_cons k v r).1 h
    have ih := SMapWf_filter f r hr
    by_cases hf : f (k, v) = true
    · rw [List.filter_cons_of_pos hf]
      exact (SMapWf_cons k v _).2 ⟨hv, fun e he => hk e (List.mem_of_mem_filter he), ih⟩
    · rw [List.filter_cons_of_neg hf]; exact ih

theorem mem_sins (q : Nat) (x : BitVec w) (e : Nat × BitVec w) : ∀ m : SMap w, e ∈ sins q x m → e = (q, x) ∨ e ∈ m
  | [], h => by
    by_cases hx : x = 0#w <;> simp [sins, hx] at h; simp [h]
  | (k, v) :: r, h => by
    by_cases hq : q < k
    · by_cases hx : x = 0#w
      · simp [sins, hq, hx] at h; simp [h]
      · simp [sins, hq, hx] at h; simp [h]
    · simp only [sins, hq, if_false, List.mem_cons] at h
      rcases h with h | h
      · simp [h]
      · rcases mem_sins q x e r h with h | h <;> simp [h]

theorem SMapWf_sins (q : Nat) (x : BitVec w) : ∀ m : SMap w, (∀ e ∈ m, e.1 ≠ q) → SMapWf m = true →
    SMapWf (sins q x m) = true
  | [], _, _ => by by_cases hx : x = 0#w <;> simp [sins, SMapWf, hx]
  | (k, v) :: r, hn, h => by
    obtain ⟨hv, hk, hr⟩ := (SMapWf_cons k v r).1 h
    by_cases hq : q < k
    · by_cases hx : x = 0#w
      · simpa [sins, hq, hx] using h
      · rw [sins, if_pos hq, if_neg (show ¬x = 0 from hx)]
        refine (SMapWf_cons q x _).2 ⟨hx, ?_, h⟩
        intro e he
        rcases List.mem_cons.1 he with rfl | he
        · exact hq
        · exact lt_trans hq (hk e he)
    · simp only [sins, hq, if_false]
      have hkq : k ≠ q := hn (k, v) (by simp)
      refine (SMapWf_cons k v _).2 ⟨hv, ?_, SMapWf_sins q x r (fun e he => hn e (by simp [he])) hr⟩
      intro e he
      rcases mem_sins q x e r he with rfl | he
      · show k < q; omega
      · exact hk e he

/-- A write keeps the canonical form. -/
theorem SMapWf_sset (m : SMap w) (q : Nat) (x : BitVec w) (h : SMapWf m = true) : SMapWf (sset m q x) = true :=
  SMapWf_sins q x _ (by simp) (SMapWf_filter _ m h)

/-- Many writes keep it. -/
theorem SMapWf_ssets : ∀ (l : List (Nat × BitVec w)) (m : SMap w), SMapWf m = true → SMapWf (ssets m l) = true
  | [], _, h => h
  | e :: l, m, h => SMapWf_ssets l (sset m e.1 e.2) (SMapWf_sset m e.1 e.2 h)

/-- Clearing keys keeps it. -/
theorem SMapWf_skeep (m : SMap w) (f : Nat → Bool) (h : SMapWf m = true) : SMapWf (skeep m f) = true := SMapWf_filter _ m h

theorem mem_number {α : Type} (e : Nat × α) : ∀ (n : Nat) (l : List α), e ∈ number n l → n ≤ e.1 ∧ e.1 < n + l.length
  | _, [], h => by simp [number] at h
  | n, a :: l, h => by
    rcases List.mem_cons.1 h with rfl | h
    · simp
    · have := mem_number e (n + 1) l h
      simp only [List.length_cons]; omega

theorem SMapWf_append (a b : SMap w) (ha : SMapWf a = true) (hb : SMapWf b = true) (h : ∀ e ∈ a, ∀ f ∈ b, e.1 < f.1) :
    SMapWf (a ++ b) = true := by
  induction a with
  | nil => simpa using hb
  | cons e a ih =>
    obtain ⟨k, v⟩ := e
    obtain ⟨hv, hk, hr⟩ := (SMapWf_cons k v a).1 ha
    refine (SMapWf_cons k v _).2 ⟨hv, ?_, ih hr (fun e he => h e (by simp [he]))⟩
    intro e he
    rcases List.mem_append.1 he with he | he
    · exact hk e he
    · exact h (k, v) (by simp) e he

theorem SMapWf_number (l : List (BitVec w)) : ∀ n : Nat, SMapWf ((number n l).filter (fun e => decide (e.2 ≠ 0))) = true := by
  induction l with
  | nil => intro n; rfl
  | cons x l ih =>
    intro n
    by_cases hx : x = 0#w
    · simpa [number, hx] using ih (n + 1)
    · rw [number, List.filter_cons_of_pos (by simpa using hx)]
      refine (SMapWf_cons n x _).2 ⟨hx, ?_, ih (n + 1)⟩
      intro e he
      have := mem_number e (n + 1) l (List.mem_of_mem_filter he)
      omega

/-- Writing a run of keys keeps the canonical form. -/
theorem SMapWf_sblock (m : SMap w) (lo : Nat) (l : List (BitVec w)) (h : SMapWf m = true) : SMapWf (sblock m lo l) = true := by
  refine SMapWf_append _ _ (SMapWf_append _ _ (SMapWf_filter _ m h) (SMapWf_number l lo) ?_) (SMapWf_filter _ m h) ?_
  · intro e he f hf
    have h1 : e.1 < lo := by simpa using List.of_mem_filter he
    have h2 := mem_number f lo l (List.mem_of_mem_filter hf)
    omega
  · intro e he f hf
    have h2 : lo + l.length ≤ f.1 := by simpa using List.of_mem_filter hf
    rcases List.mem_append.1 he with he | he
    · have h1 : e.1 < lo := by simpa using List.of_mem_filter he
      omega
    · have h1 := mem_number e lo l (List.mem_of_mem_filter he)
      omega

theorem sget_append (a b : SMap w) (p : Nat) (h : ∀ e ∈ b, e.1 ≠ p) : sget (a ++ b) p = sget a p := by
  induction a with
  | nil =>
    have : ∀ m : SMap w, (∀ e ∈ m, e.1 ≠ p) → sget m p = 0 := by
      intro m
      induction m with
      | nil => intro _; rfl
      | cons e m ih =>
        obtain ⟨k, v⟩ := e
        intro hm
        have hk : k ≠ p := hm (k, v) (by simp)
        simp [sget, hk, ih (fun e he => hm e (by simp [he]))]
    simpa [sget] using this b h
  | cons e a ih =>
    obtain ⟨k, v⟩ := e
    by_cases hk : k = p <;> simp [sget, hk, ih]

theorem sget_append_left (a b : SMap w) (p : Nat) (h : ∀ e ∈ a, e.1 ≠ p) : sget (a ++ b) p = sget b p := by
  induction a with
  | nil => rfl
  | cons e a ih =>
    obtain ⟨k, v⟩ := e
    have hk : k ≠ p := h (k, v) (by simp)
    simp [sget, hk, ih (fun e he => h e (by simp [he]))]

theorem sget_number (l : List (BitVec w)) : ∀ n p : Nat,
    sget ((number n l).filter (fun e => decide (e.2 ≠ 0))) p = if n ≤ p ∧ p < n + l.length then l.getD (p - n) 0 else 0 := by
  induction l with
  | nil => intro n p; simp [number]
  | cons x l ih =>
    intro n p
    by_cases hp : p = n
    · subst hp
      by_cases hx : x = 0#w
      · have e : (number p (x :: l)).filter (fun e => decide (e.2 ≠ 0)) = (number (p + 1) l).filter (fun e => decide (e.2 ≠ 0)) := by
          simp [number, hx]
        rw [e, ih (p + 1) p, if_neg (by omega)]
        simp [hx]
      · rw [number, List.filter_cons_of_pos (by simpa using hx)]
        simp [sget]
    · have hpn : (p - n) = (p - (n + 1)) + 1 ∨ p < n := by omega
      have hc : (n + 1 ≤ p ∧ p < n + 1 + l.length) ↔ (n ≤ p ∧ p < n + (x :: l).length) := by
        simp only [List.length_cons]; omega
      have key : sget ((number (n + 1) l).filter (fun e => decide (e.2 ≠ 0))) p
          = if n ≤ p ∧ p < n + (x :: l).length then (x :: l).getD (p - n) 0 else 0 := by
        rw [ih (n + 1) p]
        by_cases h : n ≤ p ∧ p < n + (x :: l).length
        · rw [if_pos (hc.2 h), if_pos h]
          rcases hpn with e | e
          · rw [e]; simp
          · omega
        · rw [if_neg (fun h' => h (hc.1 h')), if_neg h]
      by_cases hx : x = 0#w
      · simpa [number, hx] using key
      · rw [number, List.filter_cons_of_pos (by simpa using hx)]
        simpa [sget, Ne.symm hp] using key

/-- A run of keys reads as written, every other key as before. -/
theorem sget_sblock (m : SMap w) (lo : Nat) (l : List (BitVec w)) (p : Nat) :
    sget (sblock m lo l) p = if lo ≤ p ∧ p < lo + l.length then l.getD (p - lo) 0 else sget m p := by
  unfold sblock
  by_cases h1 : p < lo
  · have hb : ∀ e ∈ m.filter (fun e => decide (lo + l.length ≤ e.1)), e.1 ≠ p := by
      intro e he; have : lo + l.length ≤ e.1 := by simpa using List.of_mem_filter he
      omega
    have hm : ∀ e ∈ (number lo l).filter (fun e => decide (e.2 ≠ 0)), e.1 ≠ p := by
      intro e he; have := mem_number e lo l (List.mem_of_mem_filter he); omega
    rw [sget_append _ _ _ hb, sget_append _ _ _ hm, if_neg (by omega)]
    exact sget_filter (fun k => decide (k < lo)) p (by simpa using h1) m
  · have ha : ∀ e ∈ m.filter (fun e => decide (e.1 < lo)), e.1 ≠ p := by
      intro e he; have : e.1 < lo := by simpa using List.of_mem_filter he
      omega
    by_cases h2 : p < lo + l.length
    · have hb : ∀ e ∈ m.filter (fun e => decide (lo + l.length ≤ e.1)), e.1 ≠ p := by
        intro e he; have : lo + l.length ≤ e.1 := by simpa using List.of_mem_filter he
        omega
      rw [sget_append _ _ _ hb, sget_append_left _ _ _ ha, sget_number, if_pos ⟨by omega, h2⟩]
      simp [h2]; omega
    · have hm : ∀ e ∈ (number lo l).filter (fun e => decide (e.2 ≠ 0)), e.1 ≠ p := by
        intro e he; have := mem_number e lo l (List.mem_of_mem_filter he); omega
      rw [if_neg (by omega), List.append_assoc, sget_append_left _ _ _ ha, sget_append_left _ _ _ hm]
      exact sget_filter (fun k => decide (lo + l.length ≤ k)) p (by simp; omega) m

/-! ## Bytes -/

@[simp] theorem leBytes_length : ∀ n v : Nat, (leBytes n v).length = n
  | 0, _ => rfl
  | n + 1, v => by simp [leBytes, leBytes_length n]

/-- The bytes of a number stand for the number. -/
theorem leNat_leBytes : ∀ n v : Nat, leNat (leBytes n v) = v % 256 ^ n
  | 0, v => by simp [leBytes, leNat, Nat.mod_one]
  | n + 1, v => by
    simp only [leBytes, leNat, BitVec.toNat_ofNat, leNat_leBytes n]
    have : (256 : Nat) ^ (n + 1) = 256 * 256 ^ n := by rw [Nat.pow_succ, Nat.mul_comm]
    rw [this, Nat.mod_mul]

theorem leNat_leBytes_word (x : Word) : leNat (leBytes 4 x.toNat) = x.toNat := by
  rw [leNat_leBytes]
  exact Nat.mod_eq_of_lt (by have := x.isLt; omega)

end Sys2Proof.Machine
end

