-- ==== Sys2Proof/Laws/State.lean ====
section
/-! SUPPORT. Laws of the state: for each update of Base.lean, each field it leaves alone. -/

namespace Sys2Proof.Machine

/-! ## One group -/

section
variable (s : State) (c l : Nat) (f : Group → Group)

@[simp] theorem State.modGroup_cur : (s.modGroup c l f).cur = s.cur := rfl
@[simp] theorem State.modGroup_issueQ : (s.modGroup c l f).issueQ = s.issueQ := rfl
@[simp] theorem State.modGroup_agenda : (s.modGroup c l f).agenda = s.agenda := rfl
@[simp] theorem State.modGroup_turn : (s.modGroup c l f).turn = s.turn := rfl
@[simp] theorem State.modGroup_nextId : (s.modGroup c l f).nextId = s.nextId := rfl
@[simp] theorem State.modGroup_free : (s.modGroup c l f).free = s.free := rfl
@[simp] theorem State.modGroup_mem : (s.modGroup c l f).mem = s.mem := rfl
@[simp] theorem State.modGroup_peer : (s.modGroup c l f).peer = s.peer := rfl
@[simp] theorem State.modGroup_peerInb : (s.modGroup c l f).peerInb = s.peerInb := rfl
@[simp] theorem State.modGroup_stamps : (s.modGroup c l f).stamps = s.stamps := rfl
@[simp] theorem State.modGroup_clock : (s.modGroup c l f).clock = s.clock := rfl
@[simp] theorem State.modGroup_snaps : (s.modGroup c l f).snaps = s.snaps := rfl
@[simp] theorem State.modGroup_contexts : (s.modGroup c l f).contexts = s.contexts := rfl
@[simp] theorem State.modGroup_storeIrqs : (s.modGroup c l f).storeIrqs = s.storeIrqs := rfl
@[simp] theorem State.modGroup_slices : (s.modGroup c l f).slices = s.slices := rfl
@[simp] theorem State.modGroup_writes : (s.modGroup c l f).writes = s.writes := rfl
@[simp] theorem State.modGroup_acks : (s.modGroup c l f).acks = s.acks := rfl
@[simp] theorem State.modGroup_early : (s.modGroup c l f).early = s.early := rfl
@[simp] theorem State.modGroup_loads : (s.modGroup c l f).loads = s.loads := rfl
@[simp] theorem State.modGroup_watches : (s.modGroup c l f).watches = s.watches := rfl
@[simp] theorem State.modGroup_peerWatches : (s.modGroup c l f).peerWatches = s.peerWatches := rfl
@[simp] theorem State.modGroup_upartials : (s.modGroup c l f).upartials = s.upartials := rfl
@[simp] theorem State.modGroup_l1 : (s.modGroup c l f).l1 = s.l1 := rfl
@[simp] theorem State.modGroup_fused : (s.modGroup c l f).fused = s.fused := rfl
@[simp] theorem State.modGroup_tlb : (s.modGroup c l f).tlb = s.tlb := rfl
@[simp] theorem State.modGroup_utlb : (s.modGroup c l f).utlb = s.utlb := rfl
@[simp] theorem State.modGroup_faulty : (s.modGroup c l f).faulty = s.faulty := rfl
@[simp] theorem State.modGroup_teams : (s.modGroup c l f).teams = s.teams := rfl
@[simp] theorem State.modGroup_gangs : (s.modGroup c l f).gangs = s.gangs := rfl
@[simp] theorem State.modGroup_launches : (s.modGroup c l f).launches = s.launches := rfl
@[simp] theorem State.modGroup_engines : (s.modGroup c l f).engines = s.engines := rfl
@[simp] theorem State.modGroup_jobs : (s.modGroup c l f).jobs = s.jobs := rfl
@[simp] theorem State.modGroup_cores : (s.modGroup c l f).cores = s.cores := rfl
@[simp] theorem State.modGroup_tus : (s.modGroup c l f).tus = s.tus := rfl
@[simp] theorem State.modGroup_stopped : (s.modGroup c l f).stopped = s.stopped := rfl
@[simp] theorem State.modGroup_drained : (s.modGroup c l f).drained = s.drained := rfl
@[simp] theorem State.modGroup_savedTeams : (s.modGroup c l f).savedTeams = s.savedTeams := rfl
@[simp] theorem State.modGroup_keeperText : (s.modGroup c l f).keeperText = s.keeperText := rfl
@[simp] theorem State.modGroup_keeperSize : (s.modGroup c l f).keeperSize = s.keeperSize := rfl
@[simp] theorem State.modGroup_keeperCallmax : (s.modGroup c l f).keeperCallmax = s.keeperCallmax := rfl
@[simp] theorem State.modGroup_rows : (s.modGroup c l f).rows = s.rows := rfl
@[simp] theorem State.modGroup_unmapped : (s.modGroup c l f).unmapped = s.unmapped := rfl
@[simp] theorem State.modGroup_destroying : (s.modGroup c l f).destroying = s.destroying := rfl
@[simp] theorem State.modGroup_drains : (s.modGroup c l f).drains = s.drains := rfl
@[simp] theorem State.modGroup_wdogs : (s.modGroup c l f).wdogs = s.wdogs := rfl
@[simp] theorem State.modGroup_packets : (s.modGroup c l f).packets = s.packets := rfl
@[simp] theorem State.modGroup_events : (s.modGroup c l f).events = s.events := rfl
@[simp] theorem State.modGroup_time : (s.modGroup c l f).time = s.time := rfl
@[simp] theorem State.modGroup_ramps : (s.modGroup c l f).ramps = s.ramps := rfl
@[simp] theorem State.modGroup_art : (s.modGroup c l f).art = s.art := rfl
@[simp] theorem State.modGroup_inb : (s.modGroup c l f).inb = s.inb := rfl
@[simp] theorem State.modGroup_route : (s.modGroup c l f).route = s.route := rfl
@[simp] theorem State.modGroup_linksDown : (s.modGroup c l f).linksDown = s.linksDown := rfl
@[simp] theorem State.modGroup_hostCtl : (s.modGroup c l f).hostCtl = s.hostCtl := rfl
@[simp] theorem State.modGroup_hostEvents : (s.modGroup c l f).hostEvents = s.hostEvents := rfl
@[simp] theorem State.modGroup_hostUp : (s.modGroup c l f).hostUp = s.hostUp := rfl
@[simp] theorem State.modGroup_fns : (s.modGroup c l f).fns = s.fns := rfl
@[simp] theorem State.modGroup_ckpt : (s.modGroup c l f).ckpt = s.ckpt := rfl
@[simp] theorem State.modGroup_ckStatus : (s.modGroup c l f).ckStatus = s.ckStatus := rfl
@[simp] theorem State.modGroup_areq : (s.modGroup c l f).areq = s.areq := rfl
@[simp] theorem State.modGroup_astatErr : (s.modGroup c l f).astatErr = s.astatErr := rfl
@[simp] theorem State.modGroup_mrs : (s.modGroup c l f).mrs = s.mrs := rfl
@[simp] theorem State.modGroup_elogBase : (s.modGroup c l f).elogBase = s.elogBase := rfl
@[simp] theorem State.modGroup_elogHead : (s.modGroup c l f).elogHead = s.elogHead := rfl
@[simp] theorem State.modGroup_elogWrapped : (s.modGroup c l f).elogWrapped = s.elogWrapped := rfl
@[simp] theorem State.modGroup_retired : (s.modGroup c l f).retired = s.retired := rfl
@[simp] theorem State.modGroup_i3cAddr : (s.modGroup c l f).i3cAddr = s.i3cAddr := rfl
@[simp] theorem State.modGroup_boardState : (s.modGroup c l f).boardState = s.boardState := rfl
@[simp] theorem State.modGroup_temp : (s.modGroup c l f).temp = s.temp := rfl
@[simp] theorem State.modGroup_power : (s.modGroup c l f).power = s.power := rfl
@[simp] theorem State.modGroup_pcap : (s.modGroup c l f).pcap = s.pcap := rfl
@[simp] theorem State.modGroup_capInForce : (s.modGroup c l f).capInForce = s.capInForce := rfl
@[simp] theorem State.modGroup_thermal : (s.modGroup c l f).thermal = s.thermal := rfl
@[simp] theorem State.modGroup_bootEntry : (s.modGroup c l f).bootEntry = s.bootEntry := rfl
@[simp] theorem State.modGroup_signets : (s.modGroup c l f).signets = s.signets := rfl
@[simp] theorem State.modGroup_tcm : (s.modGroup c l f).tcm = s.tcm := rfl
@[simp] theorem State.modGroup_packetHarts : (s.modGroup c l f).packetHarts = s.packetHarts := rfl
@[simp] theorem State.modGroup_policyHart : (s.modGroup c l f).policyHart = s.policyHart := rfl
@[simp] theorem State.modGroup_reservations : (s.modGroup c l f).reservations = s.reservations := rfl
@[simp] theorem State.modGroup_guestCid : (s.modGroup c l f).guestCid = s.guestCid := rfl
@[simp] theorem State.modGroup_boot : (s.modGroup c l f).boot = s.boot := rfl
@[simp] theorem State.modGroup_busRead : (s.modGroup c l f).busRead = s.busRead := rfl
@[simp] theorem State.modGroup_busFault : (s.modGroup c l f).busFault = s.busFault := rfl

end

/-! ## One team -/

section
variable (s : State) (i : Nat) (f : Team → Team)

@[simp] theorem State.modTeam_cur : (s.modTeam i f).cur = s.cur := rfl
@[simp] theorem State.modTeam_issueQ : (s.modTeam i f).issueQ = s.issueQ := rfl
@[simp] theorem State.modTeam_agenda : (s.modTeam i f).agenda = s.agenda := rfl
@[simp] theorem State.modTeam_turn : (s.modTeam i f).turn = s.turn := rfl
@[simp] theorem State.modTeam_nextId : (s.modTeam i f).nextId = s.nextId := rfl
@[simp] theorem State.modTeam_free : (s.modTeam i f).free = s.free := rfl
@[simp] theorem State.modTeam_mem : (s.modTeam i f).mem = s.mem := rfl
@[simp] theorem State.modTeam_peer : (s.modTeam i f).peer = s.peer := rfl
@[simp] theorem State.modTeam_peerInb : (s.modTeam i f).peerInb = s.peerInb := rfl
@[simp] theorem State.modTeam_stamps : (s.modTeam i f).stamps = s.stamps := rfl
@[simp] theorem State.modTeam_clock : (s.modTeam i f).clock = s.clock := rfl
@[simp] theorem State.modTeam_snaps : (s.modTeam i f).snaps = s.snaps := rfl
@[simp] theorem State.modTeam_contexts : (s.modTeam i f).contexts = s.contexts := rfl
@[simp] theorem State.modTeam_storeIrqs : (s.modTeam i f).storeIrqs = s.storeIrqs := rfl
@[simp] theorem State.modTeam_slices : (s.modTeam i f).slices = s.slices := rfl
@[simp] theorem State.modTeam_writes : (s.modTeam i f).writes = s.writes := rfl
@[simp] theorem State.modTeam_acks : (s.modTeam i f).acks = s.acks := rfl
@[simp] theorem State.modTeam_early : (s.modTeam i f).early = s.early := rfl
@[simp] theorem State.modTeam_loads : (s.modTeam i f).loads = s.loads := rfl
@[simp] theorem State.modTeam_watches : (s.modTeam i f).watches = s.watches := rfl
@[simp] theorem State.modTeam_peerWatches : (s.modTeam i f).peerWatches = s.peerWatches := rfl
@[simp] theorem State.modTeam_upartials : (s.modTeam i f).upartials = s.upartials := rfl
@[simp] theorem State.modTeam_l1 : (s.modTeam i f).l1 = s.l1 := rfl
@[simp] theorem State.modTeam_fused : (s.modTeam i f).fused = s.fused := rfl
@[simp] theorem State.modTeam_tlb : (s.modTeam i f).tlb = s.tlb := rfl
@[simp] theorem State.modTeam_utlb : (s.modTeam i f).utlb = s.utlb := rfl
@[simp] theorem State.modTeam_faulty : (s.modTeam i f).faulty = s.faulty := rfl
@[simp] theorem State.modTeam_groups : (s.modTeam i f).groups = s.groups := rfl
@[simp] theorem State.modTeam_gangs : (s.modTeam i f).gangs = s.gangs := rfl
@[simp] theorem State.modTeam_launches : (s.modTeam i f).launches = s.launches := rfl
@[simp] theorem State.modTeam_engines : (s.modTeam i f).engines = s.engines := rfl
@[simp] theorem State.modTeam_jobs : (s.modTeam i f).jobs = s.jobs := rfl
@[simp] theorem State.modTeam_cores : (s.modTeam i f).cores = s.cores := rfl
@[simp] theorem State.modTeam_tus : (s.modTeam i f).tus = s.tus := rfl
@[simp] theorem State.modTeam_stopped : (s.modTeam i f).stopped = s.stopped := rfl
@[simp] theorem State.modTeam_drained : (s.modTeam i f).drained = s.drained := rfl
@[simp] theorem State.modTeam_savedTeams : (s.modTeam i f).savedTeams = s.savedTeams := rfl
@[simp] theorem State.modTeam_keeperText : (s.modTeam i f).keeperText = s.keeperText := rfl
@[simp] theorem State.modTeam_keeperSize : (s.modTeam i f).keeperSize = s.keeperSize := rfl
@[simp] theorem State.modTeam_keeperCallmax : (s.modTeam i f).keeperCallmax = s.keeperCallmax := rfl
@[simp] theorem State.modTeam_rows : (s.modTeam i f).rows = s.rows := rfl
@[simp] theorem State.modTeam_unmapped : (s.modTeam i f).unmapped = s.unmapped := rfl
@[simp] theorem State.modTeam_destroying : (s.modTeam i f).destroying = s.destroying := rfl
@[simp] theorem State.modTeam_drains : (s.modTeam i f).drains = s.drains := rfl
@[simp] theorem State.modTeam_wdogs : (s.modTeam i f).wdogs = s.wdogs := rfl
@[simp] theorem State.modTeam_packets : (s.modTeam i f).packets = s.packets := rfl
@[simp] theorem State.modTeam_events : (s.modTeam i f).events = s.events := rfl
@[simp] theorem State.modTeam_time : (s.modTeam i f).time = s.time := rfl
@[simp] theorem State.modTeam_ramps : (s.modTeam i f).ramps = s.ramps := rfl
@[simp] theorem State.modTeam_art : (s.modTeam i f).art = s.art := rfl
@[simp] theorem State.modTeam_inb : (s.modTeam i f).inb = s.inb := rfl
@[simp] theorem State.modTeam_route : (s.modTeam i f).route = s.route := rfl
@[simp] theorem State.modTeam_linksDown : (s.modTeam i f).linksDown = s.linksDown := rfl
@[simp] theorem State.modTeam_hostCtl : (s.modTeam i f).hostCtl = s.hostCtl := rfl
@[simp] theorem State.modTeam_hostEvents : (s.modTeam i f).hostEvents = s.hostEvents := rfl
@[simp] theorem State.modTeam_hostUp : (s.modTeam i f).hostUp = s.hostUp := rfl
@[simp] theorem State.modTeam_fns : (s.modTeam i f).fns = s.fns := rfl
@[simp] theorem State.modTeam_ckpt : (s.modTeam i f).ckpt = s.ckpt := rfl
@[simp] theorem State.modTeam_ckStatus : (s.modTeam i f).ckStatus = s.ckStatus := rfl
@[simp] theorem State.modTeam_areq : (s.modTeam i f).areq = s.areq := rfl
@[simp] theorem State.modTeam_astatErr : (s.modTeam i f).astatErr = s.astatErr := rfl
@[simp] theorem State.modTeam_mrs : (s.modTeam i f).mrs = s.mrs := rfl
@[simp] theorem State.modTeam_elogBase : (s.modTeam i f).elogBase = s.elogBase := rfl
@[simp] theorem State.modTeam_elogHead : (s.modTeam i f).elogHead = s.elogHead := rfl
@[simp] theorem State.modTeam_elogWrapped : (s.modTeam i f).elogWrapped = s.elogWrapped := rfl
@[simp] theorem State.modTeam_retired : (s.modTeam i f).retired = s.retired := rfl
@[simp] theorem State.modTeam_i3cAddr : (s.modTeam i f).i3cAddr = s.i3cAddr := rfl
@[simp] theorem State.modTeam_boardState : (s.modTeam i f).boardState = s.boardState := rfl
@[simp] theorem State.modTeam_temp : (s.modTeam i f).temp = s.temp := rfl
@[simp] theorem State.modTeam_power : (s.modTeam i f).power = s.power := rfl
@[simp] theorem State.modTeam_pcap : (s.modTeam i f).pcap = s.pcap := rfl
@[simp] theorem State.modTeam_capInForce : (s.modTeam i f).capInForce = s.capInForce := rfl
@[simp] theorem State.modTeam_thermal : (s.modTeam i f).thermal = s.thermal := rfl
@[simp] theorem State.modTeam_bootEntry : (s.modTeam i f).bootEntry = s.bootEntry := rfl
@[simp] theorem State.modTeam_signets : (s.modTeam i f).signets = s.signets := rfl
@[simp] theorem State.modTeam_tcm : (s.modTeam i f).tcm = s.tcm := rfl
@[simp] theorem State.modTeam_packetHarts : (s.modTeam i f).packetHarts = s.packetHarts := rfl
@[simp] theorem State.modTeam_policyHart : (s.modTeam i f).policyHart = s.policyHart := rfl
@[simp] theorem State.modTeam_reservations : (s.modTeam i f).reservations = s.reservations := rfl
@[simp] theorem State.modTeam_guestCid : (s.modTeam i f).guestCid = s.guestCid := rfl
@[simp] theorem State.modTeam_boot : (s.modTeam i f).boot = s.boot := rfl
@[simp] theorem State.modTeam_busRead : (s.modTeam i f).busRead = s.busRead := rfl
@[simp] theorem State.modTeam_busFault : (s.modTeam i f).busFault = s.busFault := rfl

end

/-! ## One launch -/

section
variable (s : State) (i : Nat) (f : Launch → Launch)

@[simp] theorem State.modLaunch_cur : (s.modLaunch i f).cur = s.cur := rfl
@[simp] theorem State.modLaunch_issueQ : (s.modLaunch i f).issueQ = s.issueQ := rfl
@[simp] theorem State.modLaunch_agenda : (s.modLaunch i f).agenda = s.agenda := rfl
@[simp] theorem State.modLaunch_turn : (s.modLaunch i f).turn = s.turn := rfl
@[simp] theorem State.modLaunch_nextId : (s.modLaunch i f).nextId = s.nextId := rfl
@[simp] theorem State.modLaunch_free : (s.modLaunch i f).free = s.free := rfl
@[simp] theorem State.modLaunch_mem : (s.modLaunch i f).mem = s.mem := rfl
@[simp] theorem State.modLaunch_peer : (s.modLaunch i f).peer = s.peer := rfl
@[simp] theorem State.modLaunch_peerInb : (s.modLaunch i f).peerInb = s.peerInb := rfl
@[simp] theorem State.modLaunch_stamps : (s.modLaunch i f).stamps = s.stamps := rfl
@[simp] theorem State.modLaunch_clock : (s.modLaunch i f).clock = s.clock := rfl
@[simp] theorem State.modLaunch_snaps : (s.modLaunch i f).snaps = s.snaps := rfl
@[simp] theorem State.modLaunch_contexts : (s.modLaunch i f).contexts = s.contexts := rfl
@[simp] theorem State.modLaunch_storeIrqs : (s.modLaunch i f).storeIrqs = s.storeIrqs := rfl
@[simp] theorem State.modLaunch_slices : (s.modLaunch i f).slices = s.slices := rfl
@[simp] theorem State.modLaunch_writes : (s.modLaunch i f).writes = s.writes := rfl
@[simp] theorem State.modLaunch_acks : (s.modLaunch i f).acks = s.acks := rfl
@[simp] theorem State.modLaunch_early : (s.modLaunch i f).early = s.early := rfl
@[simp] theorem State.modLaunch_loads : (s.modLaunch i f).loads = s.loads := rfl
@[simp] theorem State.modLaunch_watches : (s.modLaunch i f).watches = s.watches := rfl
@[simp] theorem State.modLaunch_peerWatches : (s.modLaunch i f).peerWatches = s.peerWatches := rfl
@[simp] theorem State.modLaunch_upartials : (s.modLaunch i f).upartials = s.upartials := rfl
@[simp] theorem State.modLaunch_l1 : (s.modLaunch i f).l1 = s.l1 := rfl
@[simp] theorem State.modLaunch_fused : (s.modLaunch i f).fused = s.fused := rfl
@[simp] theorem State.modLaunch_tlb : (s.modLaunch i f).tlb = s.tlb := rfl
@[simp] theorem State.modLaunch_utlb : (s.modLaunch i f).utlb = s.utlb := rfl
@[simp] theorem State.modLaunch_faulty : (s.modLaunch i f).faulty = s.faulty := rfl
@[simp] theorem State.modLaunch_groups : (s.modLaunch i f).groups = s.groups := rfl
@[simp] theorem State.modLaunch_teams : (s.modLaunch i f).teams = s.teams := rfl
@[simp] theorem State.modLaunch_gangs : (s.modLaunch i f).gangs = s.gangs := rfl
@[simp] theorem State.modLaunch_engines : (s.modLaunch i f).engines = s.engines := rfl
@[simp] theorem State.modLaunch_jobs : (s.modLaunch i f).jobs = s.jobs := rfl
@[simp] theorem State.modLaunch_cores : (s.modLaunch i f).cores = s.cores := rfl
@[simp] theorem State.modLaunch_tus : (s.modLaunch i f).tus = s.tus := rfl
@[simp] theorem State.modLaunch_stopped : (s.modLaunch i f).stopped = s.stopped := rfl
@[simp] theorem State.modLaunch_drained : (s.modLaunch i f).drained = s.drained := rfl
@[simp] theorem State.modLaunch_savedTeams : (s.modLaunch i f).savedTeams = s.savedTeams := rfl
@[simp] theorem State.modLaunch_keeperText : (s.modLaunch i f).keeperText = s.keeperText := rfl
@[simp] theorem State.modLaunch_keeperSize : (s.modLaunch i f).keeperSize = s.keeperSize := rfl
@[simp] theorem State.modLaunch_keeperCallmax : (s.modLaunch i f).keeperCallmax = s.keeperCallmax := rfl
@[simp] theorem State.modLaunch_rows : (s.modLaunch i f).rows = s.rows := rfl
@[simp] theorem State.modLaunch_unmapped : (s.modLaunch i f).unmapped = s.unmapped := rfl
@[simp] theorem State.modLaunch_destroying : (s.modLaunch i f).destroying = s.destroying := rfl
@[simp] theorem State.modLaunch_drains : (s.modLaunch i f).drains = s.drains := rfl
@[simp] theorem State.modLaunch_wdogs : (s.modLaunch i f).wdogs = s.wdogs := rfl
@[simp] theorem State.modLaunch_packets : (s.modLaunch i f).packets = s.packets := rfl
@[simp] theorem State.modLaunch_events : (s.modLaunch i f).events = s.events := rfl
@[simp] theorem State.modLaunch_time : (s.modLaunch i f).time = s.time := rfl
@[simp] theorem State.modLaunch_ramps : (s.modLaunch i f).ramps = s.ramps := rfl
@[simp] theorem State.modLaunch_art : (s.modLaunch i f).art = s.art := rfl
@[simp] theorem State.modLaunch_inb : (s.modLaunch i f).inb = s.inb := rfl
@[simp] theorem State.modLaunch_route : (s.modLaunch i f).route = s.route := rfl
@[simp] theorem State.modLaunch_linksDown : (s.modLaunch i f).linksDown = s.linksDown := rfl
@[simp] theorem State.modLaunch_hostCtl : (s.modLaunch i f).hostCtl = s.hostCtl := rfl
@[simp] theorem State.modLaunch_hostEvents : (s.modLaunch i f).hostEvents = s.hostEvents := rfl
@[simp] theorem State.modLaunch_hostUp : (s.modLaunch i f).hostUp = s.hostUp := rfl
@[simp] theorem State.modLaunch_fns : (s.modLaunch i f).fns = s.fns := rfl
@[simp] theorem State.modLaunch_ckpt : (s.modLaunch i f).ckpt = s.ckpt := rfl
@[simp] theorem State.modLaunch_ckStatus : (s.modLaunch i f).ckStatus = s.ckStatus := rfl
@[simp] theorem State.modLaunch_areq : (s.modLaunch i f).areq = s.areq := rfl
@[simp] theorem State.modLaunch_astatErr : (s.modLaunch i f).astatErr = s.astatErr := rfl
@[simp] theorem State.modLaunch_mrs : (s.modLaunch i f).mrs = s.mrs := rfl
@[simp] theorem State.modLaunch_elogBase : (s.modLaunch i f).elogBase = s.elogBase := rfl
@[simp] theorem State.modLaunch_elogHead : (s.modLaunch i f).elogHead = s.elogHead := rfl
@[simp] theorem State.modLaunch_elogWrapped : (s.modLaunch i f).elogWrapped = s.elogWrapped := rfl
@[simp] theorem State.modLaunch_retired : (s.modLaunch i f).retired = s.retired := rfl
@[simp] theorem State.modLaunch_i3cAddr : (s.modLaunch i f).i3cAddr = s.i3cAddr := rfl
@[simp] theorem State.modLaunch_boardState : (s.modLaunch i f).boardState = s.boardState := rfl
@[simp] theorem State.modLaunch_temp : (s.modLaunch i f).temp = s.temp := rfl
@[simp] theorem State.modLaunch_power : (s.modLaunch i f).power = s.power := rfl
@[simp] theorem State.modLaunch_pcap : (s.modLaunch i f).pcap = s.pcap := rfl
@[simp] theorem State.modLaunch_capInForce : (s.modLaunch i f).capInForce = s.capInForce := rfl
@[simp] theorem State.modLaunch_thermal : (s.modLaunch i f).thermal = s.thermal := rfl
@[simp] theorem State.modLaunch_bootEntry : (s.modLaunch i f).bootEntry = s.bootEntry := rfl
@[simp] theorem State.modLaunch_signets : (s.modLaunch i f).signets = s.signets := rfl
@[simp] theorem State.modLaunch_tcm : (s.modLaunch i f).tcm = s.tcm := rfl
@[simp] theorem State.modLaunch_packetHarts : (s.modLaunch i f).packetHarts = s.packetHarts := rfl
@[simp] theorem State.modLaunch_policyHart : (s.modLaunch i f).policyHart = s.policyHart := rfl
@[simp] theorem State.modLaunch_reservations : (s.modLaunch i f).reservations = s.reservations := rfl
@[simp] theorem State.modLaunch_guestCid : (s.modLaunch i f).guestCid = s.guestCid := rfl
@[simp] theorem State.modLaunch_boot : (s.modLaunch i f).boot = s.boot := rfl
@[simp] theorem State.modLaunch_busRead : (s.modLaunch i f).busRead = s.busRead := rfl
@[simp] theorem State.modLaunch_busFault : (s.modLaunch i f).busFault = s.busFault := rfl

end

/-! ## One core -/

section
variable (s : State) (i : Nat) (f : CoreBlock → CoreBlock)

@[simp] theorem State.modCore_cur : (s.modCore i f).cur = s.cur := rfl
@[simp] theorem State.modCore_issueQ : (s.modCore i f).issueQ = s.issueQ := rfl
@[simp] theorem State.modCore_agenda : (s.modCore i f).agenda = s.agenda := rfl
@[simp] theorem State.modCore_turn : (s.modCore i f).turn = s.turn := rfl
@[simp] theorem State.modCore_nextId : (s.modCore i f).nextId = s.nextId := rfl
@[simp] theorem State.modCore_free : (s.modCore i f).free = s.free := rfl
@[simp] theorem State.modCore_mem : (s.modCore i f).mem = s.mem := rfl
@[simp] theorem State.modCore_peer : (s.modCore i f).peer = s.peer := rfl
@[simp] theorem State.modCore_peerInb : (s.modCore i f).peerInb = s.peerInb := rfl
@[simp] theorem State.modCore_stamps : (s.modCore i f).stamps = s.stamps := rfl
@[simp] theorem State.modCore_clock : (s.modCore i f).clock = s.clock := rfl
@[simp] theorem State.modCore_snaps : (s.modCore i f).snaps = s.snaps := rfl
@[simp] theorem State.modCore_contexts : (s.modCore i f).contexts = s.contexts := rfl
@[simp] theorem State.modCore_storeIrqs : (s.modCore i f).storeIrqs = s.storeIrqs := rfl
@[simp] theorem State.modCore_slices : (s.modCore i f).slices = s.slices := rfl
@[simp] theorem State.modCore_writes : (s.modCore i f).writes = s.writes := rfl
@[simp] theorem State.modCore_acks : (s.modCore i f).acks = s.acks := rfl
@[simp] theorem State.modCore_early : (s.modCore i f).early = s.early := rfl
@[simp] theorem State.modCore_loads : (s.modCore i f).loads = s.loads := rfl
@[simp] theorem State.modCore_watches : (s.modCore i f).watches = s.watches := rfl
@[simp] theorem State.modCore_peerWatches : (s.modCore i f).peerWatches = s.peerWatches := rfl
@[simp] theorem State.modCore_upartials : (s.modCore i f).upartials = s.upartials := rfl
@[simp] theorem State.modCore_l1 : (s.modCore i f).l1 = s.l1 := rfl
@[simp] theorem State.modCore_fused : (s.modCore i f).fused = s.fused := rfl
@[simp] theorem State.modCore_tlb : (s.modCore i f).tlb = s.tlb := rfl
@[simp] theorem State.modCore_utlb : (s.modCore i f).utlb = s.utlb := rfl
@[simp] theorem State.modCore_faulty : (s.modCore i f).faulty = s.faulty := rfl
@[simp] theorem State.modCore_groups : (s.modCore i f).groups = s.groups := rfl
@[simp] theorem State.modCore_teams : (s.modCore i f).teams = s.teams := rfl
@[simp] theorem State.modCore_gangs : (s.modCore i f).gangs = s.gangs := rfl
@[simp] theorem State.modCore_launches : (s.modCore i f).launches = s.launches := rfl
@[simp] theorem State.modCore_engines : (s.modCore i f).engines = s.engines := rfl
@[simp] theorem State.modCore_jobs : (s.modCore i f).jobs = s.jobs := rfl
@[simp] theorem State.modCore_tus : (s.modCore i f).tus = s.tus := rfl
@[simp] theorem State.modCore_stopped : (s.modCore i f).stopped = s.stopped := rfl
@[simp] theorem State.modCore_drained : (s.modCore i f).drained = s.drained := rfl
@[simp] theorem State.modCore_savedTeams : (s.modCore i f).savedTeams = s.savedTeams := rfl
@[simp] theorem State.modCore_keeperText : (s.modCore i f).keeperText = s.keeperText := rfl
@[simp] theorem State.modCore_keeperSize : (s.modCore i f).keeperSize = s.keeperSize := rfl
@[simp] theorem State.modCore_keeperCallmax : (s.modCore i f).keeperCallmax = s.keeperCallmax := rfl
@[simp] theorem State.modCore_rows : (s.modCore i f).rows = s.rows := rfl
@[simp] theorem State.modCore_unmapped : (s.modCore i f).unmapped = s.unmapped := rfl
@[simp] theorem State.modCore_destroying : (s.modCore i f).destroying = s.destroying := rfl
@[simp] theorem State.modCore_drains : (s.modCore i f).drains = s.drains := rfl
@[simp] theorem State.modCore_wdogs : (s.modCore i f).wdogs = s.wdogs := rfl
@[simp] theorem State.modCore_packets : (s.modCore i f).packets = s.packets := rfl
@[simp] theorem State.modCore_events : (s.modCore i f).events = s.events := rfl
@[simp] theorem State.modCore_time : (s.modCore i f).time = s.time := rfl
@[simp] theorem State.modCore_ramps : (s.modCore i f).ramps = s.ramps := rfl
@[simp] theorem State.modCore_art : (s.modCore i f).art = s.art := rfl
@[simp] theorem State.modCore_inb : (s.modCore i f).inb = s.inb := rfl
@[simp] theorem State.modCore_route : (s.modCore i f).route = s.route := rfl
@[simp] theorem State.modCore_linksDown : (s.modCore i f).linksDown = s.linksDown := rfl
@[simp] theorem State.modCore_hostCtl : (s.modCore i f).hostCtl = s.hostCtl := rfl
@[simp] theorem State.modCore_hostEvents : (s.modCore i f).hostEvents = s.hostEvents := rfl
@[simp] theorem State.modCore_hostUp : (s.modCore i f).hostUp = s.hostUp := rfl
@[simp] theorem State.modCore_fns : (s.modCore i f).fns = s.fns := rfl
@[simp] theorem State.modCore_ckpt : (s.modCore i f).ckpt = s.ckpt := rfl
@[simp] theorem State.modCore_ckStatus : (s.modCore i f).ckStatus = s.ckStatus := rfl
@[simp] theorem State.modCore_areq : (s.modCore i f).areq = s.areq := rfl
@[simp] theorem State.modCore_astatErr : (s.modCore i f).astatErr = s.astatErr := rfl
@[simp] theorem State.modCore_mrs : (s.modCore i f).mrs = s.mrs := rfl
@[simp] theorem State.modCore_elogBase : (s.modCore i f).elogBase = s.elogBase := rfl
@[simp] theorem State.modCore_elogHead : (s.modCore i f).elogHead = s.elogHead := rfl
@[simp] theorem State.modCore_elogWrapped : (s.modCore i f).elogWrapped = s.elogWrapped := rfl
@[simp] theorem State.modCore_retired : (s.modCore i f).retired = s.retired := rfl
@[simp] theorem State.modCore_i3cAddr : (s.modCore i f).i3cAddr = s.i3cAddr := rfl
@[simp] theorem State.modCore_boardState : (s.modCore i f).boardState = s.boardState := rfl
@[simp] theorem State.modCore_temp : (s.modCore i f).temp = s.temp := rfl
@[simp] theorem State.modCore_power : (s.modCore i f).power = s.power := rfl
@[simp] theorem State.modCore_pcap : (s.modCore i f).pcap = s.pcap := rfl
@[simp] theorem State.modCore_capInForce : (s.modCore i f).capInForce = s.capInForce := rfl
@[simp] theorem State.modCore_thermal : (s.modCore i f).thermal = s.thermal := rfl
@[simp] theorem State.modCore_bootEntry : (s.modCore i f).bootEntry = s.bootEntry := rfl
@[simp] theorem State.modCore_signets : (s.modCore i f).signets = s.signets := rfl
@[simp] theorem State.modCore_tcm : (s.modCore i f).tcm = s.tcm := rfl
@[simp] theorem State.modCore_packetHarts : (s.modCore i f).packetHarts = s.packetHarts := rfl
@[simp] theorem State.modCore_policyHart : (s.modCore i f).policyHart = s.policyHart := rfl
@[simp] theorem State.modCore_reservations : (s.modCore i f).reservations = s.reservations := rfl
@[simp] theorem State.modCore_guestCid : (s.modCore i f).guestCid = s.guestCid := rfl
@[simp] theorem State.modCore_boot : (s.modCore i f).boot = s.boot := rfl
@[simp] theorem State.modCore_busRead : (s.modCore i f).busRead = s.busRead := rfl
@[simp] theorem State.modCore_busFault : (s.modCore i f).busFault = s.busFault := rfl

end

/-! ## One translation unit -/

section
variable (s : State) (i : Nat) (f : TuBlock → TuBlock)

@[simp] theorem State.modTu_cur : (s.modTu i f).cur = s.cur := rfl
@[simp] theorem State.modTu_issueQ : (s.modTu i f).issueQ = s.issueQ := rfl
@[simp] theorem State.modTu_agenda : (s.modTu i f).agenda = s.agenda := rfl
@[simp] theorem State.modTu_turn : (s.modTu i f).turn = s.turn := rfl
@[simp] theorem State.modTu_nextId : (s.modTu i f).nextId = s.nextId := rfl
@[simp] theorem State.modTu_free : (s.modTu i f).free = s.free := rfl
@[simp] theorem State.modTu_mem : (s.modTu i f).mem = s.mem := rfl
@[simp] theorem State.modTu_peer : (s.modTu i f).peer = s.peer := rfl
@[simp] theorem State.modTu_peerInb : (s.modTu i f).peerInb = s.peerInb := rfl
@[simp] theorem State.modTu_stamps : (s.modTu i f).stamps = s.stamps := rfl
@[simp] theorem State.modTu_clock : (s.modTu i f).clock = s.clock := rfl
@[simp] theorem State.modTu_snaps : (s.modTu i f).snaps = s.snaps := rfl
@[simp] theorem State.modTu_contexts : (s.modTu i f).contexts = s.contexts := rfl
@[simp] theorem State.modTu_storeIrqs : (s.modTu i f).storeIrqs = s.storeIrqs := rfl
@[simp] theorem State.modTu_slices : (s.modTu i f).slices = s.slices := rfl
@[simp] theorem State.modTu_writes : (s.modTu i f).writes = s.writes := rfl
@[simp] theorem State.modTu_acks : (s.modTu i f).acks = s.acks := rfl
@[simp] theorem State.modTu_early : (s.modTu i f).early = s.early := rfl
@[simp] theorem State.modTu_loads : (s.modTu i f).loads = s.loads := rfl
@[simp] theorem State.modTu_watches : (s.modTu i f).watches = s.watches := rfl
@[simp] theorem State.modTu_peerWatches : (s.modTu i f).peerWatches = s.peerWatches := rfl
@[simp] theorem State.modTu_upartials : (s.modTu i f).upartials = s.upartials := rfl
@[simp] theorem State.modTu_l1 : (s.modTu i f).l1 = s.l1 := rfl
@[simp] theorem State.modTu_fused : (s.modTu i f).fused = s.fused := rfl
@[simp] theorem State.modTu_tlb : (s.modTu i f).tlb = s.tlb := rfl
@[simp] theorem State.modTu_utlb : (s.modTu i f).utlb = s.utlb := rfl
@[simp] theorem State.modTu_faulty : (s.modTu i f).faulty = s.faulty := rfl
@[simp] theorem State.modTu_groups : (s.modTu i f).groups = s.groups := rfl
@[simp] theorem State.modTu_teams : (s.modTu i f).teams = s.teams := rfl
@[simp] theorem State.modTu_gangs : (s.modTu i f).gangs = s.gangs := rfl
@[simp] theorem State.modTu_launches : (s.modTu i f).launches = s.launches := rfl
@[simp] theorem State.modTu_engines : (s.modTu i f).engines = s.engines := rfl
@[simp] theorem State.modTu_jobs : (s.modTu i f).jobs = s.jobs := rfl
@[simp] theorem State.modTu_cores : (s.modTu i f).cores = s.cores := rfl
@[simp] theorem State.modTu_stopped : (s.modTu i f).stopped = s.stopped := rfl
@[simp] theorem State.modTu_drained : (s.modTu i f).drained = s.drained := rfl
@[simp] theorem State.modTu_savedTeams : (s.modTu i f).savedTeams = s.savedTeams := rfl
@[simp] theorem State.modTu_keeperText : (s.modTu i f).keeperText = s.keeperText := rfl
@[simp] theorem State.modTu_keeperSize : (s.modTu i f).keeperSize = s.keeperSize := rfl
@[simp] theorem State.modTu_keeperCallmax : (s.modTu i f).keeperCallmax = s.keeperCallmax := rfl
@[simp] theorem State.modTu_rows : (s.modTu i f).rows = s.rows := rfl
@[simp] theorem State.modTu_unmapped : (s.modTu i f).unmapped = s.unmapped := rfl
@[simp] theorem State.modTu_destroying : (s.modTu i f).destroying = s.destroying := rfl
@[simp] theorem State.modTu_drains : (s.modTu i f).drains = s.drains := rfl
@[simp] theorem State.modTu_wdogs : (s.modTu i f).wdogs = s.wdogs := rfl
@[simp] theorem State.modTu_packets : (s.modTu i f).packets = s.packets := rfl
@[simp] theorem State.modTu_events : (s.modTu i f).events = s.events := rfl
@[simp] theorem State.modTu_time : (s.modTu i f).time = s.time := rfl
@[simp] theorem State.modTu_ramps : (s.modTu i f).ramps = s.ramps := rfl
@[simp] theorem State.modTu_art : (s.modTu i f).art = s.art := rfl
@[simp] theorem State.modTu_inb : (s.modTu i f).inb = s.inb := rfl
@[simp] theorem State.modTu_route : (s.modTu i f).route = s.route := rfl
@[simp] theorem State.modTu_linksDown : (s.modTu i f).linksDown = s.linksDown := rfl
@[simp] theorem State.modTu_hostCtl : (s.modTu i f).hostCtl = s.hostCtl := rfl
@[simp] theorem State.modTu_hostEvents : (s.modTu i f).hostEvents = s.hostEvents := rfl
@[simp] theorem State.modTu_hostUp : (s.modTu i f).hostUp = s.hostUp := rfl
@[simp] theorem State.modTu_fns : (s.modTu i f).fns = s.fns := rfl
@[simp] theorem State.modTu_ckpt : (s.modTu i f).ckpt = s.ckpt := rfl
@[simp] theorem State.modTu_ckStatus : (s.modTu i f).ckStatus = s.ckStatus := rfl
@[simp] theorem State.modTu_areq : (s.modTu i f).areq = s.areq := rfl
@[simp] theorem State.modTu_astatErr : (s.modTu i f).astatErr = s.astatErr := rfl
@[simp] theorem State.modTu_mrs : (s.modTu i f).mrs = s.mrs := rfl
@[simp] theorem State.modTu_elogBase : (s.modTu i f).elogBase = s.elogBase := rfl
@[simp] theorem State.modTu_elogHead : (s.modTu i f).elogHead = s.elogHead := rfl
@[simp] theorem State.modTu_elogWrapped : (s.modTu i f).elogWrapped = s.elogWrapped := rfl
@[simp] theorem State.modTu_retired : (s.modTu i f).retired = s.retired := rfl
@[simp] theorem State.modTu_i3cAddr : (s.modTu i f).i3cAddr = s.i3cAddr := rfl
@[simp] theorem State.modTu_boardState : (s.modTu i f).boardState = s.boardState := rfl
@[simp] theorem State.modTu_temp : (s.modTu i f).temp = s.temp := rfl
@[simp] theorem State.modTu_power : (s.modTu i f).power = s.power := rfl
@[simp] theorem State.modTu_pcap : (s.modTu i f).pcap = s.pcap := rfl
@[simp] theorem State.modTu_capInForce : (s.modTu i f).capInForce = s.capInForce := rfl
@[simp] theorem State.modTu_thermal : (s.modTu i f).thermal = s.thermal := rfl
@[simp] theorem State.modTu_bootEntry : (s.modTu i f).bootEntry = s.bootEntry := rfl
@[simp] theorem State.modTu_signets : (s.modTu i f).signets = s.signets := rfl
@[simp] theorem State.modTu_tcm : (s.modTu i f).tcm = s.tcm := rfl
@[simp] theorem State.modTu_packetHarts : (s.modTu i f).packetHarts = s.packetHarts := rfl
@[simp] theorem State.modTu_policyHart : (s.modTu i f).policyHart = s.policyHart := rfl
@[simp] theorem State.modTu_reservations : (s.modTu i f).reservations = s.reservations := rfl
@[simp] theorem State.modTu_guestCid : (s.modTu i f).guestCid = s.guestCid := rfl
@[simp] theorem State.modTu_boot : (s.modTu i f).boot = s.boot := rfl
@[simp] theorem State.modTu_busRead : (s.modTu i f).busRead = s.busRead := rfl
@[simp] theorem State.modTu_busFault : (s.modTu i f).busFault = s.busFault := rfl

end

/-! ## One row -/

section
variable (s : State) (i : Nat) (f : Row → Row)

@[simp] theorem State.modRow_cur : (s.modRow i f).cur = s.cur := rfl
@[simp] theorem State.modRow_issueQ : (s.modRow i f).issueQ = s.issueQ := rfl
@[simp] theorem State.modRow_agenda : (s.modRow i f).agenda = s.agenda := rfl
@[simp] theorem State.modRow_turn : (s.modRow i f).turn = s.turn := rfl
@[simp] theorem State.modRow_nextId : (s.modRow i f).nextId = s.nextId := rfl
@[simp] theorem State.modRow_free : (s.modRow i f).free = s.free := rfl
@[simp] theorem State.modRow_mem : (s.modRow i f).mem = s.mem := rfl
@[simp] theorem State.modRow_peer : (s.modRow i f).peer = s.peer := rfl
@[simp] theorem State.modRow_peerInb : (s.modRow i f).peerInb = s.peerInb := rfl
@[simp] theorem State.modRow_stamps : (s.modRow i f).stamps = s.stamps := rfl
@[simp] theorem State.modRow_clock : (s.modRow i f).clock = s.clock := rfl
@[simp] theorem State.modRow_snaps : (s.modRow i f).snaps = s.snaps := rfl
@[simp] theorem State.modRow_contexts : (s.modRow i f).contexts = s.contexts := rfl
@[simp] theorem State.modRow_storeIrqs : (s.modRow i f).storeIrqs = s.storeIrqs := rfl
@[simp] theorem State.modRow_slices : (s.modRow i f).slices = s.slices := rfl
@[simp] theorem State.modRow_writes : (s.modRow i f).writes = s.writes := rfl
@[simp] theorem State.modRow_acks : (s.modRow i f).acks = s.acks := rfl
@[simp] theorem State.modRow_early : (s.modRow i f).early = s.early := rfl
@[simp] theorem State.modRow_loads : (s.modRow i f).loads = s.loads := rfl
@[simp] theorem State.modRow_watches : (s.modRow i f).watches = s.watches := rfl
@[simp] theorem State.modRow_peerWatches : (s.modRow i f).peerWatches = s.peerWatches := rfl
@[simp] theorem State.modRow_upartials : (s.modRow i f).upartials = s.upartials := rfl
@[simp] theorem State.modRow_l1 : (s.modRow i f).l1 = s.l1 := rfl
@[simp] theorem State.modRow_fused : (s.modRow i f).fused = s.fused := rfl
@[simp] theorem State.modRow_tlb : (s.modRow i f).tlb = s.tlb := rfl
@[simp] theorem State.modRow_utlb : (s.modRow i f).utlb = s.utlb := rfl
@[simp] theorem State.modRow_faulty : (s.modRow i f).faulty = s.faulty := rfl
@[simp] theorem State.modRow_groups : (s.modRow i f).groups = s.groups := rfl
@[simp] theorem State.modRow_teams : (s.modRow i f).teams = s.teams := rfl
@[simp] theorem State.modRow_gangs : (s.modRow i f).gangs = s.gangs := rfl
@[simp] theorem State.modRow_launches : (s.modRow i f).launches = s.launches := rfl
@[simp] theorem State.modRow_engines : (s.modRow i f).engines = s.engines := rfl
@[simp] theorem State.modRow_jobs : (s.modRow i f).jobs = s.jobs := rfl
@[simp] theorem State.modRow_cores : (s.modRow i f).cores = s.cores := rfl
@[simp] theorem State.modRow_tus : (s.modRow i f).tus = s.tus := rfl
@[simp] theorem State.modRow_stopped : (s.modRow i f).stopped = s.stopped := rfl
@[simp] theorem State.modRow_drained : (s.modRow i f).drained = s.drained := rfl
@[simp] theorem State.modRow_savedTeams : (s.modRow i f).savedTeams = s.savedTeams := rfl
@[simp] theorem State.modRow_keeperText : (s.modRow i f).keeperText = s.keeperText := rfl
@[simp] theorem State.modRow_keeperSize : (s.modRow i f).keeperSize = s.keeperSize := rfl
@[simp] theorem State.modRow_keeperCallmax : (s.modRow i f).keeperCallmax = s.keeperCallmax := rfl
@[simp] theorem State.modRow_unmapped : (s.modRow i f).unmapped = s.unmapped := rfl
@[simp] theorem State.modRow_destroying : (s.modRow i f).destroying = s.destroying := rfl
@[simp] theorem State.modRow_drains : (s.modRow i f).drains = s.drains := rfl
@[simp] theorem State.modRow_wdogs : (s.modRow i f).wdogs = s.wdogs := rfl
@[simp] theorem State.modRow_packets : (s.modRow i f).packets = s.packets := rfl
@[simp] theorem State.modRow_events : (s.modRow i f).events = s.events := rfl
@[simp] theorem State.modRow_time : (s.modRow i f).time = s.time := rfl
@[simp] theorem State.modRow_ramps : (s.modRow i f).ramps = s.ramps := rfl
@[simp] theorem State.modRow_art : (s.modRow i f).art = s.art := rfl
@[simp] theorem State.modRow_inb : (s.modRow i f).inb = s.inb := rfl
@[simp] theorem State.modRow_route : (s.modRow i f).route = s.route := rfl
@[simp] theorem State.modRow_linksDown : (s.modRow i f).linksDown = s.linksDown := rfl
@[simp] theorem State.modRow_hostCtl : (s.modRow i f).hostCtl = s.hostCtl := rfl
@[simp] theorem State.modRow_hostEvents : (s.modRow i f).hostEvents = s.hostEvents := rfl
@[simp] theorem State.modRow_hostUp : (s.modRow i f).hostUp = s.hostUp := rfl
@[simp] theorem State.modRow_fns : (s.modRow i f).fns = s.fns := rfl
@[simp] theorem State.modRow_ckpt : (s.modRow i f).ckpt = s.ckpt := rfl
@[simp] theorem State.modRow_ckStatus : (s.modRow i f).ckStatus = s.ckStatus := rfl
@[simp] theorem State.modRow_areq : (s.modRow i f).areq = s.areq := rfl
@[simp] theorem State.modRow_astatErr : (s.modRow i f).astatErr = s.astatErr := rfl
@[simp] theorem State.modRow_mrs : (s.modRow i f).mrs = s.mrs := rfl
@[simp] theorem State.modRow_elogBase : (s.modRow i f).elogBase = s.elogBase := rfl
@[simp] theorem State.modRow_elogHead : (s.modRow i f).elogHead = s.elogHead := rfl
@[simp] theorem State.modRow_elogWrapped : (s.modRow i f).elogWrapped = s.elogWrapped := rfl
@[simp] theorem State.modRow_retired : (s.modRow i f).retired = s.retired := rfl
@[simp] theorem State.modRow_i3cAddr : (s.modRow i f).i3cAddr = s.i3cAddr := rfl
@[simp] theorem State.modRow_boardState : (s.modRow i f).boardState = s.boardState := rfl
@[simp] theorem State.modRow_temp : (s.modRow i f).temp = s.temp := rfl
@[simp] theorem State.modRow_power : (s.modRow i f).power = s.power := rfl
@[simp] theorem State.modRow_pcap : (s.modRow i f).pcap = s.pcap := rfl
@[simp] theorem State.modRow_capInForce : (s.modRow i f).capInForce = s.capInForce := rfl
@[simp] theorem State.modRow_thermal : (s.modRow i f).thermal = s.thermal := rfl
@[simp] theorem State.modRow_bootEntry : (s.modRow i f).bootEntry = s.bootEntry := rfl
@[simp] theorem State.modRow_signets : (s.modRow i f).signets = s.signets := rfl
@[simp] theorem State.modRow_tcm : (s.modRow i f).tcm = s.tcm := rfl
@[simp] theorem State.modRow_packetHarts : (s.modRow i f).packetHarts = s.packetHarts := rfl
@[simp] theorem State.modRow_policyHart : (s.modRow i f).policyHart = s.policyHart := rfl
@[simp] theorem State.modRow_reservations : (s.modRow i f).reservations = s.reservations := rfl
@[simp] theorem State.modRow_guestCid : (s.modRow i f).guestCid = s.guestCid := rfl
@[simp] theorem State.modRow_boot : (s.modRow i f).boot = s.boot := rfl
@[simp] theorem State.modRow_busRead : (s.modRow i f).busRead = s.busRead := rfl
@[simp] theorem State.modRow_busFault : (s.modRow i f).busFault = s.busFault := rfl

end

/-! ## One context -/

section
variable (s : State) (i : Word) (f : Context → Context)

@[simp] theorem State.modContext_cur : (s.modContext i f).cur = s.cur := by
  unfold State.modContext; split <;> rfl
@[simp] theorem State.modContext_issueQ : (s.modContext i f).issueQ = s.issueQ := by
  unfold State.modContext; split <;> rfl
@[simp] theorem State.modContext_agenda : (s.modContext i f).agenda = s.agenda := by
  unfold State.modContext; split <;> rfl
@[simp] theorem State.modContext_turn : (s.modContext i f).turn = s.turn := by
  unfold State.modContext; split <;> rfl
@[simp] theorem State.modContext_nextId : (s.modContext i f).nextId = s.nextId := by
  unfold State.modContext; split <;> rfl
@[simp] theorem State.modContext_free : (s.modContext i f).free = s.free := by
  unfold State.modContext; split <;> rfl
@[simp] theorem State.modContext_mem : (s.modContext i f).mem = s.mem := by
  unfold State.modContext; split <;> rfl
@[simp] theorem State.modContext_peer : (s.modContext i f).peer = s.peer := by
  unfold State.modContext; split <;> rfl
@[simp] theorem State.modContext_peerInb : (s.modContext i f).peerInb = s.peerInb := by
  unfold State.modContext; split <;> rfl
@[simp] theorem State.modContext_stamps : (s.modContext i f).stamps = s.stamps := by
  unfold State.modContext; split <;> rfl
@[simp] theorem State.modContext_clock : (s.modContext i f).clock = s.clock := by
  unfold State.modContext; split <;> rfl
@[simp] theorem State.modContext_snaps : (s.modContext i f).snaps = s.snaps := by
  unfold State.modContext; split <;> rfl
@[simp] theorem State.modContext_storeIrqs : (s.modContext i f).storeIrqs = s.storeIrqs := by
  unfold State.modContext; split <;> rfl
@[simp] theorem State.modContext_slices : (s.modContext i f).slices = s.slices := by
  unfold State.modContext; split <;> rfl
@[simp] theorem State.modContext_writes : (s.modContext i f).writes = s.writes := by
  unfold State.modContext; split <;> rfl
@[simp] theorem State.modContext_acks : (s.modContext i f).acks = s.acks := by
  unfold State.modContext; split <;> rfl
@[simp] theorem State.modContext_early : (s.modContext i f).early = s.early := by
  unfold State.modContext; split <;> rfl
@[simp] theorem State.modContext_loads : (s.modContext i f).loads = s.loads := by
  unfold State.modContext; split <;> rfl
@[simp] theorem State.modContext_watches : (s.modContext i f).watches = s.watches := by
  unfold State.modContext; split <;> rfl
@[simp] theorem State.modContext_peerWatches : (s.modContext i f).peerWatches = s.peerWatches := by
  unfold State.modContext; split <;> rfl
@[simp] theorem State.modContext_upartials : (s.modContext i f).upartials = s.upartials := by
  unfold State.modContext; split <;> rfl
@[simp] theorem State.modContext_l1 : (s.modContext i f).l1 = s.l1 := by
  unfold State.modContext; split <;> rfl
@[simp] theorem State.modContext_fused : (s.modContext i f).fused = s.fused := by
  unfold State.modContext; split <;> rfl
@[simp] theorem State.modContext_tlb : (s.modContext i f).tlb = s.tlb := by
  unfold State.modContext; split <;> rfl
@[simp] theorem State.modContext_utlb : (s.modContext i f).utlb = s.utlb := by
  unfold State.modContext; split <;> rfl
@[simp] theorem State.modContext_faulty : (s.modContext i f).faulty = s.faulty := by
  unfold State.modContext; split <;> rfl
@[simp] theorem State.modContext_groups : (s.modContext i f).groups = s.groups := by
  unfold State.modContext; split <;> rfl
@[simp] theorem State.modContext_teams : (s.modContext i f).teams = s.teams := by
  unfold State.modContext; split <;> rfl
@[simp] theorem State.modContext_gangs : (s.modContext i f).gangs = s.gangs := by
  unfold State.modContext; split <;> rfl
@[simp] theorem State.modContext_launches : (s.modContext i f).launches = s.launches := by
  unfold State.modContext; split <;> rfl
@[simp] theorem State.modContext_engines : (s.modContext i f).engines = s.engines := by
  unfold State.modContext; split <;> rfl
@[simp] theorem State.modContext_jobs : (s.modContext i f).jobs = s.jobs := by
  unfold State.modContext; split <;> rfl
@[simp] theorem State.modContext_cores : (s.modContext i f).cores = s.cores := by
  unfold State.modContext; split <;> rfl
@[simp] theorem State.modContext_tus : (s.modContext i f).tus = s.tus := by
  unfold State.modContext; split <;> rfl
@[simp] theorem State.modContext_stopped : (s.modContext i f).stopped = s.stopped := by
  unfold State.modContext; split <;> rfl
@[simp] theorem State.modContext_drained : (s.modContext i f).drained = s.drained := by
  unfold State.modContext; split <;> rfl
@[simp] theorem State.modContext_savedTeams : (s.modContext i f).savedTeams = s.savedTeams := by
  unfold State.modContext; split <;> rfl
@[simp] theorem State.modContext_keeperText : (s.modContext i f).keeperText = s.keeperText := by
  unfold State.modContext; split <;> rfl
@[simp] theorem State.modContext_keeperSize : (s.modContext i f).keeperSize = s.keeperSize := by
  unfold State.modContext; split <;> rfl
@[simp] theorem State.modContext_keeperCallmax : (s.modContext i f).keeperCallmax = s.keeperCallmax := by
  unfold State.modContext; split <;> rfl
@[simp] theorem State.modContext_rows : (s.modContext i f).rows = s.rows := by
  unfold State.modContext; split <;> rfl
@[simp] theorem State.modContext_unmapped : (s.modContext i f).unmapped = s.unmapped := by
  unfold State.modContext; split <;> rfl
@[simp] theorem State.modContext_destroying : (s.modContext i f).destroying = s.destroying := by
  unfold State.modContext; split <;> rfl
@[simp] theorem State.modContext_drains : (s.modContext i f).drains = s.drains := by
  unfold State.modContext; split <;> rfl
@[simp] theorem State.modContext_wdogs : (s.modContext i f).wdogs = s.wdogs := by
  unfold State.modContext; split <;> rfl
@[simp] theorem State.modContext_packets : (s.modContext i f).packets = s.packets := by
  unfold State.modContext; split <;> rfl
@[simp] theorem State.modContext_events : (s.modContext i f).events = s.events := by
  unfold State.modContext; split <;> rfl
@[simp] theorem State.modContext_time : (s.modContext i f).time = s.time := by
  unfold State.modContext; split <;> rfl
@[simp] theorem State.modContext_ramps : (s.modContext i f).ramps = s.ramps := by
  unfold State.modContext; split <;> rfl
@[simp] theorem State.modContext_art : (s.modContext i f).art = s.art := by
  unfold State.modContext; split <;> rfl
@[simp] theorem State.modContext_inb : (s.modContext i f).inb = s.inb := by
  unfold State.modContext; split <;> rfl
@[simp] theorem State.modContext_route : (s.modContext i f).route = s.route := by
  unfold State.modContext; split <;> rfl
@[simp] theorem State.modContext_linksDown : (s.modContext i f).linksDown = s.linksDown := by
  unfold State.modContext; split <;> rfl
@[simp] theorem State.modContext_hostCtl : (s.modContext i f).hostCtl = s.hostCtl := by
  unfold State.modContext; split <;> rfl
@[simp] theorem State.modContext_hostEvents : (s.modContext i f).hostEvents = s.hostEvents := by
  unfold State.modContext; split <;> rfl
@[simp] theorem State.modContext_hostUp : (s.modContext i f).hostUp = s.hostUp := by
  unfold State.modContext; split <;> rfl
@[simp] theorem State.modContext_fns : (s.modContext i f).fns = s.fns := by
  unfold State.modContext; split <;> rfl
@[simp] theorem State.modContext_ckpt : (s.modContext i f).ckpt = s.ckpt := by
  unfold State.modContext; split <;> rfl
@[simp] theorem State.modContext_ckStatus : (s.modContext i f).ckStatus = s.ckStatus := by
  unfold State.modContext; split <;> rfl
@[simp] theorem State.modContext_areq : (s.modContext i f).areq = s.areq := by
  unfold State.modContext; split <;> rfl
@[simp] theorem State.modContext_astatErr : (s.modContext i f).astatErr = s.astatErr := by
  unfold State.modContext; split <;> rfl
@[simp] theorem State.modContext_mrs : (s.modContext i f).mrs = s.mrs := by
  unfold State.modContext; split <;> rfl
@[simp] theorem State.modContext_elogBase : (s.modContext i f).elogBase = s.elogBase := by
  unfold State.modContext; split <;> rfl
@[simp] theorem State.modContext_elogHead : (s.modContext i f).elogHead = s.elogHead := by
  unfold State.modContext; split <;> rfl
@[simp] theorem State.modContext_elogWrapped : (s.modContext i f).elogWrapped = s.elogWrapped := by
  unfold State.modContext; split <;> rfl
@[simp] theorem State.modContext_retired : (s.modContext i f).retired = s.retired := by
  unfold State.modContext; split <;> rfl
@[simp] theorem State.modContext_i3cAddr : (s.modContext i f).i3cAddr = s.i3cAddr := by
  unfold State.modContext; split <;> rfl
@[simp] theorem State.modContext_boardState : (s.modContext i f).boardState = s.boardState := by
  unfold State.modContext; split <;> rfl
@[simp] theorem State.modContext_temp : (s.modContext i f).temp = s.temp := by
  unfold State.modContext; split <;> rfl
@[simp] theorem State.modContext_power : (s.modContext i f).power = s.power := by
  unfold State.modContext; split <;> rfl
@[simp] theorem State.modContext_pcap : (s.modContext i f).pcap = s.pcap := by
  unfold State.modContext; split <;> rfl
@[simp] theorem State.modContext_capInForce : (s.modContext i f).capInForce = s.capInForce := by
  unfold State.modContext; split <;> rfl
@[simp] theorem State.modContext_thermal : (s.modContext i f).thermal = s.thermal := by
  unfold State.modContext; split <;> rfl
@[simp] theorem State.modContext_bootEntry : (s.modContext i f).bootEntry = s.bootEntry := by
  unfold State.modContext; split <;> rfl
@[simp] theorem State.modContext_signets : (s.modContext i f).signets = s.signets := by
  unfold State.modContext; split <;> rfl
@[simp] theorem State.modContext_tcm : (s.modContext i f).tcm = s.tcm := by
  unfold State.modContext; split <;> rfl
@[simp] theorem State.modContext_packetHarts : (s.modContext i f).packetHarts = s.packetHarts := by
  unfold State.modContext; split <;> rfl
@[simp] theorem State.modContext_policyHart : (s.modContext i f).policyHart = s.policyHart := by
  unfold State.modContext; split <;> rfl
@[simp] theorem State.modContext_reservations : (s.modContext i f).reservations = s.reservations := by
  unfold State.modContext; split <;> rfl
@[simp] theorem State.modContext_guestCid : (s.modContext i f).guestCid = s.guestCid := by
  unfold State.modContext; split <;> rfl
@[simp] theorem State.modContext_boot : (s.modContext i f).boot = s.boot := by
  unfold State.modContext; split <;> rfl
@[simp] theorem State.modContext_busRead : (s.modContext i f).busRead = s.busRead := by
  unfold State.modContext; split <;> rfl
@[simp] theorem State.modContext_busFault : (s.modContext i f).busFault = s.busFault := by
  unfold State.modContext; split <;> rfl

end

/-! ## A free value drawn -/

section
variable (s : State) (w : Nat)

@[simp] theorem State.draw_cur : ((s.draw w).2).cur = s.cur := rfl
@[simp] theorem State.draw_issueQ : ((s.draw w).2).issueQ = s.issueQ := rfl
@[simp] theorem State.draw_agenda : ((s.draw w).2).agenda = s.agenda := rfl
@[simp] theorem State.draw_turn : ((s.draw w).2).turn = s.turn := rfl
@[simp] theorem State.draw_nextId : ((s.draw w).2).nextId = s.nextId := rfl
@[simp] theorem State.draw_mem : ((s.draw w).2).mem = s.mem := rfl
@[simp] theorem State.draw_peer : ((s.draw w).2).peer = s.peer := rfl
@[simp] theorem State.draw_peerInb : ((s.draw w).2).peerInb = s.peerInb := rfl
@[simp] theorem State.draw_stamps : ((s.draw w).2).stamps = s.stamps := rfl
@[simp] theorem State.draw_clock : ((s.draw w).2).clock = s.clock := rfl
@[simp] theorem State.draw_snaps : ((s.draw w).2).snaps = s.snaps := rfl
@[simp] theorem State.draw_contexts : ((s.draw w).2).contexts = s.contexts := rfl
@[simp] theorem State.draw_storeIrqs : ((s.draw w).2).storeIrqs = s.storeIrqs := rfl
@[simp] theorem State.draw_slices : ((s.draw w).2).slices = s.slices := rfl
@[simp] theorem State.draw_writes : ((s.draw w).2).writes = s.writes := rfl
@[simp] theorem State.draw_acks : ((s.draw w).2).acks = s.acks := rfl
@[simp] theorem State.draw_early : ((s.draw w).2).early = s.early := rfl
@[simp] theorem State.draw_loads : ((s.draw w).2).loads = s.loads := rfl
@[simp] theorem State.draw_watches : ((s.draw w).2).watches = s.watches := rfl
@[simp] theorem State.draw_peerWatches : ((s.draw w).2).peerWatches = s.peerWatches := rfl
@[simp] theorem State.draw_upartials : ((s.draw w).2).upartials = s.upartials := rfl
@[simp] theorem State.draw_l1 : ((s.draw w).2).l1 = s.l1 := rfl
@[simp] theorem State.draw_fused : ((s.draw w).2).fused = s.fused := rfl
@[simp] theorem State.draw_tlb : ((s.draw w).2).tlb = s.tlb := rfl
@[simp] theorem State.draw_utlb : ((s.draw w).2).utlb = s.utlb := rfl
@[simp] theorem State.draw_faulty : ((s.draw w).2).faulty = s.faulty := rfl
@[simp] theorem State.draw_groups : ((s.draw w).2).groups = s.groups := rfl
@[simp] theorem State.draw_teams : ((s.draw w).2).teams = s.teams := rfl
@[simp] theorem State.draw_gangs : ((s.draw w).2).gangs = s.gangs := rfl
@[simp] theorem State.draw_launches : ((s.draw w).2).launches = s.launches := rfl
@[simp] theorem State.draw_engines : ((s.draw w).2).engines = s.engines := rfl
@[simp] theorem State.draw_jobs : ((s.draw w).2).jobs = s.jobs := rfl
@[simp] theorem State.draw_cores : ((s.draw w).2).cores = s.cores := rfl
@[simp] theorem State.draw_tus : ((s.draw w).2).tus = s.tus := rfl
@[simp] theorem State.draw_stopped : ((s.draw w).2).stopped = s.stopped := rfl
@[simp] theorem State.draw_drained : ((s.draw w).2).drained = s.drained := rfl
@[simp] theorem State.draw_savedTeams : ((s.draw w).2).savedTeams = s.savedTeams := rfl
@[simp] theorem State.draw_keeperText : ((s.draw w).2).keeperText = s.keeperText := rfl
@[simp] theorem State.draw_keeperSize : ((s.draw w).2).keeperSize = s.keeperSize := rfl
@[simp] theorem State.draw_keeperCallmax : ((s.draw w).2).keeperCallmax = s.keeperCallmax := rfl
@[simp] theorem State.draw_rows : ((s.draw w).2).rows = s.rows := rfl
@[simp] theorem State.draw_unmapped : ((s.draw w).2).unmapped = s.unmapped := rfl
@[simp] theorem State.draw_destroying : ((s.draw w).2).destroying = s.destroying := rfl
@[simp] theorem State.draw_drains : ((s.draw w).2).drains = s.drains := rfl
@[simp] theorem State.draw_wdogs : ((s.draw w).2).wdogs = s.wdogs := rfl
@[simp] theorem State.draw_packets : ((s.draw w).2).packets = s.packets := rfl
@[simp] theorem State.draw_events : ((s.draw w).2).events = s.events := rfl
@[simp] theorem State.draw_time : ((s.draw w).2).time = s.time := rfl
@[simp] theorem State.draw_ramps : ((s.draw w).2).ramps = s.ramps := rfl
@[simp] theorem State.draw_art : ((s.draw w).2).art = s.art := rfl
@[simp] theorem State.draw_inb : ((s.draw w).2).inb = s.inb := rfl
@[simp] theorem State.draw_route : ((s.draw w).2).route = s.route := rfl
@[simp] theorem State.draw_linksDown : ((s.draw w).2).linksDown = s.linksDown := rfl
@[simp] theorem State.draw_hostCtl : ((s.draw w).2).hostCtl = s.hostCtl := rfl
@[simp] theorem State.draw_hostEvents : ((s.draw w).2).hostEvents = s.hostEvents := rfl
@[simp] theorem State.draw_hostUp : ((s.draw w).2).hostUp = s.hostUp := rfl
@[simp] theorem State.draw_fns : ((s.draw w).2).fns = s.fns := rfl
@[simp] theorem State.draw_ckpt : ((s.draw w).2).ckpt = s.ckpt := rfl
@[simp] theorem State.draw_ckStatus : ((s.draw w).2).ckStatus = s.ckStatus := rfl
@[simp] theorem State.draw_areq : ((s.draw w).2).areq = s.areq := rfl
@[simp] theorem State.draw_astatErr : ((s.draw w).2).astatErr = s.astatErr := rfl
@[simp] theorem State.draw_mrs : ((s.draw w).2).mrs = s.mrs := rfl
@[simp] theorem State.draw_elogBase : ((s.draw w).2).elogBase = s.elogBase := rfl
@[simp] theorem State.draw_elogHead : ((s.draw w).2).elogHead = s.elogHead := rfl
@[simp] theorem State.draw_elogWrapped : ((s.draw w).2).elogWrapped = s.elogWrapped := rfl
@[simp] theorem State.draw_retired : ((s.draw w).2).retired = s.retired := rfl
@[simp] theorem State.draw_i3cAddr : ((s.draw w).2).i3cAddr = s.i3cAddr := rfl
@[simp] theorem State.draw_boardState : ((s.draw w).2).boardState = s.boardState := rfl
@[simp] theorem State.draw_temp : ((s.draw w).2).temp = s.temp := rfl
@[simp] theorem State.draw_power : ((s.draw w).2).power = s.power := rfl
@[simp] theorem State.draw_pcap : ((s.draw w).2).pcap = s.pcap := rfl
@[simp] theorem State.draw_capInForce : ((s.draw w).2).capInForce = s.capInForce := rfl
@[simp] theorem State.draw_thermal : ((s.draw w).2).thermal = s.thermal := rfl
@[simp] theorem State.draw_bootEntry : ((s.draw w).2).bootEntry = s.bootEntry := rfl
@[simp] theorem State.draw_signets : ((s.draw w).2).signets = s.signets := rfl
@[simp] theorem State.draw_tcm : ((s.draw w).2).tcm = s.tcm := rfl
@[simp] theorem State.draw_packetHarts : ((s.draw w).2).packetHarts = s.packetHarts := rfl
@[simp] theorem State.draw_policyHart : ((s.draw w).2).policyHart = s.policyHart := rfl
@[simp] theorem State.draw_reservations : ((s.draw w).2).reservations = s.reservations := rfl
@[simp] theorem State.draw_guestCid : ((s.draw w).2).guestCid = s.guestCid := rfl
@[simp] theorem State.draw_boot : ((s.draw w).2).boot = s.boot := rfl
@[simp] theorem State.draw_busRead : ((s.draw w).2).busRead = s.busRead := rfl
@[simp] theorem State.draw_busFault : ((s.draw w).2).busFault = s.busFault := rfl

end

/-! ## A vector register -/

section
variable (g : Group) (a j : Nat) (x : Word)

@[simp] theorem Group.wv_core : (g.wv a j x).core = g.core := rfl
@[simp] theorem Group.wv_slot : (g.wv a j x).slot = g.slot := rfl
@[simp] theorem Group.wv_team : (g.wv a j x).team = g.team := rfl
@[simp] theorem Group.wv_groupId : (g.wv a j x).groupId = g.groupId := rfl
@[simp] theorem Group.wv_roleId : (g.wv a j x).roleId = g.roleId := rfl
@[simp] theorem Group.wv_roleGrp : (g.wv a j x).roleGrp = g.roleGrp := rfl
@[simp] theorem Group.wv_lanes : (g.wv a j x).lanes = g.lanes := rfl
@[simp] theorem Group.wv_alloc : (g.wv a j x).alloc = g.alloc := rfl
@[simp] theorem Group.wv_wbase : (g.wv a j x).wbase = g.wbase := rfl
@[simp] theorem Group.wv_s : (g.wv a j x).s = g.s := rfl
@[simp] theorem Group.wv_ntiles : (g.wv a j x).ntiles = g.ntiles := rfl
@[simp] theorem Group.wv_naccs : (g.wv a j x).naccs = g.naccs := rfl
@[simp] theorem Group.wv_t : (g.wv a j x).t = g.t := rfl
@[simp] theorem Group.wv_m : (g.wv a j x).m = g.m := rfl
@[simp] theorem Group.wv_g : (g.wv a j x).g = g.g := rfl
@[simp] theorem Group.wv_q : (g.wv a j x).q = g.q := rfl
@[simp] theorem Group.wv_n : (g.wv a j x).n = g.n := rfl
@[simp] theorem Group.wv_lc : (g.wv a j x).lc = g.lc := rfl
@[simp] theorem Group.wv_fpctl : (g.wv a j x).fpctl = g.fpctl := rfl
@[simp] theorem Group.wv_burst : (g.wv a j x).burst = g.burst := rfl
@[simp] theorem Group.wv_clasps : (g.wv a j x).clasps = g.clasps := rfl
@[simp] theorem Group.wv_txn : (g.wv a j x).txn = g.txn := rfl
@[simp] theorem Group.wv_relScope : (g.wv a j x).relScope = g.relScope := rfl
@[simp] theorem Group.wv_asked : (g.wv a j x).asked = g.asked := rfl
@[simp] theorem Group.wv_saw : (g.wv a j x).saw = g.saw := rfl
@[simp] theorem Group.wv_ended : (g.wv a j x).ended = g.ended := rfl

end

/-! ## A register pair -/

section
variable (g : Group) (a j : Nat) (x : DWord)

@[simp] theorem Group.wv2_core : (g.wv2 a j x).core = g.core := rfl
@[simp] theorem Group.wv2_slot : (g.wv2 a j x).slot = g.slot := rfl
@[simp] theorem Group.wv2_team : (g.wv2 a j x).team = g.team := rfl
@[simp] theorem Group.wv2_groupId : (g.wv2 a j x).groupId = g.groupId := rfl
@[simp] theorem Group.wv2_roleId : (g.wv2 a j x).roleId = g.roleId := rfl
@[simp] theorem Group.wv2_roleGrp : (g.wv2 a j x).roleGrp = g.roleGrp := rfl
@[simp] theorem Group.wv2_lanes : (g.wv2 a j x).lanes = g.lanes := rfl
@[simp] theorem Group.wv2_alloc : (g.wv2 a j x).alloc = g.alloc := rfl
@[simp] theorem Group.wv2_wbase : (g.wv2 a j x).wbase = g.wbase := rfl
@[simp] theorem Group.wv2_s : (g.wv2 a j x).s = g.s := rfl
@[simp] theorem Group.wv2_ntiles : (g.wv2 a j x).ntiles = g.ntiles := rfl
@[simp] theorem Group.wv2_naccs : (g.wv2 a j x).naccs = g.naccs := rfl
@[simp] theorem Group.wv2_t : (g.wv2 a j x).t = g.t := rfl
@[simp] theorem Group.wv2_m : (g.wv2 a j x).m = g.m := rfl
@[simp] theorem Group.wv2_g : (g.wv2 a j x).g = g.g := rfl
@[simp] theorem Group.wv2_q : (g.wv2 a j x).q = g.q := rfl
@[simp] theorem Group.wv2_n : (g.wv2 a j x).n = g.n := rfl
@[simp] theorem Group.wv2_lc : (g.wv2 a j x).lc = g.lc := rfl
@[simp] theorem Group.wv2_fpctl : (g.wv2 a j x).fpctl = g.fpctl := rfl
@[simp] theorem Group.wv2_burst : (g.wv2 a j x).burst = g.burst := rfl
@[simp] theorem Group.wv2_clasps : (g.wv2 a j x).clasps = g.clasps := rfl
@[simp] theorem Group.wv2_txn : (g.wv2 a j x).txn = g.txn := rfl
@[simp] theorem Group.wv2_relScope : (g.wv2 a j x).relScope = g.relScope := rfl
@[simp] theorem Group.wv2_asked : (g.wv2 a j x).asked = g.asked := rfl
@[simp] theorem Group.wv2_saw : (g.wv2 a j x).saw = g.saw := rfl
@[simp] theorem Group.wv2_ended : (g.wv2 a j x).ended = g.ended := rfl

end

/-! ## A uniform register -/

section
variable (g : Group) (n : Nat) (x : DWord)

@[simp] theorem Group.ws_core : (g.ws n x).core = g.core := by
  unfold Group.ws; split <;> rfl
@[simp] theorem Group.ws_slot : (g.ws n x).slot = g.slot := by
  unfold Group.ws; split <;> rfl
@[simp] theorem Group.ws_team : (g.ws n x).team = g.team := by
  unfold Group.ws; split <;> rfl
@[simp] theorem Group.ws_groupId : (g.ws n x).groupId = g.groupId := by
  unfold Group.ws; split <;> rfl
@[simp] theorem Group.ws_roleId : (g.ws n x).roleId = g.roleId := by
  unfold Group.ws; split <;> rfl
@[simp] theorem Group.ws_roleGrp : (g.ws n x).roleGrp = g.roleGrp := by
  unfold Group.ws; split <;> rfl
@[simp] theorem Group.ws_lanes : (g.ws n x).lanes = g.lanes := by
  unfold Group.ws; split <;> rfl
@[simp] theorem Group.ws_alloc : (g.ws n x).alloc = g.alloc := by
  unfold Group.ws; split <;> rfl
@[simp] theorem Group.ws_wbase : (g.ws n x).wbase = g.wbase := by
  unfold Group.ws; split <;> rfl
@[simp] theorem Group.ws_v : (g.ws n x).v = g.v := by
  unfold Group.ws; split <;> rfl
@[simp] theorem Group.ws_ntiles : (g.ws n x).ntiles = g.ntiles := by
  unfold Group.ws; split <;> rfl
@[simp] theorem Group.ws_naccs : (g.ws n x).naccs = g.naccs := by
  unfold Group.ws; split <;> rfl
@[simp] theorem Group.ws_t : (g.ws n x).t = g.t := by
  unfold Group.ws; split <;> rfl
@[simp] theorem Group.ws_m : (g.ws n x).m = g.m := by
  unfold Group.ws; split <;> rfl
@[simp] theorem Group.ws_g : (g.ws n x).g = g.g := by
  unfold Group.ws; split <;> rfl
@[simp] theorem Group.ws_q : (g.ws n x).q = g.q := by
  unfold Group.ws; split <;> rfl
@[simp] theorem Group.ws_n : (g.ws n x).n = g.n := by
  unfold Group.ws; split <;> rfl
@[simp] theorem Group.ws_lc : (g.ws n x).lc = g.lc := by
  unfold Group.ws; split <;> rfl
@[simp] theorem Group.ws_fpctl : (g.ws n x).fpctl = g.fpctl := by
  unfold Group.ws; split <;> rfl
@[simp] theorem Group.ws_burst : (g.ws n x).burst = g.burst := by
  unfold Group.ws; split <;> rfl
@[simp] theorem Group.ws_clasps : (g.ws n x).clasps = g.clasps := by
  unfold Group.ws; split <;> rfl
@[simp] theorem Group.ws_txn : (g.ws n x).txn = g.txn := by
  unfold Group.ws; split <;> rfl
@[simp] theorem Group.ws_relScope : (g.ws n x).relScope = g.relScope := by
  unfold Group.ws; split <;> rfl
@[simp] theorem Group.ws_asked : (g.ws n x).asked = g.asked := by
  unfold Group.ws; split <;> rfl
@[simp] theorem Group.ws_saw : (g.ws n x).saw = g.saw := by
  unfold Group.ws; split <;> rfl
@[simp] theorem Group.ws_ended : (g.ws n x).ended = g.ended := by
  unfold Group.ws; split <;> rfl

end

/-! ## One lane -/

section
variable (g : Group) (j : Nat) (f : Lane → Lane)

@[simp] theorem Group.modLane_core : (g.modLane j f).core = g.core := rfl
@[simp] theorem Group.modLane_slot : (g.modLane j f).slot = g.slot := rfl
@[simp] theorem Group.modLane_team : (g.modLane j f).team = g.team := rfl
@[simp] theorem Group.modLane_groupId : (g.modLane j f).groupId = g.groupId := rfl
@[simp] theorem Group.modLane_roleId : (g.modLane j f).roleId = g.roleId := rfl
@[simp] theorem Group.modLane_roleGrp : (g.modLane j f).roleGrp = g.roleGrp := rfl
@[simp] theorem Group.modLane_alloc : (g.modLane j f).alloc = g.alloc := rfl
@[simp] theorem Group.modLane_wbase : (g.modLane j f).wbase = g.wbase := rfl
@[simp] theorem Group.modLane_v : (g.modLane j f).v = g.v := rfl
@[simp] theorem Group.modLane_s : (g.modLane j f).s = g.s := rfl
@[simp] theorem Group.modLane_ntiles : (g.modLane j f).ntiles = g.ntiles := rfl
@[simp] theorem Group.modLane_naccs : (g.modLane j f).naccs = g.naccs := rfl
@[simp] theorem Group.modLane_t : (g.modLane j f).t = g.t := rfl
@[simp] theorem Group.modLane_m : (g.modLane j f).m = g.m := rfl
@[simp] theorem Group.modLane_g : (g.modLane j f).g = g.g := rfl
@[simp] theorem Group.modLane_q : (g.modLane j f).q = g.q := rfl
@[simp] theorem Group.modLane_n : (g.modLane j f).n = g.n := rfl
@[simp] theorem Group.modLane_lc : (g.modLane j f).lc = g.lc := rfl
@[simp] theorem Group.modLane_fpctl : (g.modLane j f).fpctl = g.fpctl := rfl
@[simp] theorem Group.modLane_burst : (g.modLane j f).burst = g.burst := rfl
@[simp] theorem Group.modLane_clasps : (g.modLane j f).clasps = g.clasps := rfl
@[simp] theorem Group.modLane_txn : (g.modLane j f).txn = g.txn := rfl
@[simp] theorem Group.modLane_relScope : (g.modLane j f).relScope = g.relScope := rfl
@[simp] theorem Group.modLane_asked : (g.modLane j f).asked = g.asked := rfl
@[simp] theorem Group.modLane_saw : (g.modLane j f).saw = g.saw := rfl
@[simp] theorem Group.modLane_ended : (g.modLane j f).ended = g.ended := rfl

end

/-! ## Some lanes -/

section
variable (g : Group) (m : Word) (f : Nat → Lane → Lane)

@[simp] theorem Group.modLanes_core : (g.modLanes m f).core = g.core := rfl
@[simp] theorem Group.modLanes_slot : (g.modLanes m f).slot = g.slot := rfl
@[simp] theorem Group.modLanes_team : (g.modLanes m f).team = g.team := rfl
@[simp] theorem Group.modLanes_groupId : (g.modLanes m f).groupId = g.groupId := rfl
@[simp] theorem Group.modLanes_roleId : (g.modLanes m f).roleId = g.roleId := rfl
@[simp] theorem Group.modLanes_roleGrp : (g.modLanes m f).roleGrp = g.roleGrp := rfl
@[simp] theorem Group.modLanes_alloc : (g.modLanes m f).alloc = g.alloc := rfl
@[simp] theorem Group.modLanes_wbase : (g.modLanes m f).wbase = g.wbase := rfl
@[simp] theorem Group.modLanes_v : (g.modLanes m f).v = g.v := rfl
@[simp] theorem Group.modLanes_s : (g.modLanes m f).s = g.s := rfl
@[simp] theorem Group.modLanes_ntiles : (g.modLanes m f).ntiles = g.ntiles := rfl
@[simp] theorem Group.modLanes_naccs : (g.modLanes m f).naccs = g.naccs := rfl
@[simp] theorem Group.modLanes_t : (g.modLanes m f).t = g.t := rfl
@[simp] theorem Group.modLanes_m : (g.modLanes m f).m = g.m := rfl
@[simp] theorem Group.modLanes_g : (g.modLanes m f).g = g.g := rfl
@[simp] theorem Group.modLanes_q : (g.modLanes m f).q = g.q := rfl
@[simp] theorem Group.modLanes_n : (g.modLanes m f).n = g.n := rfl
@[simp] theorem Group.modLanes_lc : (g.modLanes m f).lc = g.lc := rfl
@[simp] theorem Group.modLanes_fpctl : (g.modLanes m f).fpctl = g.fpctl := rfl
@[simp] theorem Group.modLanes_burst : (g.modLanes m f).burst = g.burst := rfl
@[simp] theorem Group.modLanes_clasps : (g.modLanes m f).clasps = g.clasps := rfl
@[simp] theorem Group.modLanes_txn : (g.modLanes m f).txn = g.txn := rfl
@[simp] theorem Group.modLanes_relScope : (g.modLanes m f).relScope = g.relScope := rfl
@[simp] theorem Group.modLanes_asked : (g.modLanes m f).asked = g.asked := rfl
@[simp] theorem Group.modLanes_saw : (g.modLanes m f).saw = g.saw := rfl
@[simp] theorem Group.modLanes_ended : (g.modLanes m f).ended = g.ended := rfl

end

/-! ## A predicate -/

section
variable (l : Lane) (n : Nat) (b : Bool)

@[simp] theorem Lane.setPred_st : (l.setPred n b).st = l.st := by
  unfold Lane.setPred; split <;> rfl
@[simp] theorem Lane.setPred_pc : (l.setPred n b).pc = l.pc := by
  unfold Lane.setPred; split <;> rfl
@[simp] theorem Lane.setPred_flags : (l.setPred n b).flags = l.flags := by
  unfold Lane.setPred; split <;> rfl
@[simp] theorem Lane.setPred_yield : (l.setPred n b).yield = l.yield := by
  unfold Lane.setPred; split <;> rfl
@[simp] theorem Lane.setPred_wait : (l.setPred n b).wait = l.wait := by
  unfold Lane.setPred; split <;> rfl
@[simp] theorem Lane.setPred_rets : (l.setPred n b).rets = l.rets := by
  unfold Lane.setPred; split <;> rfl
@[simp] theorem Lane.setPred_seq : (l.setPred n b).seq = l.seq := by
  unfold Lane.setPred; split <;> rfl
@[simp] theorem Lane.setPred_wbits : (l.setPred n b).wbits = l.wbits := by
  unfold Lane.setPred; split <;> rfl
@[simp] theorem Lane.setPred_after : (l.setPred n b).after = l.after := by
  unfold Lane.setPred; split <;> rfl
@[simp] theorem Lane.setPred_issue : (l.setPred n b).issue = l.issue := by
  unfold Lane.setPred; split <;> rfl
@[simp] theorem Lane.setPred_svc : (l.setPred n b).svc = l.svc := by
  unfold Lane.setPred; split <;> rfl

end

/-! ## Flags -/

section
variable (l : Lane) (f : BitVec 5)

@[simp] theorem Lane.setFlags_st : (l.setFlags f).st = l.st := rfl
@[simp] theorem Lane.setFlags_pc : (l.setFlags f).pc = l.pc := rfl
@[simp] theorem Lane.setFlags_preds : (l.setFlags f).preds = l.preds := rfl
@[simp] theorem Lane.setFlags_yield : (l.setFlags f).yield = l.yield := rfl
@[simp] theorem Lane.setFlags_wait : (l.setFlags f).wait = l.wait := rfl
@[simp] theorem Lane.setFlags_rets : (l.setFlags f).rets = l.rets := rfl
@[simp] theorem Lane.setFlags_seq : (l.setFlags f).seq = l.seq := rfl
@[simp] theorem Lane.setFlags_wbits : (l.setFlags f).wbits = l.wbits := rfl
@[simp] theorem Lane.setFlags_after : (l.setFlags f).after = l.after := rfl
@[simp] theorem Lane.setFlags_issue : (l.setFlags f).issue = l.issue := rfl
@[simp] theorem Lane.setFlags_svc : (l.setFlags f).svc = l.svc := rfl

end

/-! ## Registers -/

@[simp] theorem Group.wv_rv (g : Group) (a b j k : Nat) (x : Word) (hj : j < 32) (hk : k < 32) :
    (g.wv a j x).rv b k = if b = a ∧ k = j then x else g.rv b k := by
  have h : (32 * b + k = 32 * a + j) ↔ (b = a ∧ k = j) := by omega
  simp only [Group.rv, Group.wv, sget_sset, h]

@[simp] theorem Group.ws_rs (g : Group) (n m : Nat) (x : DWord) :
    (g.ws n x).rs m = if m = n ∧ n ≠ 63 then x else g.rs m := by
  by_cases hn : n = 63
  · simp [Group.ws, hn]
  · by_cases hm : m = 63
    · have : m ≠ n := by omega
      simp [Group.rs, hn, hm]; omega
    · by_cases e : m = n <;> simp [Group.ws, Group.rs, hn, hm, e]

@[simp] theorem Group.wv_rs (g : Group) (a j n : Nat) (x : Word) : (g.wv a j x).rs n = g.rs n := rfl
@[simp] theorem Group.ws_rv (g : Group) (n a j : Nat) (x : DWord) : (g.ws n x).rv a j = g.rv a j := by
  simp [Group.rv]
@[simp] theorem Group.modLane_rv (g : Group) (a j k : Nat) (f : Lane → Lane) : (g.modLane k f).rv a j = g.rv a j := rfl
@[simp] theorem Group.modLanes_rv (g : Group) (a j : Nat) (m : Word) (f : Nat → Lane → Lane) :
    (g.modLanes m f).rv a j = g.rv a j := rfl
@[simp] theorem Group.modLane_rs (g : Group) (n k : Nat) (f : Lane → Lane) : (g.modLane k f).rs n = g.rs n := rfl
@[simp] theorem Group.modLanes_rs (g : Group) (n : Nat) (m : Word) (f : Nat → Lane → Lane) :
    (g.modLanes m f).rs n = g.rs n := rfl

/-! ## Lists that an update walks -/

theorem updAll_getD {α : Type} (f : Nat → α → α) (d : α) : ∀ (l : List α) (n j : Nat),
    (updAll f n l).getD j d = if j < l.length then f (n + j) (l.getD j d) else d
  | [], n, j => by simp [updAll]
  | a :: r, n, 0 => by simp [updAll]
  | a :: r, n, j + 1 => by
    have := updAll_getD f d r (n + 1) j
    simp only [updAll, List.getD_cons_succ, List.length_cons, Nat.add_lt_add_iff_right]
    rw [this]
    have e : n + 1 + j = n + (j + 1) := by omega
    rw [e]

theorem upd_getD {α : Type} (f : α → α) (d : α) : ∀ (l : List α) (n j : Nat),
    (upd l n f).getD j d = if j = n ∧ j < l.length then f (l.getD j d) else l.getD j d
  | [], n, j => by simp [upd]
  | a :: r, 0, 0 => by simp [upd]
  | a :: r, 0, j + 1 => by simp [upd]
  | a :: r, n + 1, 0 => by simp [upd]
  | a :: r, n + 1, j + 1 => by
    have := upd_getD f d r n j
    simp only [upd, List.getD_cons_succ, List.length_cons, Nat.add_lt_add_iff_right, Nat.add_right_cancel_iff]
    exact this

@[simp] theorem updAll_length {α : Type} (f : Nat → α → α) : ∀ (n : Nat) (l : List α), (updAll f n l).length = l.length
  | _, [] => rfl
  | n, a :: r => by simp [updAll, updAll_length f (n + 1) r]

@[simp] theorem upd_length {α : Type} (f : α → α) : ∀ (l : List α) (n : Nat), (upd l n f).length = l.length
  | [], _ => rfl
  | a :: r, 0 => rfl
  | a :: r, n + 1 => by simp [upd, upd_length f r n]

/-- A lane after an update of the lanes of a mask. -/
theorem Group.modLanes_lane (g : Group) (m : Word) (f : Nat → Lane → Lane) (j : Nat) (h : j < g.lanes.length) :
    (g.modLanes m f).lane j = if m.getLsbD j then f j (g.lane j) else g.lane j := by
  simp only [Group.modLanes, Group.lane]
  rw [updAll_getD, if_pos h, Nat.zero_add]

/-- The group in a slot after an update of it, and of another slot. -/
theorem State.modGroup_group? (s : State) (c l c' l' : Nat) (f : Group → Group)
    (h : ∀ g, (f g).core = g.core ∧ (f g).slot = g.slot) :
    (s.modGroup c l f).group? c' l'
      = (s.group? c' l').map (fun g => if g.at c l then f g else g) := by
  unfold State.modGroup State.group?
  simp only []
  induction s.groups with
  | nil => rfl
  | cons g r ih =>
    have hk : (if g.at c l = true then f g else g).at c' l' = g.at c' l' := by
      split
      · simp [Group.at, (h g).1, (h g).2]
      · rfl
    simp only [List.map_cons, List.find?_cons, hk]
    cases g.at c' l' with
    | true => rfl
    | false => exact ih

theorem State.group?_at (s : State) (c l : Nat) (g : Group) (h : s.group? c l = some g) : g.core = c ∧ g.slot = l := by
  have := List.find?_some h
  simpa [Group.at] using this

end Sys2Proof.Machine
end

