-- ==== Sys2Proof/Laws/Ops.lean ====
section
/-! SUPPORT. Laws of the shared operations of Ops.lean and Operands.lean: one lemma for each, saying what it can do. -/

namespace Sys2Proof.Machine

open Host (Outcome)

/-! ## One group -/

/-- An update of a group that keeps its place changes nothing outside it. -/
theorem State.modGroup_only (s : State) (c l : Nat) (f : Group → Group) (g : Group) (hg : s.group? c l = some g)
    (h : ∀ g, (f g).core = g.core ∧ (f g).slot = g.slot) : s.OnlyGroup (s.modGroup c l f) c l (f g) := by
  have hat : g.at c l = true := by
    obtain ⟨h1, h2⟩ := State.group?_at s c l g hg
    simp [Group.at, h1, h2]
  refine ⟨?_, ?_, rfl⟩
  · rw [State.modGroup_group? s c l c l f h, hg]
    simp [hat]
  · intro c' l' hne
    rw [State.modGroup_group? s c l c' l' f h]
    cases hg' : s.group? c' l' with
    | none => rfl
    | some g' =>
      obtain ⟨h1, h2⟩ := State.group?_at s c' l' g' hg'
      have : g'.at c l = false := by
        simp only [Group.at, h1, h2, Bool.and_eq_false_iff, decide_eq_false_iff_not]
        by_contra hh
        simp only [not_or, not_not] at hh
        exact hne ⟨hh.1, hh.2⟩
      simp [this]

/-- Two updates of one group in a row. -/
theorem State.OnlyGroup.trans {s t u : State} {c l : Nat} {g h : Group} (a : s.OnlyGroup t c l g) (b : t.OnlyGroup u c l h) :
    s.OnlyGroup u c l h := by
  refine ⟨b.here, fun c' l' hne => (b.others c' l' hne).trans (a.others c' l' hne), ?_⟩
  have hb := b.rest
  have ha := a.rest
  rw [← hb] at ha
  exact ha

theorem State.OnlyGroup.refl (s : State) (c l : Nat) (g : Group) (h : s.group? c l = some g) : s.OnlyGroup s c l g :=
  ⟨h, fun _ _ _ => rfl, rfl⟩

/-- Whatever only reads outside the groups is unchanged. -/
theorem State.OnlyGroup.teams {s t : State} {c l : Nat} {g : Group} (a : s.OnlyGroup t c l g) : t.teams = s.teams := by
  have := congrArg State.teams a.rest; exact this
theorem State.OnlyGroup.cores {s t : State} {c l : Nat} {g : Group} (a : s.OnlyGroup t c l g) : t.cores = s.cores := by
  have := congrArg State.cores a.rest; exact this
theorem State.OnlyGroup.mem {s t : State} {c l : Nat} {g : Group} (a : s.OnlyGroup t c l g) : t.mem = s.mem := by
  have := congrArg State.mem a.rest; exact this

/-! ## Reading (R328) -/

/-- Where no sector has an error that retrying mends, a reading that goes on changes nothing. -/
theorem State.noteReads_eq (s : State) (l : List Nat) (h : ∀ e ∈ s.faulty, e.2 = 3) : s.noteReads l = s := by
  unfold State.noteReads
  induction l with
  | nil => rfl
  | cons a l ih =>
    have none : s.faulty.filter (fun e => e.1 = a / 32 && e.2 ≠ 3) = [] := by
      rw [List.filter_eq_nil_iff]
      intro e he
      simp [h e he]
    rw [List.foldl_cons, none]
    exact ih

/-! ## Completing (R155, R164) -/

/-- The lanes that complete sequentially go on where the back-edge check sends them. -/
theorem State.sequential_only (s : State) (c l : Nat) (m : Word) (e : DWord) (g : Group) (hg : s.group? c l = some g)
    (hm : m ≠ 0) :
    s.OnlyGroup (s.sequential c l m e) c l
      (({ g with lc := g.loopsAt e } : Group).modLanes m (fun _ x => x.resumed (s.runState c l) (g.goesTo e))) := by
  unfold State.sequential
  rw [if_neg hm, hg]
  have h1 := State.modGroup_only s c l (fun g' => { g' with lc := g.loopsAt e }) g hg (fun _ => ⟨rfl, rfl⟩)
  have hr : (s.modGroup c l (fun g' => { g' with lc := g.loopsAt e })).runState c l = s.runState c l := by
    unfold State.runState State.claimPending
    rw [h1.here, hg]
    simp only [Option.bind_some, State.teamOf]
    rfl
  have h2 := State.modGroup_only _ c l
    (fun g' => g'.modLanes m (fun _ x => x.resumed (s.runState c l) (g.goesTo e))) _ h1.here (fun _ => ⟨rfl, rfl⟩)
  have h3 := h1.trans h2
  unfold State.moveLanes
  rw [← hr] at h3 ⊢
  exact h3

/-- Completing where stepping is off. -/
theorem State.complete_only (s : State) (c l : Nat) (m : Word) (e : DWord) (g : Group) (hg : s.group? c l = some g)
    (hm : m ≠ 0) (hs : ¬(l < 15 ∧ (s.coreBlock c).stepMask.getLsbD l = true)) :
    s.OnlyGroup (s.complete c l m e) c l
      (({ g with lc := g.loopsAt e } : Group).modLanes m (fun _ x => x.resumed (s.runState c l) (g.goesTo e))) := by
  have h := State.sequential_only s c l m e g hg hm
  unfold State.complete State.stepTrap
  have hc : (s.sequential c l m e).coreBlock c = s.coreBlock c := by
    unfold State.coreBlock; rw [h.cores]
  rw [hc, if_neg hs]
  exact h

/-- The group of a path stands where it issues. -/
theorem State.path_group (s : State) (x : Exts) (gd : BitVec 4) (p : Path) (h : s.pathG x gd = some p) :
    s.group? p.core p.slot = some p.g := by
  unfold State.pathG at h
  cases hg : s.group? s.cur.core s.cur.slot with
  | none => simp [hg] at h
  | some g =>
    simp only [hg, Option.map_some, Option.some.injEq] at h
    subst h
    exact hg

/-- Lanes that complete sequentially resume. -/
theorem State.complete_resumes (s : State) (c l : Nat) (m : Word) (e : DWord) (h : Group) (hg : s.group? c l = some h)
    (hw : h.lanes.length = 32) (hm : m ≠ 0) (hs : ¬(l < 15 ∧ (s.coreBlock c).stepMask.getLsbD l = true)) :
    s.Resumes (s.complete c l m e) c l m e h := by
  refine ⟨_, State.complete_only s c l m e h hg hm hs, rfl, ?_, rfl⟩
  intro j hj
  rw [Group.modLanes_lane _ _ _ _ (by simpa [hw] using hj)]
  rfl

/-- Where an instruction has changed nothing outside one group, brought to `h`, completing it completes the path. -/
theorem State.goes_of (s s1 : State) (x : Exts) (gd : BitVec 4) (p : Path) (h : Group) (hi : s.Issues x gd p)
    (ho : s.OnlyGroup s1 p.core p.slot h) (hteam : h.team = p.g.team) (hlen : h.lanes.length = 32) :
    s.Goes (s1.complete p.core p.slot p.I p.next) p h := by
  have hg := State.path_group s x gd p hi.path
  have hs1 : ¬(p.slot < 15 ∧ (s1.coreBlock p.core).stepMask.getLsbD p.slot = true) := by
    unfold State.coreBlock; rw [ho.cores]; exact hi.free
  obtain ⟨g', h1, h2, h3, h4⟩ := State.complete_resumes s1 p.core p.slot p.I p.next h ho.here hlen hi.lanes hs1
  have hteams : s1.team? = s.team? := by funext i; unfold State.team?; rw [ho.teams]
  have hrun : s1.runState p.core p.slot = s.runState p.core p.slot := by
    unfold State.runState State.claimPending
    rw [ho.here, hg]
    simp only [Option.bind_some, State.teamOf, hteam]
    rw [show (fun a => s1.team? a) = fun a => s.team? a from hteams]
    rfl
  exact ⟨g', ho.trans h1, h2, fun j hj => hrun ▸ h3 j hj, h4⟩

/-- The mask of a test holds the lanes that pass it. -/
theorem maskOf_getLsbD (f : Nat → Bool) (j : Nat) : (maskOf f).getLsbD j = (decide (j < 32) && f j) := by
  have gen : ∀ (l : List Nat) (m : Word),
      (l.foldl (fun m j => if f j then m ||| (1 <<< j : Word) else m) m).getLsbD j
        = (m.getLsbD j || (decide (j < 32) && (l.contains j && f j))) := by
    intro l
    induction l with
    | nil => intro m; simp
    | cons a r ih =>
      intro m
      rw [List.foldl_cons, ih]
      by_cases ha : f a = true
      · rw [if_pos ha]
        have h1 : (BitVec.ofNat 32 (1 <<< a)).getLsbD j = (decide (j < 32) && decide (a = j)) := by
          rw [BitVec.getLsbD_ofNat, Nat.one_shiftLeft, Nat.testBit_two_pow]
        show ((m ||| BitVec.ofNat 32 (1 <<< a)).getLsbD j || _) = _
        rw [BitVec.getLsbD_or, h1]
        by_cases hj : j = a
        · subst hj; by_cases hlt : j < 32 <;> simp [hlt, ha]
        · simp [hj, Ne.symm hj]
      · rw [if_neg ha]
        by_cases hj : j = a
        · subst hj; simp [show f j = false by simpa using ha]
        · simp [hj]
  unfold maskOf
  rw [gen]
  by_cases hj : j < 32 <;> simp [hj]

/-- The lanes of a mask. -/
theorem mem_lanesOf (m : Word) (j : Nat) : j ∈ lanesOf m ↔ j < 32 ∧ m.getLsbD j = true := by
  simp [lanesOf]

/-- They are listed once each. -/
theorem nodup_lanesOf (m : Word) : (lanesOf m).Nodup := List.nodup_range.filter _

/-- The lanes L of a path are among its issuing lanes. -/
theorem State.path_sub (s : State) (x : Exts) (gd : BitVec 4) (p : Path) (h : s.pathG x gd = some p) (j : Nat)
    (hj : p.I.getLsbD j = false) : p.L.getLsbD j = false := by
  unfold State.pathG at h
  cases hg : s.group? s.cur.core s.cur.slot with
  | none => simp [hg] at h
  | some g =>
    simp only [hg, Option.map_some, Option.some.injEq] at h
    subst h
    simp only at hj ⊢
    rw [maskOf_getLsbD]
    simp [hj]

/-- An instruction that touches nothing but its group: it has its effect where L is not empty, and every issuing lane
goes on. -/
theorem State.plain_goes (s : State) (x : Exts) (regs : List (Nat × Nat)) (f : Group → Word → Group) (p : Path)
    (hi : s.Issues x (Exts.guard x) p) (hr : p.L = 0 ∨ p.g.hasRegs regs = true)
    (hf : ∀ g, (f g p.L).core = g.core ∧ (f g p.L).slot = g.slot ∧ (f g p.L).team = g.team
      ∧ (f g p.L).lanes.length = g.lanes.length) :
    ∃ t, s.plain x regs f = .next t ∧ s.Goes t p (if p.L = 0 then p.g else f p.g p.L) := by
  have hg := State.path_group s x _ p hi.path
  have hp : s.path x = some p := hi.path
  unfold State.plain
  rw [hp]
  by_cases hL : p.L = 0
  · simp only [hL, if_true]
    exact ⟨_, rfl, State.goes_of s s x _ p p.g hi (State.OnlyGroup.refl s _ _ _ hg) rfl hi.width⟩
  · have hr' : p.g.hasRegs regs = true := hr.resolve_left hL
    simp only [if_neg hL, hr', Bool.not_true, Bool.false_eq_true, if_false]
    have ho := State.modGroup_only s p.core p.slot (fun g => f g p.L) p.g hg (fun g => ⟨(hf g).1, (hf g).2.1⟩)
    exact ⟨_, rfl, State.goes_of s _ x _ p (f p.g p.L) hi ho (hf p.g).2.2.1 ((hf p.g).2.2.2.trans hi.width)⟩

end Sys2Proof.Machine
end

