-- ==== Sys2Proof/Laws/Effects.lean ====
section
/-! SUPPORT. Laws of the operations that write the lanes of a mask: each has exactly the effect that Safety.lean names. -/

namespace Sys2Proof.Machine

/-- What one lane's part of an operation does: registers `d` to `d + n − 1` and the lane itself. -/
structure LaneStep (F : Group → Nat → Group) (d n : Nat) (v : Nat → Nat → Word) (e : Nat → Lane → Lane) : Prop where
  vec : ∀ h j, j < 32 → ∀ a i, i < 32 →
    (F h j).rv a i = if i = j ∧ d ≤ a ∧ a < d + n then v j (a - d) else h.rv a i
  lanes : ∀ h j, j < 32 → h.lanes.length = 32 → ∀ i, i < 32 →
    (F h j).lane i = if i = j then e j (h.lane i) else h.lane i
  width : ∀ h j, (F h j).lanes.length = h.lanes.length
  rest : ∀ h j, { F h j with v := h.v, lanes := h.lanes } = h

/-- An operation over the lanes of a list without repeats. -/
theorem LaneStep.fold {F : Group → Nat → Group} {d n : Nat} {v : Nat → Nat → Word} {e : Nat → Lane → Lane}
    (hF : LaneStep F d n v e) : ∀ (l : List Nat) (g : Group), l.Nodup → (∀ j ∈ l, j < 32) → g.lanes.length = 32 →
      (∀ a i, i < 32 → (l.foldl F g).rv a i = if i ∈ l ∧ d ≤ a ∧ a < d + n then v i (a - d) else g.rv a i)
      ∧ (∀ i, i < 32 → (l.foldl F g).lane i = if i ∈ l then e i (g.lane i) else g.lane i)
      ∧ (l.foldl F g).lanes.length = 32
      ∧ { l.foldl F g with v := g.v, lanes := g.lanes } = g := by
  intro l
  induction l with
  | nil => intro g _ _ hw; exact ⟨fun _ _ _ => by simp, fun _ _ => by simp, hw, rfl⟩
  | cons b r ih =>
    intro g hn hlt hw
    obtain ⟨hb, hr⟩ := List.nodup_cons.mp hn
    have hb32 := hlt b (by simp)
    obtain ⟨h1, h2, h3, h4⟩ := ih (F g b) hr (fun j hj => hlt j (by simp [hj])) (by rw [hF.width]; exact hw)
    refine ⟨?_, ?_, h3, ?_⟩
    · intro a i hi
      rw [List.foldl_cons, h1 a i hi, hF.vec g b hb32 a i hi]
      by_cases hib : i = b
      · subst hib; simp [hb]
      · simp [hib]
    · intro i hi
      rw [List.foldl_cons, h2 i hi, hF.lanes g b hb32 hw i hi]
      by_cases hib : i = b
      · subst hib; simp [hb]
      · simp [hib]
    · have hrest := hF.rest g b
      rw [← h4] at hrest
      rw [List.foldl_cons]
      exact hrest

/-- Such an operation over the lanes of a mask takes its effect. -/
theorem LaneStep.took {F : Group → Nat → Group} {d n : Nat} {v : Nat → Nat → Word} {e : Nat → Lane → Lane}
    (hF : LaneStep F d n v e) (g : Group) (L : Word) (hw : g.lanes.length = 32) :
    g.Took ((lanesOf L).foldl F g) L { d := d, n := n, v := v, lane := e } := by
  obtain ⟨h1, h2, -, h4⟩ := hF.fold (lanesOf L) g (nodup_lanesOf L) (fun j hj => ((mem_lanesOf L j).mp hj).1) hw
  refine ⟨?_, ?_, ?_, ?_⟩
  · intro a j hj
    rw [h1 a j hj]
    simp [mem_lanesOf, hj]
  · intro k
    show (((lanesOf L).foldl F g).rs k) = g.rs k
    have h5 : ((lanesOf L).foldl F g).s = g.s := by have := congrArg Group.s h4; exact this
    unfold Group.rs
    rw [h5]
  · intro j hj
    rw [h2 j hj]
    simp [mem_lanesOf, hj]
  · have hs : ((lanesOf L).foldl F g).s = g.s := by have := congrArg Group.s h4; exact this
    have e1 : { (lanesOf L).foldl F g with v := g.v, s := g.s, lanes := g.lanes } = g := by
      conv_rhs => rw [← h4]
      rw [← hs]
    simp [e1]

/-- It keeps the width, the place and the team of its group. -/
theorem LaneStep.place {F : Group → Nat → Group} {d n : Nat} {v : Nat → Nat → Word} {e : Nat → Lane → Lane}
    (hF : LaneStep F d n v e) (g : Group) : ∀ l : List Nat, (l.foldl F g).core = g.core ∧ (l.foldl F g).slot = g.slot
      ∧ (l.foldl F g).team = g.team ∧ (l.foldl F g).lanes.length = g.lanes.length := by
  intro l
  induction l generalizing g with
  | nil => exact ⟨rfl, rfl, rfl, rfl⟩
  | cons b r ih =>
    obtain ⟨h1, h2, h3, h4⟩ := ih (F g b)
    have hr := hF.rest g b
    have e1 := congrArg Group.core hr
    have e2 := congrArg Group.slot hr
    have e3 := congrArg Group.team hr
    exact ⟨h1.trans e1, h2.trans e2, h3.trans e3, h4.trans (hF.width g b)⟩

/-! ## The steps -/

theorem Group.wv_lane (g : Group) (a j i : Nat) (x : Word) : (g.wv a j x).lane i = g.lane i := rfl
theorem Group.wv2_lane (g : Group) (a j i : Nat) (x : DWord) : (g.wv2 a j x).lane i = g.lane i := rfl

theorem Group.modLane_at (g : Group) (j i : Nat) (f : Lane → Lane) (hw : g.lanes.length = 32) (hi : i < 32) :
    (g.modLane j f).lane i = if i = j then f (g.lane i) else g.lane i := by
  unfold Group.lane Group.modLane
  simp only
  rw [upd_getD]
  simp [hw, hi]

theorem Group.modLane_width (g : Group) (j : Nat) (f : Lane → Lane) : (g.modLane j f).lanes.length = g.lanes.length := by
  simp [Group.modLane]

/-- A register of the window (R6, R78). -/
theorem wv_step (d : Nat) (f : Nat → Word) :
    LaneStep (fun h j => h.wv d j (f j)) d 1 (fun j _ => f j) (fun _ l => l) := by
  refine ⟨?_, fun h j _ _ i _ => by simp [Group.wv_lane], fun _ _ => rfl, fun _ _ => rfl⟩
  intro h j hj a i hi
  rw [Group.wv_rv _ _ _ _ _ _ hj hi]
  by_cases ha : a = d
  · subst ha; by_cases hij : i = j
    · subst hij; simp
    · simp [hij]
  · have : ¬(i = j ∧ d ≤ a ∧ a < d + 1) := by omega
    rw [if_neg this, if_neg (fun h => ha h.1)]

/-- A pair (R106). -/
theorem wv2_step (d : Nat) (f : Nat → DWord) :
    LaneStep (fun h j => h.wv2 d j (f j)) d 2 (fun j k => (f j >>> (32 * k)).setWidth 32) (fun _ l => l) := by
  refine ⟨?_, fun h j _ _ i _ => by simp [Group.wv2_lane], fun _ _ => rfl, fun _ _ => rfl⟩
  intro h j hj a i hi
  unfold Group.wv2
  rw [Group.wv_rv _ _ _ _ _ _ hj hi, Group.wv_rv _ _ _ _ _ _ hj hi]
  by_cases hij : i = j
  · subst hij
    by_cases h1 : a = d + 1
    · subst h1; simp
    · by_cases h0 : a = d
      · subst h0; simp
      · have : ¬(d ≤ a ∧ a < d + 2) := by omega
        simp [h0, h1, this]
  · simp [hij]

/-- A step followed by a change of its lane. -/
theorem LaneStep.andLane {F : Group → Nat → Group} {d n : Nat} {v : Nat → Nat → Word}
    (hF : LaneStep F d n v (fun _ l => l)) (e : Nat → Lane → Lane) :
    LaneStep (fun h j => (F h j).modLane j (e j)) d n v e := by
  refine ⟨fun h j hj a i hi => hF.vec h j hj a i hi, ?_, ?_, ?_⟩
  · intro h j hj hw i hi
    rw [Group.modLane_at _ _ _ _ (by rw [hF.width]; exact hw) hi, hF.lanes h j hj hw i hi]
    by_cases hij : i = j <;> simp [hij]
  · intro h j; rw [Group.modLane_width, hF.width]
  · intro h j; exact hF.rest h j

/-- Two steps on neighbouring registers. -/
theorem LaneStep.andThen {F G : Group → Nat → Group} {d n m : Nat} {v w : Nat → Nat → Word}
    (hF : LaneStep F d n v (fun _ l => l)) (hG : LaneStep G (d + n) m w (fun _ l => l)) :
    LaneStep (fun h j => G (F h j) j) d (n + m) (fun j k => if k < n then v j k else w j (k - n)) (fun _ l => l) := by
  refine ⟨?_, ?_, ?_, ?_⟩
  · intro h j hj a i hi
    rw [hG.vec _ j hj a i hi, hF.vec _ j hj a i hi]
    by_cases hij : i = j
    · subst hij
      by_cases h1 : d + n ≤ a ∧ a < d + n + m
      · have h2 : d ≤ a ∧ a < d + (n + m) := by omega
        have h3 : ¬(a - d < n) := by omega
        simp [h1, h2, h3, Nat.sub_sub]
      · by_cases h2 : d ≤ a ∧ a < d + n
        · have h3 : d ≤ a ∧ a < d + (n + m) := by omega
          have h4 : a - d < n := by omega
          simp [h1, h2, h3, h4]
        · have h3 : ¬(d ≤ a ∧ a < d + (n + m)) := by omega
          simp [h1, h2, h3]
    · simp [hij]
  · intro h j hj hw i hi
    rw [hG.lanes _ j hj (by rw [hF.width]; exact hw) i hi, hF.lanes h j hj hw i hi]
    simp
  · intro h j; rw [hG.width, hF.width]
  · intro h j
    have h1 := hF.rest h j
    rw [← hG.rest (F h j) j] at h1
    exact h1

/-! ## The operations of the meanings -/

theorem Group.eachV_step (g : Group) (d : BitVec 7) (f : Nat → Word) :
    LaneStep (fun h j => h.wv (g.wbase + d.toNat) j (f j)) (g.wbase + d.toNat) 1 (fun j _ => f j) (fun _ l => l) :=
  wv_step _ f

/-- A write of one register in every lane of L. -/
theorem Group.eachV_took (g : Group) (d : BitVec 7) (L : Word) (f : Nat → Word) (hw : g.lanes.length = 32) :
    g.Took (g.eachV d L f) L (g.inV d f) := (g.eachV_step d f).took g L hw

/-- A write of a pair. -/
theorem Group.eachP_took (g : Group) (d : BitVec 7) (L : Word) (f : Nat → DWord) (hw : g.lanes.length = 32) :
    g.Took (g.eachP d L f) L (g.inP d f) := (wv2_step (g.wbase + d.toNat) f).took g L hw

theorem Group.eachF_step (g : Group) (d : BitVec 7) (f : Nat → FRes) :
    LaneStep (fun h j => (h.wv (g.wbase + d.toNat) j (BitVec.ofNat 32 (f j).1)).modLane j (fun l => l.setFlags (f j).2))
      (g.wbase + d.toNat) 1 (fun j _ => BitVec.ofNat 32 (f j).1) (fun j l => l.setFlags (f j).2) :=
  (wv_step (g.wbase + d.toNat) (fun j => BitVec.ofNat 32 (f j).1)).andLane (fun j l => l.setFlags (f j).2)

/-- A floating-point result with its flags. -/
theorem Group.eachF_took (g : Group) (d : BitVec 7) (L : Word) (f : Nat → FRes) (hw : g.lanes.length = 32) :
    g.Took (g.eachF d L f) L (g.inF d f) := (g.eachF_step d f).took g L hw

theorem Group.eachF64_step (g : Group) (d : BitVec 7) (f : Nat → FRes) :
    LaneStep (fun h j => (h.wv2 (g.wbase + d.toNat) j (BitVec.ofNat 64 (f j).1)).modLane j (fun l => l.setFlags (f j).2))
      (g.wbase + d.toNat) 2 (fun j k => (BitVec.ofNat 64 (f j).1 >>> (32 * k)).setWidth 32)
      (fun j l => l.setFlags (f j).2) :=
  (wv2_step (g.wbase + d.toNat) (fun j => BitVec.ofNat 64 (f j).1)).andLane (fun j l => l.setFlags (f j).2)

/-- The same in FP64. -/
theorem Group.eachF64_took (g : Group) (d : BitVec 7) (L : Word) (f : Nat → FRes) (hw : g.lanes.length = 32) :
    g.Took (g.eachF64 d L f) L (g.inF64 d f) := (g.eachF64_step d f).took g L hw

theorem Group.eachX_step (g : Group) (d : BitVec 7) (f : Nat → Nat × Nat × BitVec 5) :
    LaneStep (fun h j => ((h.wv (g.wbase + d.toNat) j (BitVec.ofNat 32 (f j).1)).wv (g.wbase + d.toNat + 1) j
        (BitVec.ofNat 32 (f j).2.1)).modLane j (fun l => l.setFlags (f j).2.2))
      (g.wbase + d.toNat) 2 (fun j k => if k < 1 then BitVec.ofNat 32 (f j).1 else BitVec.ofNat 32 (f j).2.1)
      (fun j l => l.setFlags (f j).2.2) :=
  ((wv_step (g.wbase + d.toNat) (fun j => BitVec.ofNat 32 (f j).1)).andThen
    (wv_step (g.wbase + d.toNat + 1) (fun j => BitVec.ofNat 32 (f j).2.1))).andLane (fun j l => l.setFlags (f j).2.2)

/-- A pair of 32-bit results. -/
theorem Group.eachX_took (g : Group) (d : BitVec 7) (L : Word) (f : Nat → Nat × Nat × BitVec 5) (hw : g.lanes.length = 32) :
    g.Took (g.eachX d L f) L (g.inX d f) := by
  have h := (g.eachX_step d f).took g L hw
  have e : g.inX d f = { d := g.wbase + d.toNat, n := 2
                         v := fun j k => if k < 1 then BitVec.ofNat 32 (f j).1 else BitVec.ofNat 32 (f j).2.1
                         lane := fun j l => l.setFlags (f j).2.2 } := by
    unfold Group.inX
    congr 1
    funext j k
    by_cases hk : k = 0 <;> simp [hk]
  rw [e]
  exact h

theorem Group.eachX64_step (g : Group) (d : BitVec 7) (f : Nat → Nat × Nat × BitVec 5) :
    LaneStep (fun h j => ((h.wv2 (g.wbase + d.toNat) j (BitVec.ofNat 64 (f j).1)).wv2 (g.wbase + d.toNat + 2) j
        (BitVec.ofNat 64 (f j).2.1)).modLane j (fun l => l.setFlags (f j).2.2))
      (g.wbase + d.toNat) 4
      (fun j k => if k < 2 then (BitVec.ofNat 64 (f j).1 >>> (32 * k)).setWidth 32
        else (BitVec.ofNat 64 (f j).2.1 >>> (32 * (k - 2))).setWidth 32)
      (fun j l => l.setFlags (f j).2.2) :=
  ((wv2_step (g.wbase + d.toNat) (fun j => BitVec.ofNat 64 (f j).1)).andThen
    (wv2_step (g.wbase + d.toNat + 2) (fun j => BitVec.ofNat 64 (f j).2.1))).andLane (fun j l => l.setFlags (f j).2.2)

/-- A pair of 64-bit results. -/
theorem Group.eachX64_took (g : Group) (d : BitVec 7) (L : Word) (f : Nat → Nat × Nat × BitVec 5)
    (hw : g.lanes.length = 32) : g.Took (g.eachX64 d L f) L (g.inX64 d f) := by
  have h := (g.eachX64_step d f).took g L hw
  refine ⟨?_, h.uni, h.lanes, h.rest⟩
  intro a j hj
  refine (h.vec a j hj).trans ?_
  unfold Group.inX64
  simp only
  by_cases hc : L.getLsbD j = true ∧ g.wbase + d.toNat ≤ a ∧ a < g.wbase + d.toNat + 4
  · rw [if_pos hc, if_pos hc]
    have : a - (g.wbase + d.toNat) < 4 := by omega
    generalize a - (g.wbase + d.toNat) = k at *
    by_cases hk : k < 2
    · rw [if_pos hk, if_pos hk, Nat.mod_eq_of_lt hk]
    · rw [if_neg hk, if_neg hk, show k % 2 = k - 2 by omega]
  · rw [if_neg hc, if_neg hc]

/-- What an update of the lanes of L takes. -/
theorem Group.modLanes_took (g : Group) (L : Word) (e : Nat → Lane → Lane) (hw : g.lanes.length = 32) :
    g.Took (g.modLanes L e) L { lane := e } := by
  refine ⟨fun a j hj => ?_, fun _ => rfl, fun j hj => Group.modLanes_lane g L e j (by omega), ?_⟩
  · have : ¬(0 ≤ a ∧ a < 0 + 0) := by omega
    simp only [this, and_false, if_false]
    rfl
  · simp only [Group.modLanes, id, ite_self]

/-- A predicate in every lane of L. -/
theorem Group.eachPred_took (g : Group) (d : BitVec 7) (L : Word) (f : Nat → Bool) (hw : g.lanes.length = 32) :
    g.Took (g.eachPred d L f) L (inPred d f) := g.modLanes_took L _ hw

/-- A write of a uniform register. -/
theorem Group.ws_took (g : Group) (d : BitVec 7) (L : Word) (x : DWord) (hL : L ≠ 0) : g.Took (g.ws d.toNat x) L (inS d x) := by
  refine ⟨fun a j _ => ?_, fun n => ?_, fun j _ => ?_, ?_⟩
  · have : ¬(0 ≤ a ∧ a < 0 + 0) := by omega
    simp only [inS, this, and_false, if_false]
    unfold Group.ws; split <;> rfl
  · simp only [inS, Group.ws_rs]
    by_cases h1 : n = d.toNat
    · subst h1
      by_cases h2 : d.toNat = 63
      · simp [h2]
      · rw [if_pos ⟨rfl, h2⟩, if_pos ⟨rfl, h2, hL⟩]
    · simp [h1]
  · show (g.ws d.toNat x).lane j = if L.getLsbD j = true then g.lane j else g.lane j
    unfold Group.ws; split <;> simp [Group.lane]
  · simp only [inS, id, ite_self]
    unfold Group.ws; split <;> rfl

/-- With an empty L nothing is written. -/
theorem Group.took_none (g : Group) (e : Effect) : g.Took g 0 e := by
  refine ⟨fun a j _ => by simp, fun n => ?_, fun j _ => by simp, by simp⟩
  cases e.s with
  | none => rfl
  | some k => simp

/-! ## Whole instructions -/

/-- What stays in place under such a write. -/
def Group.SamePlace (g h : Group) : Prop :=
  h.core = g.core ∧ h.slot = g.slot ∧ h.team = g.team ∧ h.lanes.length = g.lanes.length

theorem Group.eachV_place (g : Group) (d : BitVec 7) (L : Word) (f : Nat → Word) : g.SamePlace (g.eachV d L f) :=
  (g.eachV_step d f).place g _
theorem Group.eachP_place (g : Group) (d : BitVec 7) (L : Word) (f : Nat → DWord) : g.SamePlace (g.eachP d L f) :=
  (wv2_step _ f).place g _
theorem Group.eachF_place (g : Group) (d : BitVec 7) (L : Word) (f : Nat → FRes) : g.SamePlace (g.eachF d L f) :=
  (g.eachF_step d f).place g _
theorem Group.eachF64_place (g : Group) (d : BitVec 7) (L : Word) (f : Nat → FRes) : g.SamePlace (g.eachF64 d L f) :=
  (g.eachF64_step d f).place g _
theorem Group.eachX_place (g : Group) (d : BitVec 7) (L : Word) (f : Nat → Nat × Nat × BitVec 5) :
    g.SamePlace (g.eachX d L f) := (g.eachX_step d f).place g _
theorem Group.eachX64_place (g : Group) (d : BitVec 7) (L : Word) (f : Nat → Nat × Nat × BitVec 5) :
    g.SamePlace (g.eachX64 d L f) := (g.eachX64_step d f).place g _
theorem Group.ws_place (g : Group) (n : Nat) (x : DWord) : g.SamePlace (g.ws n x) := by simp [Group.SamePlace]
theorem Group.modLanes_place (g : Group) (L : Word) (f : Nat → Lane → Lane) : g.SamePlace (g.modLanes L f) := by
  simp [Group.SamePlace, Group.modLanes]

/-- An instruction that touches nothing but its group answers a next state in which its path goes on with its effect. -/
theorem State.plain_took (s : State) (x : Exts) (regs : List (Nat × Nat)) (f : Group → Word → Group) (e : Effect) (p : Path)
    (hi : s.Issues x (Exts.guard x) p) (hr : p.L = 0 ∨ p.g.hasRegs regs = true) (hf : ∀ g : Group, g.SamePlace (f g p.L))
    (ht : p.L ≠ 0 → p.g.Took (f p.g p.L) p.L e) :
    ∃ t h, s.plain x regs f = .next t ∧ s.Goes t p h ∧ p.g.Took h p.L e := by
  obtain ⟨t, h1, h2⟩ := s.plain_goes x regs f p hi hr hf
  refine ⟨t, _, h1, h2, ?_⟩
  split
  · rename_i h; rw [h]; exact Group.took_none _ _
  · rename_i h; exact ht h

/-! ## Arbitration (R218) -/

/-- Of two requests one is the older: a source's requests for a point never keep each other waiting. -/
theorem Request.older_total (a b : Request) (h : a.id ≠ b.id ∨ a.line ≠ b.line) : a.older b = true ∨ b.older a = true := by
  unfold Request.older
  split_ifs <;> simp_all

/-- Of two requests of different sources one stands before the other. -/
theorem Request.beats_total (now : Nat) (a b : Request) (h : a.src ≠ b.src) :
    a.beats now b = true ∨ b.beats now a = true := by
  unfold Request.beats
  split_ifs <;> simp_all

end Sys2Proof.Machine
end

