-- ==== Sys2Proof/Laws/Memory.lean ====
section
/-! SUPPORT. Every operation on memory keeps memory, the memory of the domain and the scratchpads in canonical form. -/

namespace Sys2Proof.Machine

/-- The form speaks of three fields only. -/
theorem State.MemWf.of_eq {s t : State} (h : s.MemWf) (m : t.mem = s.mem) (p : t.peer = s.peer) (u : t.teams = s.teams) :
    t.MemWf := by
  unfold State.MemWf at *; rw [m, p, u]; exact h

theorem State.MemWf.put {s : State} (h : s.MemWf) (sp : Space) (l : List (Nat × Byte)) : (s.put sp l).MemWf := by
  obtain ⟨hm, hp, ht⟩ := h
  cases sp with
  | mem => exact ⟨SMapWf_ssets l _ hm, hp, ht⟩
  | peer d => exact ⟨hm, SMapWf_ssets _ _ hp, ht⟩
  | scratch i =>
    refine ⟨hm, hp, fun t hx => ?_⟩
    obtain ⟨u, hu, rfl⟩ := List.mem_map.mp hx
    split
    · exact SMapWf_ssets l _ (ht u hu)
    · exact ht u hu

/-- What a fold of operations that keep the form keeps. -/
theorem MemWf_foldl {α : Type} (f : State → α → State) (hf : ∀ s a, s.MemWf → (f s a).MemWf) :
    ∀ (l : List α) (s : State), s.MemWf → (l.foldl f s).MemWf
  | [], _, h => h
  | a :: r, s, h => MemWf_foldl f hf r (f s a) (hf s a h)

theorem State.MemWf.recall {s : State} (h : s.MemWf) (line : Nat) : (s.recall line).MemWf :=
  MemWf_foldl _ (fun _ _ h => h.put _ _) _ _ (h.of_eq rfl rfl rfl)

theorem State.MemWf.homeWriteLine {s : State} (h : s.MemWf) (l1 : Option Nat) (line : Nat) (l : List (Nat × Byte)) :
    (s.homeWriteLine l1 line l).MemWf :=
  (((h.recall line).of_eq (t := ((s.recall line).l1Invalidate l1 line).numberWrite line |>.2) rfl rfl rfl).put .mem l).of_eq
    rfl rfl rfl

theorem State.MemWf.homeWrite {s : State} (h : s.MemWf) (pa : Nat) (l : List Byte) : (s.homeWrite pa l).MemWf :=
  MemWf_foldl _ (fun _ _ h => h.homeWriteLine _ _ _) _ _ h

theorem State.MemWf.homeRead {s : State} (h : s.MemWf) (pa n : Nat) : (s.homeRead pa n).2.MemWf :=
  MemWf_foldl _ (fun _ _ h => h.recall _) _ _ h

theorem State.MemWf.deviceWrite {s : State} (h : s.MemWf) (pa : Nat) (l : List Byte) : (s.deviceWrite pa l).MemWf := by
  unfold State.deviceWrite; split
  · exact h.homeWrite pa l
  · exact h

theorem State.MemWf.applyLanes (sp : Space) (op : AtomOp) :
    ∀ (l : List AtomLane) (s : State), s.MemWf → (s.applyLanes sp op l).2.MemWf
  | [], _, h => h
  | a :: r, _, h => State.MemWf.applyLanes sp op r _ (h.put sp (wordBytes a.addr _))

theorem State.MemWf.stampLine {s : State} (h : s.MemWf) (line : Nat) : (s.stampLine line).MemWf := h.of_eq rfl rfl rfl

theorem State.MemWf.modContext {s : State} (h : s.MemWf) (ctx : Word) (f : Context → Context) :
    (s.modContext ctx f).MemWf := by
  unfold State.modContext; split <;> exact h.of_eq rfl rfl rfl

theorem State.MemWf.storeIrq {s : State} (h : s.MemWf) (ctx : Word) (was : Bool) : (s.storeIrq ctx was).MemWf := by
  unfold State.storeIrq; split
  · exact h.of_eq rfl rfl rfl
  · exact h

theorem State.MemWf.preserve {s : State} (h : s.MemWf) (ctx : Word) (line : Nat) : (s.preserve ctx line).MemWf := by
  unfold State.preserve; split
  · exact (h.modContext _ _).storeIrq _ _
  · exact h

theorem State.MemWf.perform {s : State} (h : s.MemWf) (w : Write) : (s.perform w).1.MemWf := by
  unfold State.perform
  split
  · split
    · exact h.homeWriteLine _ _ _
    · exact (h.put _ _).of_eq rfl rfl rfl
  all_goals
    refine (State.MemWf.applyLanes w.space _ _ _ ?_).of_eq rfl rfl rfl
    split
    · exact (h.recall w.line).of_eq rfl rfl rfl
    · exact h

theorem State.MemWf.giveOld {s : State} (h : s.MemWf) (load : Nat) (old : List (Nat × Word)) (n : Word) :
    (s.giveOld load old n).MemWf := h.of_eq rfl rfl rfl

theorem State.MemWf.numberOf {s : State} (h : s.MemWf) (w : Write) : (s.numberOf w).2.MemWf := by
  unfold State.numberOf; split
  · exact h
  · exact h
  · exact h.of_eq rfl rfl rfl

theorem State.MemWf.acknowledge {s : State} (h : s.MemWf) (w : Write) (n : Word) : (s.acknowledge w n).MemWf :=
  h.of_eq rfl rfl rfl

theorem State.MemWf.applyWrite {s : State} (h : s.MemWf) (w : Write) : (s.applyWrite w).MemWf := by
  unfold State.applyWrite
  split
  · exact h.acknowledge _ _
  · dsimp only
    refine State.MemWf.acknowledge ?_ _ _
    have pick : ∀ (b : Bool) (t u : State), t.MemWf → u.MemWf → (if b = true then t else u).MemWf := by
      intro b t u ht hu; cases b
      · exact hu
      · exact ht
    have last : ∀ t : State, t.MemWf →
        (State.numberOf (if (w.cameo && decide (w.space = .mem)) = true then t.stampLine w.line else t) w).2.MemWf :=
      fun t ht => (pick _ _ _ (ht.stampLine _) ht).numberOf w
    split
    · exact (last _ ((pick _ _ _ (h.preserve _ _) h).perform w)).giveOld _ _ _
    · exact last _ ((pick _ _ _ (h.preserve _ _) h).perform w)

theorem State.MemWf.unitWrite {s : State} (h : s.MemWf) (ctx : Word) (p : Place) (l : List Byte) :
    (s.unitWrite ctx p l).MemWf := by
  unfold State.unitWrite
  split
  · dsimp only; split
    · exact h.of_eq rfl rfl rfl
    · split
      · exact ((h.preserve ctx _).homeWriteLine _ _ _).stampLine _
      · exact h.homeWriteLine _ _ _
  · exact (h.put _ _).of_eq rfl rfl rfl

theorem State.MemWf.inboundWrite {s : State} (h : s.MemWf) (pa : Nat) (l : List Byte) (cameo : Bool) :
    (s.inboundWrite pa l cameo).MemWf := by
  refine MemWf_foldl _ (fun s line h => ?_) _ _ h
  cases cameo
  · exact h.homeWriteLine _ _ _
  · exact ((MemWf_foldl _ (fun _ _ h => h.preserve _ _) _ _ h).homeWriteLine _ _ _).stampLine _

theorem State.MemWf.deliver {s : State} (h : s.MemWf) (core slot lane : Nat) (r : SvcRecord) :
    (s.deliver core slot lane r).MemWf := by
  unfold State.deliver; dsimp only; split
  · exact ((h.deviceWrite _ _).deviceWrite _ _).of_eq rfl rfl rfl
  · exact (h.deviceWrite _ _).of_eq rfl rfl rfl

end Sys2Proof.Machine
end

