-- ==== Sys2Proof/Laws/PerInstr.lean ====
section
/-! SUPPORT. PerInstr: what holds of every instruction as syntax: a well-formed instruction has one to three words, its base
word after at most two extension words (R64, R70). -/

namespace Sys2Proof.Laws.Length

open Sys2Proof

/-- The words of a well-formed instruction: at least the base word, and at most two before it. -/
def Statement (i : Instr) : Prop := i.WellFormed → encode i ≠ [] ∧ (encode i).length ≤ 3

/-- Legal extension words are at most two. -/
theorem extsOk_length (x : Exts) (h : extsOk x = true) : x.length ≤ 2 := by
  match x, h with
  | [], _ => simp
  | [_], _ => simp
  | [_, _], _ => simp

/-- An instruction with a shape has a base word. -/
theorem words_of (i : Instr) (hb : (shape i).isSome = true → (baseWord i).isSome = true) : Statement i := by
  intro hw
  unfold Instr.WellFormed encodable at hw
  split at hw
  · exact absurd hw (by simp)
  · rename_i sh hs
    have hx : (extsOf i).length ≤ 2 := extsOk_length _ (by simp only [Bool.and_eq_true] at hw; exact hw.1.1.1)
    obtain ⟨w, hw'⟩ := Option.isSome_iff_exists.mp (hb (by rw [hs]; rfl))
    unfold encode
    rw [hw']
    simp
    omega

theorem bra (a b c d) : Statement (.bra a b c d) := words_of _ (fun _ => rfl)
theorem call (a b c d) : Statement (.call a b c d) := words_of _ (fun _ => rfl)
theorem loop (a b c d) : Statement (.loop a b c d) := words_of _ (fun _ => rfl)
theorem loopi (a b c d) : Statement (.loopi a b c d) := words_of _ (fun _ => rfl)
theorem bri (a b) : Statement (.bri a b) := words_of _ (fun _ => rfl)
theorem calli (a b) : Statement (.calli a b) := words_of _ (fun _ => rfl)
theorem ret (a) : Statement (.ret a) := words_of _ (fun _ => rfl)
theorem exit (a) : Statement (.exit a) := words_of _ (fun _ => rfl)
theorem cjoin (a b) : Statement (.cjoin a b) := words_of _ (fun _ => rfl)
theorem yield (a) : Statement (.yield a) := words_of _ (fun _ => rfl)
theorem nop (a) : Statement (.nop a) := words_of _ (fun _ => rfl)
theorem cmark (a b) : Statement (.cmark a b) := words_of _ (fun _ => rfl)
theorem wbase (a b) : Statement (.wbase a b) := words_of _ (fun _ => rfl)
theorem sadd (a b c d) : Statement (.sadd a b c d) := words_of _ (fun _ => rfl)
theorem ssub (a b c d) : Statement (.ssub a b c d) := words_of _ (fun _ => rfl)
theorem smul (a b c d) : Statement (.smul a b c d) := words_of _ (fun _ => rfl)
theorem smad (a b c d) : Statement (.smad a b c d) := words_of _ (fun _ => rfl)
theorem sand (a b c d) : Statement (.sand a b c d) := words_of _ (fun _ => rfl)
theorem sor (a b c d) : Statement (.sor a b c d) := words_of _ (fun _ => rfl)
theorem sxor (a b c d) : Statement (.sxor a b c d) := words_of _ (fun _ => rfl)
theorem sshl (a b c d) : Statement (.sshl a b c d) := words_of _ (fun _ => rfl)
theorem sshr (a b c d) : Statement (.sshr a b c d) := words_of _ (fun _ => rfl)
theorem ssra (a b c d) : Statement (.ssra a b c d) := words_of _ (fun _ => rfl)
theorem smin (a b c d) : Statement (.smin a b c d) := words_of _ (fun _ => rfl)
theorem smax (a b c d) : Statement (.smax a b c d) := words_of _ (fun _ => rfl)
theorem scmp (a b c d) : Statement (.scmp a b c d) := words_of _ (fun _ => rfl)
theorem smov (a b c) : Statement (.smov a b c) := words_of _ (fun _ => rfl)
theorem smovi (a b c) : Statement (.smovi a b c) := words_of _ (fun _ => rfl)
theorem sread (a b c) : Statement (.sread a b c) := words_of _ (fun _ => rfl)
theorem swrite (a b c) : Statement (.swrite a b c) := words_of _ (fun _ => rfl)
theorem iadd (a b c d) : Statement (.iadd a b c d) := words_of _ (fun _ => rfl)
theorem iaddc (a b c d) : Statement (.iaddc a b c d) := words_of _ (fun _ => rfl)
theorem isub (a b c d) : Statement (.isub a b c d) := words_of _ (fun _ => rfl)
theorem imul (a b c d) : Statement (.imul a b c d) := words_of _ (fun _ => rfl)
theorem imulh (a b c d) : Statement (.imulh a b c d) := words_of _ (fun _ => rfl)
theorem imad (a b c d) : Statement (.imad a b c d) := words_of _ (fun _ => rfl)
theorem imadw (a b c d) : Statement (.imadw a b c d) := words_of _ (fun _ => rfl)
theorem iand (a b c d) : Statement (.iand a b c d) := words_of _ (fun _ => rfl)
theorem ior (a b c d) : Statement (.ior a b c d) := words_of _ (fun _ => rfl)
theorem ixor (a b c d) : Statement (.ixor a b c d) := words_of _ (fun _ => rfl)
theorem inot (a b c) : Statement (.inot a b c) := words_of _ (fun _ => rfl)
theorem ishl (a b c d) : Statement (.ishl a b c d) := words_of _ (fun _ => rfl)
theorem ishr (a b c d) : Statement (.ishr a b c d) := words_of _ (fun _ => rfl)
theorem isra (a b c d) : Statement (.isra a b c d) := words_of _ (fun _ => rfl)
theorem imin (a b c d) : Statement (.imin a b c d) := words_of _ (fun _ => rfl)
theorem imax (a b c d) : Statement (.imax a b c d) := words_of _ (fun _ => rfl)
theorem iabs (a b c) : Statement (.iabs a b c) := words_of _ (fun _ => rfl)
theorem icmp (a b c d) : Statement (.icmp a b c d) := words_of _ (fun _ => rfl)
theorem isel (a b c d) : Statement (.isel a b c d) := words_of _ (fun _ => rfl)
theorem popc (a b c) : Statement (.popc a b c) := words_of _ (fun _ => rfl)
theorem clz (a b c) : Statement (.clz a b c) := words_of _ (fun _ => rfl)
theorem brev (a b c) : Statement (.brev a b c) := words_of _ (fun _ => rfl)
theorem bfx (a b c d) : Statement (.bfx a b c d) := words_of _ (fun _ => rfl)
theorem bfi (a b c d) : Statement (.bfi a b c d) := words_of _ (fun _ => rfl)
theorem lea (a b c d) : Statement (.lea a b c d) := words_of _ (fun _ => rfl)
theorem pand (a b c d) : Statement (.pand a b c d) := words_of _ (fun _ => rfl)
theorem por (a b c d) : Statement (.por a b c d) := words_of _ (fun _ => rfl)
theorem pxor (a b c d) : Statement (.pxor a b c d) := words_of _ (fun _ => rfl)
theorem pnot (a b c) : Statement (.pnot a b c) := words_of _ (fun _ => rfl)
theorem pmov (a b c) : Statement (.pmov a b c) := words_of _ (fun _ => rfl)
theorem voteP (a b c) : Statement (.voteP a b c) := words_of _ (fun _ => rfl)
theorem voteS (a b c) : Statement (.voteS a b c) := words_of _ (fun _ => rfl)
theorem matchV (a b c) : Statement (.matchV a b c) := words_of _ (fun _ => rfl)
theorem matchS (a b c) : Statement (.matchS a b c) := words_of _ (fun _ => rfl)
theorem redIV (a b c) : Statement (.redIV a b c) := words_of _ (fun _ => rfl)
theorem redIS (a b c) : Statement (.redIS a b c) := words_of _ (fun _ => rfl)
theorem scanIV (a b c) : Statement (.scanIV a b c) := words_of _ (fun _ => rfl)
theorem scanIS (a b c) : Statement (.scanIS a b c) := words_of _ (fun _ => rfl)
theorem fadd (a b c d) : Statement (.fadd a b c d) := words_of _ (fun _ => rfl)
theorem fsub (a b c d) : Statement (.fsub a b c d) := words_of _ (fun _ => rfl)
theorem fmul (a b c d) : Statement (.fmul a b c d) := words_of _ (fun _ => rfl)
theorem ffma (a b c d) : Statement (.ffma a b c d) := words_of _ (fun _ => rfl)
theorem fmin (a b c d) : Statement (.fmin a b c d) := words_of _ (fun _ => rfl)
theorem fmax (a b c d) : Statement (.fmax a b c d) := words_of _ (fun _ => rfl)
theorem fcmp (a b c d) : Statement (.fcmp a b c d) := words_of _ (fun _ => rfl)
theorem fclass (a b c) : Statement (.fclass a b c) := words_of _ (fun _ => rfl)
theorem frnd (a b c) : Statement (.frnd a b c) := words_of _ (fun _ => rfl)
theorem faddX (a b c d) : Statement (.faddX a b c d) := words_of _ (fun _ => rfl)
theorem fsubX (a b c d) : Statement (.fsubX a b c d) := words_of _ (fun _ => rfl)
theorem fmulX (a b c d) : Statement (.fmulX a b c d) := words_of _ (fun _ => rfl)
theorem dwadd (a b c d) : Statement (.dwadd a b c d) := words_of _ (fun _ => rfl)
theorem dwsub (a b c d) : Statement (.dwsub a b c d) := words_of _ (fun _ => rfl)
theorem dwmul (a b c d) : Statement (.dwmul a b c d) := words_of _ (fun _ => rfl)
theorem dwnorm (a b c) : Statement (.dwnorm a b c) := words_of _ (fun _ => rfl)
theorem faddF64 (a b c d) : Statement (.faddF64 a b c d) := words_of _ (fun _ => rfl)
theorem fsubF64 (a b c d) : Statement (.fsubF64 a b c d) := words_of _ (fun _ => rfl)
theorem fmulF64 (a b c d) : Statement (.fmulF64 a b c d) := words_of _ (fun _ => rfl)
theorem ffmaF64 (a b c d) : Statement (.ffmaF64 a b c d) := words_of _ (fun _ => rfl)
theorem fminF64 (a b c d) : Statement (.fminF64 a b c d) := words_of _ (fun _ => rfl)
theorem fmaxF64 (a b c d) : Statement (.fmaxF64 a b c d) := words_of _ (fun _ => rfl)
theorem fcmpF64 (a b c d) : Statement (.fcmpF64 a b c d) := words_of _ (fun _ => rfl)
theorem fclassF64 (a b c) : Statement (.fclassF64 a b c) := words_of _ (fun _ => rfl)
theorem frndF64 (a b c) : Statement (.frndF64 a b c) := words_of _ (fun _ => rfl)
theorem faddXF64 (a b c d) : Statement (.faddXF64 a b c d) := words_of _ (fun _ => rfl)
theorem fsubXF64 (a b c d) : Statement (.fsubXF64 a b c d) := words_of _ (fun _ => rfl)
theorem fmulXF64 (a b c d) : Statement (.fmulXF64 a b c d) := words_of _ (fun _ => rfl)
theorem dwaddF64 (a b c d) : Statement (.dwaddF64 a b c d) := words_of _ (fun _ => rfl)
theorem dwsubF64 (a b c d) : Statement (.dwsubF64 a b c d) := words_of _ (fun _ => rfl)
theorem dwmulF64 (a b c d) : Statement (.dwmulF64 a b c d) := words_of _ (fun _ => rfl)
theorem dwnormF64 (a b c) : Statement (.dwnormF64 a b c) := words_of _ (fun _ => rfl)
theorem fdiv (a b c d) : Statement (.fdiv a b c d) := words_of _ (fun _ => rfl)
theorem fsqrt (a b c) : Statement (.fsqrt a b c) := words_of _ (fun _ => rfl)
theorem frcp (a b c) : Statement (.frcp a b c) := words_of _ (fun _ => rfl)
theorem frsq (a b c) : Statement (.frsq a b c) := words_of _ (fun _ => rfl)
theorem fex2 (a b c) : Statement (.fex2 a b c) := words_of _ (fun _ => rfl)
theorem flg2 (a b c) : Statement (.flg2 a b c) := words_of _ (fun _ => rfl)
theorem fsin (a b c) : Statement (.fsin a b c) := words_of _ (fun _ => rfl)
theorem fcos (a b c) : Statement (.fcos a b c) := words_of _ (fun _ => rfl)
theorem fdivF64 (a b c d) : Statement (.fdivF64 a b c d) := words_of _ (fun _ => rfl)
theorem fsqrtF64 (a b c) : Statement (.fsqrtF64 a b c) := words_of _ (fun _ => rfl)
theorem frcpF64 (a b c) : Statement (.frcpF64 a b c) := words_of _ (fun _ => rfl)
theorem frsqF64 (a b c) : Statement (.frsqF64 a b c) := words_of _ (fun _ => rfl)
theorem cvt (a b c d e) : Statement (.cvt a b c d e) := words_of _ (fun _ => rfl)
theorem redFV (a b c) : Statement (.redFV a b c) := words_of _ (fun _ => rfl)
theorem redFS (a b c) : Statement (.redFS a b c) := words_of _ (fun _ => rfl)
theorem redFcV (a b c) : Statement (.redFcV a b c) := words_of _ (fun _ => rfl)
theorem redFcS (a b c) : Statement (.redFcS a b c) := words_of _ (fun _ => rfl)
theorem scanF (a b c) : Statement (.scanF a b c) := words_of _ (fun _ => rfl)
theorem redFF64V (a b c) : Statement (.redFF64V a b c) := words_of _ (fun _ => rfl)
theorem redFF64S (a b c) : Statement (.redFF64S a b c) := words_of _ (fun _ => rfl)
theorem redFcF64 (a b c) : Statement (.redFcF64 a b c) := words_of _ (fun _ => rfl)
theorem scanFF64 (a b c) : Statement (.scanFF64 a b c) := words_of _ (fun _ => rfl)
theorem flgr (a b) : Statement (.flgr a b) := words_of _ (fun _ => rfl)
theorem flgc (a b) : Statement (.flgc a b) := words_of _ (fun _ => rfl)
theorem qset (a b c) : Statement (.qset a b c) := words_of _ (fun _ => rfl)
theorem nset (a b c) : Statement (.nset a b c) := words_of _ (fun _ => rfl)
theorem ld (a b c d) : Statement (.ld a b c d) := words_of _ (fun _ => rfl)
theorem st (a b c d) : Statement (.st a b c d) := words_of _ (fun _ => rfl)
theorem atomAdd (a b c d) : Statement (.atomAdd a b c d) := words_of _ (fun _ => rfl)
theorem atomMin (a b c d) : Statement (.atomMin a b c d) := words_of _ (fun _ => rfl)
theorem atomMax (a b c d) : Statement (.atomMax a b c d) := words_of _ (fun _ => rfl)
theorem atomAnd (a b c d) : Statement (.atomAnd a b c d) := words_of _ (fun _ => rfl)
theorem atomOr (a b c d) : Statement (.atomOr a b c d) := words_of _ (fun _ => rfl)
theorem atomXor (a b c d) : Statement (.atomXor a b c d) := words_of _ (fun _ => rfl)
theorem atomXchg (a b c d) : Statement (.atomXchg a b c d) := words_of _ (fun _ => rfl)
theorem atomCas (a b c d) : Statement (.atomCas a b c d) := words_of _ (fun _ => rfl)
theorem atomInc (a b c d) : Statement (.atomInc a b c d) := words_of _ (fun _ => rfl)
theorem atomDec (a b c d) : Statement (.atomDec a b c d) := words_of _ (fun _ => rfl)
theorem atomXchgT (a b c d) : Statement (.atomXchgT a b c d) := words_of _ (fun _ => rfl)
theorem redMAdd (a b c) : Statement (.redMAdd a b c) := words_of _ (fun _ => rfl)
theorem redMMin (a b c) : Statement (.redMMin a b c) := words_of _ (fun _ => rfl)
theorem redMMax (a b c) : Statement (.redMMax a b c) := words_of _ (fun _ => rfl)
theorem redMAnd (a b c) : Statement (.redMAnd a b c) := words_of _ (fun _ => rfl)
theorem redMOr (a b c) : Statement (.redMOr a b c) := words_of _ (fun _ => rfl)
theorem redMXor (a b c) : Statement (.redMXor a b c) := words_of _ (fun _ => rfl)
theorem mwait (a b c) : Statement (.mwait a b c) := words_of _ (fun _ => rfl)
theorem fenceAcq (a b) : Statement (.fenceAcq a b) := words_of _ (fun _ => rfl)
theorem fenceRel (a b) : Statement (.fenceRel a b) := words_of _ (fun _ => rfl)
theorem fenceSc (a b) : Statement (.fenceSc a b) := words_of _ (fun _ => rfl)
theorem fenceEngine (a) : Statement (.fenceEngine a) := words_of _ (fun _ => rfl)
theorem fenceCode (a) : Statement (.fenceCode a) := words_of _ (fun _ => rfl)
theorem icinv (a b) : Statement (.icinv a b) := words_of _ (fun _ => rfl)
theorem dcflush (a b) : Statement (.dcflush a b) := words_of _ (fun _ => rfl)
theorem dcinv (a b) : Statement (.dcinv a b) := words_of _ (fun _ => rfl)
theorem pref (a b) : Statement (.pref a b) := words_of _ (fun _ => rfl)
theorem hprobe (a b c d) : Statement (.hprobe a b c d) := words_of _ (fun _ => rfl)
theorem snap (a b) : Statement (.snap a b) := words_of _ (fun _ => rfl)
theorem snrel (a b) : Statement (.snrel a b) := words_of _ (fun _ => rfl)
theorem txb (a b) : Statement (.txb a b) := words_of _ (fun _ => rfl)
theorem txc (a b) : Statement (.txc a b) := words_of _ (fun _ => rfl)
theorem txa (a) : Statement (.txa a) := words_of _ (fun _ => rfl)
theorem mma (a b c d) : Statement (.mma a b c d) := words_of _ (fun _ => rfl)
theorem mzero (a b) : Statement (.mzero a b) := words_of _ (fun _ => rfl)
theorem mld (a b c) : Statement (.mld a b c) := words_of _ (fun _ => rfl)
theorem mst (a b c) : Statement (.mst a b c) := words_of _ (fun _ => rfl)
theorem mdrain (a b c d) : Statement (.mdrain a b c d) := words_of _ (fun _ => rfl)
theorem mmap (a b c) : Statement (.mmap a b c) := words_of _ (fun _ => rfl)
theorem mburst (a b) : Statement (.mburst a b) := words_of _ (fun _ => rfl)
theorem tld (a b c) : Statement (.tld a b c) := words_of _ (fun _ => rfl)
theorem tmovTv (a b c) : Statement (.tmovTv a b c) := words_of _ (fun _ => rfl)
theorem tmovVt (a b c) : Statement (.tmovVt a b c) := words_of _ (fun _ => rfl)
theorem copy (a b c) : Statement (.copy a b c) := words_of _ (fun _ => rfl)
theorem copyMc (a b c) : Statement (.copyMc a b c) := words_of _ (fun _ => rfl)
theorem gather (a b c) : Statement (.gather a b c) := words_of _ (fun _ => rfl)
theorem coll (a b c) : Statement (.coll a b c) := words_of _ (fun _ => rfl)
theorem media (a b c) : Statement (.media a b c) := words_of _ (fun _ => rfl)
theorem arrive (a b) : Statement (.arrive a b) := words_of _ (fun _ => rfl)
theorem wait (a b c) : Statement (.wait a b c) := words_of _ (fun _ => rfl)
theorem arwait (a b c) : Statement (.arwait a b c) := words_of _ (fun _ => rfl)
theorem expect (a b c) : Statement (.expect a b c) := words_of _ (fun _ => rfl)
theorem cltest (a b c) : Statement (.cltest a b c) := words_of _ (fun _ => rfl)
theorem rclaim (a b) : Statement (.rclaim a b) := words_of _ (fun _ => rfl)
theorem rrel (a b) : Statement (.rrel a b) := words_of _ (fun _ => rfl)
theorem regroup (a b c) : Statement (.regroup a b c) := words_of _ (fun _ => rfl)
theorem sysc (a b c) : Statement (.sysc a b c) := words_of _ (fun _ => rfl)
theorem trap (a b) : Statement (.trap a b) := words_of _ (fun _ => rfl)
theorem bkpt (a b) : Statement (.bkpt a b) := words_of _ (fun _ => rfl)
theorem mbxrd (a b c) : Statement (.mbxrd a b c) := words_of _ (fun _ => rfl)
theorem laneres (a b c) : Statement (.laneres a b c) := words_of _ (fun _ => rfl)
theorem tlbinv (a b c) : Statement (.tlbinv a b c) := words_of _ (fun _ => rfl)
theorem eret (a) : Statement (.eret a) := words_of _ (fun _ => rfl)
theorem capr (a b c) : Statement (.capr a b c) := words_of _ (fun _ => rfl)
theorem joinRelease (a b) : Statement (.joinRelease a b) := words_of _ (fun h => h)
theorem mwaitWake (a b c) : Statement (.mwaitWake a b c) := words_of _ (fun h => h)
theorem engineGrant (a) : Statement (.engineGrant a) := words_of _ (fun h => h)
theorem matrixOpComplete (a) : Statement (.matrixOpComplete a) := words_of _ (fun h => h)
theorem jobStart (a) : Statement (.jobStart a) := words_of _ (fun h => h)
theorem copyDelivery (a b) : Statement (.copyDelivery a b) := words_of _ (fun h => h)
theorem jobComplete (a) : Statement (.jobComplete a) := words_of _ (fun h => h)
theorem jobFault (a b) : Statement (.jobFault a b) := words_of _ (fun h => h)
theorem claspTimeout (a) : Statement (.claspTimeout a) := words_of _ (fun h => h)
theorem claimGrant (a) : Statement (.claimGrant a) := words_of _ (fun h => h)
theorem claimdl (a) : Statement (.claimdl a) := words_of _ (fun h => h)
theorem regroupExecute (a b) : Statement (.regroupExecute a b) := words_of _ (fun h => h)
theorem issueOpportunity (a) : Statement (.issueOpportunity a) := words_of _ (fun h => h)
theorem loadReturn (a b) : Statement (.loadReturn a b) := words_of _ (fun h => h)
theorem homeApplyWrite (a b) : Statement (.homeApplyWrite a b) := words_of _ (fun h => h)
theorem writeAck (a) : Statement (.writeAck a) := words_of _ (fun h => h)
theorem pageWalkComplete (a b c) : Statement (.pageWalkComplete a b c) := words_of _ (fun h => h)
theorem versionReclaim (a b c) : Statement (.versionReclaim a b c) := words_of _ (fun h => h)
theorem heldWriteRelease (a) : Statement (.heldWriteRelease a) := words_of _ (fun h => h)
theorem preemptStop (a b) : Statement (.preemptStop a b) := words_of _ (fun h => h)
theorem preemptDrainDone (a b) : Statement (.preemptDrainDone a b) := words_of _ (fun h => h)
theorem saveComplete (a) : Statement (.saveComplete a) := words_of _ (fun h => h)
theorem queueWake (a) : Statement (.queueWake a) := words_of _ (fun h => h)
theorem unmappedWake (a) : Statement (.unmappedWake a) := words_of _ (fun h => h)
theorem packetLaunch (a) : Statement (.packetLaunch a) := words_of _ (fun h => h)
theorem packetPool (a) : Statement (.packetPool a) := words_of _ (fun h => h)
theorem packetBarrier (a) : Statement (.packetBarrier a) := words_of _ (fun h => h)
theorem packetNop (a) : Statement (.packetNop a) := words_of _ (fun h => h)
theorem badpkt (a) : Statement (.badpkt a) := words_of _ (fun h => h)
theorem barrierComplete (a) : Statement (.barrierComplete a) := words_of _ (fun h => h)
theorem dispatchStep (a) : Statement (.dispatchStep a) := words_of _ (fun h => h)
theorem teamRetire (a) : Statement (.teamRetire a) := words_of _ (fun h => h)
theorem poolRecordTake (a) : Statement (.poolRecordTake a) := words_of _ (fun h => h)
theorem binTimedFlush (a b) : Statement (.binTimedFlush a b) := words_of _ (fun h => h)
theorem rampTick : Statement .rampTick := words_of _ (fun h => h)
theorem launchSaveWrite (a) : Statement (.launchSaveWrite a) := words_of _ (fun h => h)
theorem watchdogExpiry (a) : Statement (.watchdogExpiry a) := words_of _ (fun h => h)
theorem remoteGiveUp (a) : Statement (.remoteGiveUp a) := words_of _ (fun h => h)
theorem checkpointBlock : Statement .checkpointBlock := words_of _ (fun h => h)
theorem checkpointEnd : Statement .checkpointEnd := words_of _ (fun h => h)
theorem evidenceSigned : Statement .evidenceSigned := words_of _ (fun h => h)
theorem powerCapApply : Statement .powerCapApply := words_of _ (fun h => h)
theorem fullConditionClear (a) : Statement (.fullConditionClear a) := words_of _ (fun h => h)
theorem onCoreError (a b c) : Statement (.onCoreError a b c) := words_of _ (fun h => h)
theorem lanectlComplete (a b) : Statement (.lanectlComplete a b) := words_of _ (fun h => h)
theorem lanectlRetry (a b) : Statement (.lanectlRetry a b) := words_of _ (fun h => h)
theorem lanectlKill (a b) : Statement (.lanectlKill a b) := words_of _ (fun h => h)
theorem lanectlSetpc (a b) : Statement (.lanectlSetpc a b) := words_of _ (fun h => h)
theorem jobctlResume (a b) : Statement (.jobctlResume a b) := words_of _ (fun h => h)
theorem jobctlFail (a b) : Statement (.jobctlFail a b) := words_of _ (fun h => h)
theorem savectlSave (a b) : Statement (.savectlSave a b) := words_of _ (fun h => h)
theorem savectlRestore (a b) : Statement (.savectlRestore a b) := words_of _ (fun h => h)
theorem savectlDiscard (a b) : Statement (.savectlDiscard a b) := words_of _ (fun h => h)
theorem sqpop (a) : Statement (.sqpop a) := words_of _ (fun h => h)
theorem invcmd (a b) : Statement (.invcmd a b) := words_of _ (fun h => h)
theorem artCommit (a b c) : Statement (.artCommit a b c) := words_of _ (fun h => h)
theorem artClear (a b c) : Statement (.artClear a b c) := words_of _ (fun h => h)
theorem inbCommit (a b) : Statement (.inbCommit a b) := words_of _ (fun h => h)
theorem inbClear (a b) : Statement (.inbClear a b) := words_of _ (fun h => h)
theorem registerWrite (a b) : Statement (.registerWrite a b) := words_of _ (fun h => h)
theorem rowCommit (a b) : Statement (.rowCommit a b) := words_of _ (fun h => h)
theorem rowUnmap (a b) : Statement (.rowUnmap a b) := words_of _ (fun h => h)
theorem holdClear (a) : Statement (.holdClear a) := words_of _ (fun h => h)
theorem holdSet (a) : Statement (.holdSet a) := words_of _ (fun h => h)
theorem preemptSet (a) : Statement (.preemptSet a) := words_of _ (fun h => h)
theorem preemptClear (a) : Statement (.preemptClear a) := words_of _ (fun h => h)
theorem evpop : Statement .evpop := words_of _ (fun h => h)
theorem destroy (a) : Statement (.destroy a) := words_of _ (fun h => h)
theorem destroyForce (a) : Statement (.destroyForce a) := words_of _ (fun h => h)
theorem failbar (a) : Statement (.failbar a) := words_of _ (fun h => h)
theorem deviceReset : Statement .deviceReset := words_of _ (fun h => h)
theorem thermalStop (a) : Statement (.thermalStop a) := words_of _ (fun h => h)
theorem hotReset : Statement .hotReset := words_of _ (fun h => h)
theorem linkDown : Statement .linkDown := words_of _ (fun h => h)
theorem linkUp : Statement .linkUp := words_of _ (fun h => h)
theorem functionLevelReset (a) : Statement (.functionLevelReset a) := words_of _ (fun h => h)
theorem driverStatusChange (a b) : Statement (.driverStatusChange a b) := words_of _ (fun h => h)
theorem virtioRequest (a b) : Statement (.virtioRequest a b) := words_of _ (fun h => h)
theorem hostev : Statement .hostev := words_of _ (fun h => h)
theorem inboundAccess (a b) : Statement (.inboundAccess a b) := words_of _ (fun h => h)
theorem ckcmd (a) : Statement (.ckcmd a) := words_of _ (fun h => h)
theorem areq (a) : Statement (.areq a) := words_of _ (fun h => h)
theorem mrExtend (a b) : Statement (.mrExtend a b) := words_of _ (fun h => h)
theorem pcap (a) : Statement (.pcap a) := words_of _ (fun h => h)
theorem contextEnd (a) : Statement (.contextEnd a) := words_of _ (fun h => h)
theorem weaberLinkDown (a) : Statement (.weaberLinkDown a) := words_of _ (fun h => h)
theorem weaberLinkUp (a) : Statement (.weaberLinkUp a) := words_of _ (fun h => h)
theorem powerLoss : Statement .powerLoss := words_of _ (fun h => h)
theorem dynamicAddress (a) : Statement (.dynamicAddress a) := words_of _ (fun h => h)

end Sys2Proof.Laws.Length
end

