-- ==== Sys2Proof/Tests/Slice0.lean ====
section
/-! SUPPORT. Tests: what the checks of the decoder refuse, words written out from the encoding tables, single steps on a
small machine, and, for every statement with hypotheses, a concrete state and operands that meet them (`witness_…`). -/

set_option Elab.async false

namespace Sys2Proof.Tests

open Sys2Proof Sys2Proof.Machine
open Host (Outcome)

/-! ## A small machine -/

/-- One core, one cluster, one matrix engine, one row, and the launch of `State.loaded`: 32 lanes of one group at 0x10000,
of which those of `m` issue. -/
def machine (m : Word) : State :=
  { ({ cores := [{}], tus := [{}], engines := [{}], rows := [{}] } : State).loaded with
    issueQ := [], cur := { pc := 0x10000, lanes := m, words := [0x10000006] } }

/-- The same core with its keeper issuing. -/
def keeperMachine : State :=
  { machine 1 with
    groups := (machine 1).groups ++ [{ keeperGroup 0 with lanes := List.replicate 32 { st := .run, pc := 0x100 } }]
    cur := { slot := 15, pc := 0x100, lanes := 1, words := [0x10000006] } }

/-- The machine's group. -/
def group0 : Group := loadGroup

/-- The path that issues. -/
def pathOf (s : State) (x : Exts) : Path :=
  (s.path x).getD { core := 0, slot := 0, g := group0, I := 0, L := 0, base := 0, next := 0 }

/-- What makes a path issue, as one check. -/
def issuesOk (s : State) (x : Exts) : Bool :=
  decide (s.path x = some (pathOf s x)) && decide ((pathOf s x).I ≠ 0) && decide ((pathOf s x).g.lanes.length = 32)
    && !decide ((pathOf s x).slot < 15 ∧ (s.coreBlock (pathOf s x).core).stepMask.getLsbD (pathOf s x).slot = true)

theorem issues_of_ok {s : State} {x : Exts} (h : issuesOk s x = true) : s.Issues x (Exts.guard x) (pathOf s x) := by
  simp only [issuesOk, Bool.and_eq_true, decide_eq_true_eq, Bool.not_eq_true', decide_eq_false_iff_not] at h
  exact ⟨h.1.1.1, h.1.1.2, h.1.2, h.2⟩

/-- The state after a step or an instruction. -/
def after (o : Outcome State Fault Refusal) : Option State :=
  match o with
  | .next t => some t
  | _ => none

/-- No reduction is under way. -/
theorem aligned_of_nil {s : State} (h : s.upartials = []) (k : s.writes = []) : s.WordsAligned := by
  refine ⟨?_, ?_⟩ <;> simp [h, k]

/-- The machine with its group, team or core block changed. -/
def withGroup (s : State) (f : Group → Group) : State := s.modGroup 0 0 f
def withTeam (s : State) (f : Team → Team) : State := s.modTeam 0 f
def withCore (s : State) (f : CoreBlock → CoreBlock) : State := s.modCore 0 f

/-! ## The decoder's checks -/

/-- Unused fields and kinds (R66, R77): S64 is no uniform register, P8 no destination, an odd register no pair; C is zero
where it is unused; a tile, a route register, a loop counter and a clasp field have their ranges. -/
theorem test_kinds_refused :
    encodable (.iadd [] 127 127 127) = true ∧ encodable (.sadd [] 64 0 0) = false ∧ encodable (.icmp [] 8 0 0) = false
    ∧ encodable (.faddF64 [] 1 0 0) = false ∧ encodable (.iadd [.operand 1 7 0 0] 0 0 0) = false
    ∧ encodable (.mzero [] 8) = false ∧ encodable (.qset [] 4 0) = false ∧ encodable (.loopi [] 3 1 1) = false
    ∧ encodable (.arrive [] 0x04) = false ∧ encodable (.arrive [] 0x38) = false ∧ encodable (.pand [] 0 0x0D 0) = false
    ∧ encodable (.dwaddF64 [] 2 0 0) = false := by decide +kernel

/-- SRC (R79, R85, R271): no uniform mark on a quad or a uniform operand, at most one form of a memory operand, AU of MLD. -/
theorem test_marks_refused :
    encodable (.iadd [.operand 0 7 2 0] 0 0 64) = false ∧ encodable (.iadd [.operand 0 7 2 0] 0 0 63) = true
    ∧ encodable (.dwaddF64 [.operand 0 7 4 0] 0 0 0) = false ∧ encodable (.sadd [.operand 0 7 4 0] 0 0 0) = false
    ∧ encodable (.ld [.operand 0 7 6 0] 0 0 0) = false ∧ encodable (.ld [.operand 0 7 2 0] 0 1 0) = false
    ∧ encodable (.mld [] 0 0) = false ∧ encodable (.mld [.operand 0 7 4 0] 0 0) = true := by decide +kernel

/-- Facets (R80, R81): an undefined code, and a facet on an operand that is uniform or takes none. -/
theorem test_facets_refused :
    encodable (.iadd [.facet 0x21 0 0] 0 0 0) = true ∧ encodable (.iadd [.facet 0x01 0 0] 0 0 0) = false
    ∧ encodable (.iadd [.facet 0x65 0 0] 0 0 0) = false ∧ encodable (.sadd [.facet 0x21 0 0] 0 0 0) = false
    ∧ encodable (.iadd [.operand 0 7 4 0, .facet 0x21 0 0] 0 0 0) = false := by decide +kernel

/-- FAM (R136, R171, R183, R249): an undefined operation, modifier, order, width and scope; CVT between equal formats. -/
theorem test_modifiers_refused :
    encodable (.redIV [.operand 0 7 0 6] 0 0) = false ∧ encodable (.redIV [.operand 0 7 0 0x0B] 0 0) = false
    ∧ encodable (.scanF [.operand 0 7 0 4] 0 0) = false ∧ encodable (.imul [.operand 0 7 0 1] 0 0 0) = false
    ∧ encodable (.ld [.operand 0 7 0 0x10] 0 0 0) = false ∧ encodable (.st [.operand 0 7 0 0x40] 0 0 0) = false
    ∧ encodable (.ld [.operand 0 7 0 1] 0 0 0) = false ∧ encodable (.cvt [] 0 0 1 1) = false
    ∧ encodable (.cvt [] 0 0 1 0x10) = false := by decide +kernel

/-- Extension words (R67, R70, R71): two of one type, three, an operand extension before BRA, an immediate extension before
IADD; LD.C with CB (R250); the word of all zeros (R68); a step of the device has no words. -/
theorem test_extensions_refused :
    encodable (.iadd [.control 1 0 0 0, .control 1 0 0 0] 0 0 0) = false
    ∧ encodable (.iadd [.operand 0 7 0 0, .facet 0 0 0, .control 0 0 0 0] 0 0 0) = false
    ∧ encodable (.bra [.operand 0 7 0 0] 0 0 1) = false ∧ encodable (.bra [.control 1 0 0 0] 0 0 1) = true
    ∧ encodable (.iadd [.imm 1] 0 0 0) = false ∧ encodable (.smovi [.imm 1] 0 0) = true
    ∧ encodable (.ld [.operand 0 7 1 0x200] 0 0 0) = false ∧ encodable (.bra [] 0 0 0) = false
    ∧ encodable .rampTick = false ∧ encode .rampTick = [] := by decide +kernel

/-- A step that ends in an ill-formed word: reserved fields of extension words, a lone extension, an unassigned FN. -/
theorem test_words_refused :
    decode [0xF9000001, 0x40082060] = .error .reservedField ∧ decode [0xF800E000] = .error .truncated
    ∧ decode [0xF800E000, 0xF800E000, 0x40082060] = .error .sameType
    ∧ decode [0xF800E000, 0xF9000000, 0xFB000000] = .error .threeExtensions
    ∧ decode [0x10000008] = .error .unassigned ∧ decode [0xFC000000] = .error .unassigned := by decide +kernel

/-! ## Words written out from the encoding tables (R65 to R67, R86 to R91): D in [25:19], A in [18:12], B in [11:5] -/

theorem test_decode_integer :
    decode [0x20082060] = .ok (.sadd [] 1 2 3, []) ∧ decode [0x24080005] = .ok (.smovi [] 1 5, [])
    ∧ decode [0x2800000F] = .ok (.sread [] 0 0x00F, []) ∧ decode [0x2C002010] = .ok (.swrite [] 2 0x010, [])
    ∧ decode [0x40082060] = .ok (.iadd [] 1 2 3, []) ∧ decode [0x48082060] = .ok (.pand [] 1 2 3, [])
    ∧ decode [0x4C082010] = .ok (.voteS [] 1 2, []) := by decide +kernel

theorem test_decode_extensions :
    decode [0xF800E800, 0x40082060] = .ok (.iadd [.operand 0 7 2 0] 1 2 3, [])
    ∧ decode [0xF9420000, 0x40082060] = .ok (.iadd [.facet 0x21 0 0] 1 2 3, [])
    ∧ decode [0xFA000010, 0x24080005] = .ok (.smovi [.imm 1] 1 5, [])
    ∧ decode [0xFB100000, 0x40082060] = .ok (.iadd [.control 1 0 0 0] 1 2 3, []) := by decide +kernel

theorem test_decode_float :
    decode [0x70082060] = .ok (.fadd [] 1 2 3, []) ∧ decode [0x741040C0] = .ok (.faddF64 [] 2 4 6, [])
    ∧ decode [0x78082060] = .ok (.fdiv [] 1 2 3, []) ∧ decode [0x78082006] = .ok (.fsin [] 1 2, [])
    ∧ decode [0x7C1040C0] = .ok (.fdivF64 [] 2 4 6, []) ∧ decode [0x8008202A] = .ok (.cvt [] 1 2 1 0x0A, [])
    ∧ decode [0x84082000] = .ok (.redFV [] 1 2, []) ∧ decode [0x88082002] = .ok (.qset [] 1 2, [])
    ∧ decode [0x880003E1] = .ok (.flgc [] 0x1F, []) := by decide +kernel

theorem test_decode_memory :
    decode [0xB0082004] = .ok (.ld [] 1 2 4, []) ∧ decode [0xB4082004] = .ok (.st [] 1 2 4, [])
    ∧ decode [0xB8082060] = .ok (.atomAdd [] 1 2 3, []) ∧ decode [0xBC002060] = .ok (.redMAdd [] 2 3, [])
    ∧ decode [0xC0002060] = .ok (.mwait [] 2 3, []) ∧ decode [0xC0002002] = .ok (.icinv [] 2, [])
    ∧ decode [0xC4080000] = .ok (.snap [] 1, []) ∧ decode [0xC4080003] = .ok (.txc [] 1, []) := by decide +kernel

theorem test_decode_engines_and_system :
    decode [0xD8082060] = .ok (.mma [] 1 2 3, []) ∧ decode [0xD8080001] = .ok (.mzero [] 1, [])
    ∧ decode [0xDC002060] = .ok (.copy [] 2 3, []) ∧ decode [0xE0002000] = .ok (.arrive [] 2, [])
    ∧ decode [0xE0082001] = .ok (.wait [] 1 2, []) ∧ decode [0xE4000060] = .ok (.rclaim [] 3, [])
    ∧ decode [0xE4002062] = .ok (.regroup [] 2 3, []) ∧ decode [0xF0002080] = .ok (.sysc [] 2 4, [])
    ∧ decode [0xF0082003] = .ok (.mbxrd [] 1 2, []) := by decide +kernel

/-- The host's two questions on one row: the decoder reads NOP, and the first step after reset runs it (R168). -/
theorem test_first_step_runs :
    decodeTableWord 32 0x10000006 = some (.nop [])
    ∧ ((after (step (State.reset.withFetchWord 32 0x10000006))).bind (fun t => t.group? 0 0)).map
        (fun g => (g.lane 31).pc) = some 0x10004 := by decide +kernel

/-! ## Witnesses: fetching, decoding, every step -/

/-- A machine whose next issue is at a word. -/
def fetching (w : Nat) : State := (machine 0).withFetchWord 32 w
def firstIssue : Issue := { pc := 0x10000, lanes := 0xFFFFFFFF }

theorem witness_StepRunsTheDecodedInstruction :
    (fetching 0x10000006).issueQ = [firstIssue] ∧ (fetching 0x10000006).group? 0 0 = some group0
    ∧ issuingLanes firstIssue group0 ≠ 0
    ∧ ({ fetching 0x10000006 with issueQ := [] } : State).fetch group0 0x10000 = .words [0x10000006]
    ∧ decode [0x10000006] = .ok (.nop [], []) := by decide +kernel

theorem witness_StepRunsTheAgenda :
    ({ machine 1 with agenda := [.rampTick] } : State).issueQ = []
    ∧ ({ machine 1 with agenda := [.rampTick] } : State).agenda = [.rampTick]
    ∧ (machine 1).issueQ = [] ∧ (machine 1).agenda = [] := by decide +kernel

/-- A group whose lanes stand outside the text; a word that decodes to nothing. -/
theorem witness_FetchTraps :
    (withGroup (fetching 0) (fun g => { g with lanes := List.replicate 32 { st := .run, pc := 0x1000 } })).inText group0 0x1000 = false
    ∧ issuingLanes { firstIssue with pc := 0x1000 } { group0 with lanes := List.replicate 32 { st := .run, pc := 0x1000 } } ≠ 0
    ∧ ({ fetching 0x10000008 with issueQ := [] } : State).fetch group0 0x10000 = .words [0x10000008]
    ∧ decode [0x10000008] = .error .unassigned ∧ group0.lanes.length = 32 := by decide +kernel

/-- A text page without the X right, in the TLB and by a walk; one whose sector fails. -/
def textPage (pte : DWord) : State :=
  { fetching 0x10000006 with issueQ := [], tlb := [{ unit := 0, ctx := 1, page := 0, log := 30, pte := pte }], retired := [16] }
theorem witness_FetchFaults :
    let s := textPage 0x0C00000000000000
    s.inText group0 0x10000 = true ∧ s.teamOf group0 = some loadTeam ∧ s.tlbHit 0 1 0x10000 = some ⟨0x0C00000000000000, 30⟩
    ∧ bitN 0x0C00000000000000 57 = false ∧ (fetching 0).tlbHit 0 1 0x10000 = none
    ∧ (fetching 0).walk .fetch 0x10000 loadTeam.ctx.ptroot 4 = .ok ⟨0xCE00000000000000, 30⟩
    ∧ bitN 0xCE00000000000000 57 = true ∧ bitN 0xCE00000000000000 55 = false ∧ s.backed 0x10000 = true
    ∧ (textPage 0x0E00000000000000).textCopy group0 .mem 512 = none ∧ (textPage 0x0E00000000000000).readFails 0x10000 = true := by
  decide +kernel

/-- A group of one granule names V127. -/
def narrow : State := withGroup (machine 1) (fun g => { g with alloc := 1 })
theorem witness_AbsentRegistersTrap :
    ∃ m, vectorMeaning (.iadd [] 127 1 2) (pathOf narrow []).g = some m
      ∧ narrow.Issues m.1 (Exts.guard m.1) (pathOf narrow []) ∧ (pathOf narrow []).L ≠ 0
      ∧ (pathOf narrow []).g.hasRegs m.2.1 = false :=
  ⟨_, rfl, issues_of_ok (by decide +kernel), by decide +kernel, by decide +kernel⟩

theorem witness_DecodeAndEncodeAgree :
    (Instr.iadd [.facet 0x21 0 0] 127 1 2).WellFormed ∧ decode [0xFA000010, 0x24080005, 7] = .ok (.smovi [.imm 1] 1 5, [7]) := by
  decide +kernel

theorem witness_EveryStepAnswers : (machine 1).AgendaOk ∧ ({ machine 1 with agenda := [.rampTick] } : State).AgendaOk := by
  constructor
  · intro e h; cases h
  · intro e h; cases h with
    | head => decide +kernel
    | tail _ h => cases h

theorem witness_MemoryStaysCanonical :
    (machine 1).MemWf ∧ Memory.wf (machine 1).mem = true ∧ (machine 1).mem ≠ [] := by
  refine ⟨⟨?_, ?_, ?_⟩, ?_, ?_⟩ <;> decide +kernel

theorem witness_InvariantsOfGroupsAndRequests :
    (machine 1).GroupsWf ∧ keeperMachine.SlotsApart ∧ (machine 1).AgendaOk ∧ (machine 1).WordsAligned := by
  refine ⟨?_, ?_, witness_EveryStepAnswers.1, aligned_of_nil (by decide +kernel) (by decide +kernel)⟩
  · have h : ∀ g ∈ (machine 1).groups, (decide (g.lanes.length = 32) && SMapWf g.v && SMapWf g.s && SMapWf g.t
        && SMapWf g.m && SMapWf g.g) = true := by decide +kernel
    intro g hg
    have := h g hg
    simp only [Bool.and_eq_true, decide_eq_true_eq] at this
    obtain ⟨⟨⟨⟨⟨a, b⟩, c⟩, d⟩, e⟩, f⟩ := this
    exact ⟨a, b, c, d, e, f⟩
  · show List.Pairwise _ _
    decide +kernel

/-! ## Witnesses: registers -/

theorem witness_RegistersAndFacets :
    group0.q.length = 4 ∧ ((group0.modLane 3 (fun l => { l with st := .exit })).lane 3).st = .exit
    ∧ (group0.lane 0).st = .run ∧ (62 : Nat) < 63 ∧ (31 : Nat) < 32 ∧ (6 : Nat) < 7 := by decide +kernel

theorem witness_NetworksAndWordOperations : (0x80000000 : Word) ≠ 0 ∧ benes 1 0 ≠ 0 ∧ benes 1 0 < 32 := by decide +kernel

/-! ## Witnesses: exceptions -/

theorem witness_TakingAnException :
    (machine 1).group? 0 0 = some group0 ∧ group0.lanes.length = 32
    ∧ (withCore (machine 1) (fun c => { c with stepMask := 1 })).path [] = some (pathOf (machine 1) [])
    ∧ (pathOf (machine 1) []).I ≠ 0 ∧ (pathOf (machine 1) []).slot < 15
    ∧ ((withCore (machine 1) (fun c => { c with stepMask := 1 })).coreBlock 0).stepMask.getLsbD 0 = true := by decide +kernel

/-- An instruction of the group alone, and what an issue leaves, in a slot with step enabled. -/
def stepping : State := withCore (machine 3) (fun c => { c with stepMask := 1 })
theorem witness_StepTraps :
    stepping.IssuesStepped [] (Exts.guard []) (pathOf stepping []) ∧ (pathOf stepping []).L = 3
    ∧ (pathOf stepping []).g.hasRegs (useAB [] 2 3 1 1 1) = true ∧ (vectorMeaning (.iadd [] 1 2 3) group0).isSome = true
    ∧ stepping.group? 0 0 = some group0 ∧ (∀ j, ¬((1 : Word).getLsbD j = true ∧ (2 : Word).getLsbD j = true))
    ∧ ([(2, { code := 3 })] : List (Nat × SvcRecord)).all (fun r => !(1 : Word).getLsbD r.1 && !(2 : Word).getLsbD r.1) = true := by
  refine ⟨⟨?_, ?_, ?_, ?_⟩, ?_, ?_, rfl, ?_, ?_, ?_⟩
  all_goals first | decide +kernel | skip
  intro j h
  rcases j with _ | _ | j
  · exact absurd h.2 (by decide)
  · exact absurd h.1 (by decide)
  · have := h.1
    simp [BitVec.getLsbD, Nat.testBit_succ] at this

theorem witness_RecordsAreDelivered :
    ({ code := 0x11 } : SvcRecord).toMailbox = true ∧ ({ code := 0x03 } : SvcRecord).toMailbox = false
    ∧ 0 < (machine 1).cores.length ∧ 0 / 32 < (machine 1).tus.length
    ∧ (machine 1).backedRange ((machine 1).mbxPa 0) 64 = true ∧ (machine 1).backedRange ((machine 1).mbxPa 0 + 0x8000) 4 = true
    ∧ (machine 1).backedRange (((machine 1).tu 0).sqBase.toNat + 64 * 511) 64 = true := by decide +kernel

/-- Lanes that hold records: two by their own traps, the others running. -/
def trapped (st : ParkCause) (code : Byte) : State :=
  withGroup (machine 1) (fun g => { g with lanes :=
    (List.replicate 2 { st := .park st, pc := 0x10000, after := 0x10004, svc := some { code := code } }
      ++ List.replicate 30 { st := .run, pc := 0x10000 }) })

theorem witness_ReturningFromAnException :
    0 < (trapped .fault 0x03).ncores ∧ ((trapped .fault 0x03).group? 0 (selSlot 3)).map (fun g => g.lanes.length) = some 32
    ∧ (trapped .fault 0x03).signetHeld 0 = false ∧ (trapped .fault 0x03).halted = false
    ∧ ({ trapped .fault 0x03 with writes := [{ id := 1, core := busUnit (.signet 0 .m), slot := 0, team := none, ctx := 1, space := .mem, line := 0, kind := .store [], held := true }] } : State).signetHeld 0 = true
    ∧ selGen 3 = (trapped .fault 0x03).gen 0 0 ∧ selGen 0x0001000000000003 ≠ (trapped .fault 0x03).gen 0 0
    ∧ selAct 3 = 0 ∧ selAct (3 + 2 ^ 38) = 1 ∧ selAct (3 + 2 * 2 ^ 38) = 2 ∧ selAct (3 + 3 * 2 ^ 38) = 3
    ∧ (trapped .fault 0x03).selected 0 3 false = 3 := by decide +kernel

/-- KILL of the only live lanes of a group. -/
def lastTrapped : State := withGroup (machine 1) (fun g => { g with lanes :=
  ({ st := .park .fault, pc := 0x10000, after := 0x10004, svc := some { code := 0x03 } } :: List.replicate 31 { st := .exit }) })

theorem witness_LanectlKillsTheLast :
    lastTrapped.selected 0 (1 + 2 * 2 ^ 38) false = 1
    ∧ (∀ j, j < 32 → (1 : Word).getLsbD j = false → ((lastTrapped.group? 0 0).map (fun g => (g.lane j).live)) = some false) := by
  decide +kernel

/-- FORWARD of a lane that waits on a system call: LANERES no longer selects it. -/
theorem witness_Forwards :
    let s := trapped .syscall 0x11
    (s.group? 0 0).map (fun g => (g.lanes.length, (g.lane 1).svc)) = some (32, some { code := 0x11 })
    ∧ 0 / 32 < s.tus.length ∧ (s.selected 0 3 true).getLsbD 1 = true
    ∧ ((s.actForward 0 0 (maskOf (· = 1))).selected 0 3 true).getLsbD 1 = false := by decide +kernel

theorem witness_KeeperInstructions :
    keeperMachine.Issues [] (Exts.guard []) (pathOf keeperMachine [])
    ∧ (pathOf keeperMachine []).slot = 15 ∧ (pathOf keeperMachine []).g.keeper = true ∧ (pathOf keeperMachine []).L ≠ 0
    ∧ keeperMachine.fenceReady 0 15 1 3 = true ∧ (pathOf keeperMachine []).g.hasRegs (vuse false 15 1) = true
    ∧ selSlot ((pathOf keeperMachine []).g.rs 1) < 15 ∧ invOk 0x100000001 = true :=
  ⟨issues_of_ok (by decide +kernel), by decide +kernel⟩

theorem witness_PrivilegeIsChecked :
    (machine 1).Issues [] (Exts.guard []) (pathOf (machine 1) []) ∧ (pathOf (machine 1) []).g.keeper = false
    ∧ (0x100 ≤ (0x100 : BitVec 12).toNat ∧ (0x1FF : BitVec 12).toNat < 0x200) :=
  ⟨issues_of_ok (by decide +kernel), by decide +kernel⟩

/-- The address of a lane's window in a pair of its group: V4 and V5 of lane 0. -/
def windowed : State := withGroup (machine 1) (fun g => g.wv2 4 0 0x01F0000000000000)

theorem witness_SystemCallsPark :
    windowed.Issues [] (Exts.guard []) (pathOf windowed []) ∧ (pathOf windowed []).L = 1 ∧ windowed.WordsAligned
    ∧ (pathOf windowed []).g.hasRegs (vuse false 0 1 ++ vuse false 4 2) = true ∧ windowed.fenceReady 0 0 2 3 = true :=
  ⟨issues_of_ok (by decide +kernel), by decide +kernel, aligned_of_nil (by decide +kernel) (by decide +kernel), by decide +kernel⟩

/-- The argument block in mapped memory passes (R309). -/
theorem witness_SystemCallsPass :
    (machine 1).syscCheck (pathOf (machine 1) []) 0x4000 = .ok 0x4000 := by decide +kernel

/-! ## Witnesses: what touches only the group -/

theorem witness_Performs :
    (machine 1).Issues [] (Exts.guard []) (pathOf (machine 1) []) ∧ (pathOf (machine 1) []).L = 1
    ∧ (pathOf (machine 1) []).g.hasRegs (useAB [] 2 3 1 1 1) = true
    ∧ (uniformMeaning (.sadd [] 1 2 3) group0).isSome = true ∧ (vectorMeaning (.iadd [] 1 2 3) group0).isSome = true
    ∧ (predicateMeaning (.voteS [] 1 2) group0 1).isSome = true ∧ (fp32Meaning (.fadd [] 1 2 3) group0).isSome = true
    ∧ (fp64Meaning (.faddF64 [] 2 4 6) group0).isSome = true :=
  ⟨issues_of_ok (by decide +kernel), by decide +kernel, by decide +kernel, rfl, rfl, rfl, rfl, rfl⟩

/-- A window base below 0 and one above 508. -/
theorem witness_WindowBaseOutOfRange :
    (machine 1).Issues [] (Exts.guard []) (pathOf (machine 1) []) ∧ (pathOf (machine 1) []).L ≠ 0
    ∧ ((pathOf (machine 1) []).g.wbase : Int) + (0xFFC : BitVec 12).toInt < 0
    ∧ 508 < ((pathOf (machine 1) []).g.wbase : Int) + (0x200 : BitVec 12).toInt :=
  ⟨issues_of_ok (by decide +kernel), by decide +kernel⟩

theorem witness_PerformsMore :
    (exactMeaning (.faddX [] 2 1 3) group0).isSome = true ∧ (convertMeaning (.cvt [] 1 2 1 0x0A) group0 1).isSome = true
    ∧ (registerMeaning (.wbase [] 508) group0 1).isSome = true ∧ (registerMeaning (.wbase [] 0xFFF) group0 1).isSome = false
    ∧ (registerMeaning (.tmovVt [] 1 7) group0 1).isSome = true := ⟨rfl, rfl, by decide +kernel, by decide +kernel, by decide +kernel⟩

theorem witness_FloatingPointLaws :
    (fp32.val 0x7FC00001).isNan = true ∧ (fp32.val 0x3F800000).isNan = false ∧ 0x7FC00001 < 2 ^ 32 := by decide +kernel

/-- 1, 2^−24 and 1.5 are finite and not subnormal; 1 + 2^−24 is a tie that .RN takes to the even 1, and .RU to the next. -/
theorem witness_RoundedArithmetic :
    (fp32.units 0x3F800000).isSome = true ∧ (fp32.units 0x33800000).isSome = true ∧ (fp64.units 0x3FF8000000000000).isSome = true
    ∧ fp32.isSub 0x3F800000 = false ∧ fp32.isSub 1 = true ∧ fp32.units 0x7F800000 = none ∧ fp32.units 0x80000001 = some (-1)
    ∧ fadd fp32 .rn false 0x3F800000 0x33800000 = (0x3F800000, FX) ∧ fadd fp32 .ru false 0x3F800000 0x33800000 = (0x3F800001, FX)
    ∧ fmul fp32 .rn false 0x00800000 0x3F000000 = (0x00400000, 0) ∧ fmul fp32 .rn true 0x00800000 0x3F000000 = (0, FF ||| FX)
    ∧ fadd fp32 .rn false 0x7F7FFFFF 0x7F7FFFFF = (0x7F800000, FO ||| FX)
    ∧ ffma fp32 .rd false 0x3F800000 0x3F800000 0xBF800000 = (0x80000000, 0) := by decide +kernel

/-- 1 ÷ 3, √2, 1 ÷ √4, 1.5 to the even integer; 1 + 2^−24 with its rest; 1 ÷ 10 from FP64 to FP32, and −1.5 to an integer. -/
theorem witness_RoundedQuotientsAndConversions :
    fdiv fp32 .rn false 0x3F800000 0x40400000 = (0x3EAAAAAB, FX) ∧ fdiv fp32 .rz false 0x3F800000 0x40400000 = (0x3EAAAAAA, FX)
    ∧ fdiv fp32 .rn false 0x3F800000 0x80000000 = (0xFF800000, FZ) ∧ fsqrt fp32 .rn false 0x40000000 = (0x3FB504F3, FX)
    ∧ frsq fp32 .rn false 0x40800000 = (0x3F000000, 0) ∧ frcp fp32 .rn false 0x40400000 = (0x3EAAAAAB, FX)
    ∧ frnd fp32 .rn false 0x3FC00000 = (0x40000000, 0) ∧ frnd fp32 .rz false 0xBFC00000 = (0xBF800000, 0)
    ∧ faddX fp32 0x3F800000 0x33800000 = (0x3F800000, 0x33800000, FX)
    ∧ (∃ f, cvtFmt 0 = .flt f ∧ f.width = 64) ∧ cvtFmt 12 = .int true 32
    ∧ cvt 0 1 .rn false false false 0x3FB999999999999A = (0x3DCCCCCD, FX)
    ∧ cvt 1 12 .rz false false false 0xBFC00000 = (0xFFFFFFFF, FX) := by
  refine ⟨?_, ?_, ?_, ?_, ?_, ?_, ?_, ?_, ?_, ⟨_, rfl, rfl⟩, ?_, ?_, ?_⟩ <;> decide +kernel

/-- Each number that SREAD reads, at the ends of its ranges. -/
theorem witness_SpecialRegisters :
    (machine 8).Issues [] (Exts.guard []) (pathOf (machine 8) [])
    ∧ ((pathOf (machine 8) []).L.getLsbD 3 = true ∧ ∀ k, k < 3 → (pathOf (machine 8) []).L.getLsbD k = false)
    ∧ (machine 8).teamOf (pathOf (machine 8) []).g = some loadTeam ∧ (0x201 : BitVec 12).toNat ≥ 0x200 :=
  ⟨issues_of_ok (by decide +kernel), by decide +kernel⟩

/-! ## Witnesses: control flow -/

theorem witness_Branches :
    (fetching 0).issueQ = [firstIssue] ∧ issuingLanes firstIssue group0 ≠ 0
    ∧ ({ fetching 0 with issueQ := [] } : State).fetch group0 0x10000 = .words [0]
    ∧ (machine 1).Issues [] ((0 : BitVec 1) ++ (7 : BitVec 3)) (pathOf (machine 1) [])
    ∧ (pathOf (machine 1) []).g.hasRegs (vuse (Exts.uniA []) 3 1) = true :=
  ⟨by decide +kernel, by decide +kernel, by decide +kernel, issues_of_ok (x := []) (by decide +kernel), by decide +kernel⟩

/-- Lane 0 has no room left on its return stack, lane 1 has. -/
def deep : State := withGroup (machine 3) (fun g => g.modLane 0 (fun l => { l with rets := [4, 8, 12, 16] }))
theorem witness_CallsAndReturns :
    deep.Issues [] ((0 : BitVec 1) ++ (7 : BitVec 3)) (pathOf deep [])
    ∧ (∀ j, (1 : Word).getLsbD j = ((pathOf deep []).L.getLsbD j
        && decide (deep.callmax (pathOf deep []).g ≤ ((pathOf deep []).g.lane j).rets.length)) ∨ 2 ≤ j)
    ∧ (∀ j, j < 32 → (2 : Word).getLsbD j = ((pathOf deep []).L.getLsbD j && decide (((pathOf deep []).g.lane j).rets = []))) := by
  refine ⟨issues_of_ok (x := []) (by decide +kernel), fun j => ?_, by decide +kernel⟩
  rcases j with _ | _ | j
  · left; decide +kernel
  · left; decide +kernel
  · right; omega

/-- Lane 0's entry stands in a retired frame, wherever the area is; the other lanes are at depth 0. -/
def lostEntry : State :=
  { deep with retired := [(loadTeam.ctx.retBase + Config.returnArea 0 0 + 128 * 3 + 4 * 0) / 4096] }
theorem witness_ReturnsFromALostEntry :
    lostEntry.Issues [] (Exts.guard []) (pathOf lostEntry []) ∧ lostEntry.faulty = [] ∧ deep.faulty = []
    ∧ lostEntry.teamOf (pathOf lostEntry []).g = some loadTeam
    ∧ (loadTeam.ctx.retBase + Config.returnArea 0 0 + 128 * 3 + 4 * 0) / 4096 ∈ lostEntry.retired
    ∧ ((pathOf lostEntry []).g.lane 0).rets.length = 4 ∧ (pathOf lostEntry []).L.getLsbD 0 = true :=
  ⟨issues_of_ok (by decide +kernel), rfl, rfl, by decide +kernel, List.mem_cons_self .., by decide +kernel, by decide +kernel⟩

theorem witness_Loops :
    (machine 1).Issues [] (Exts.guard []) (pathOf (machine 1) []) ∧ (pathOf (machine 1) []).L ≠ 0
    ∧ (pathOf (machine 1) []).base + 4 * (1 : BitVec 12).setWidth 64 = (pathOf (machine 1) []).next
    ∧ (pathOf (machine 1) []).base + 4 * (5 : BitVec 12).setWidth 64 ≠ (pathOf (machine 1) []).next
    ∧ ((pathOf (machine 1) []).g.rs 1).setWidth 32 = (0 : Word) :=
  ⟨issues_of_ok (by decide +kernel), by decide +kernel⟩

/-- Three counters that end at one address: of 1 and 2, with one start, 2 comes first; 0 has the lowest start. -/
def looping : Group := { group0 with lc := [⟨2, 0x200, 0x400⟩, ⟨1, 0x300, 0x400⟩, ⟨1, 0x300, 0x400⟩] }
theorem witness_BackEdges :
    looping.lc.length = 3 ∧ (∀ n, n < 3 → (looping.lc.getD n {}).count ≠ 0 ∧ (looping.lc.getD n {}).stop = 0x400)
    ∧ (looping.lc.getD 2 {}).start = (looping.lc.getD 1 {}).start
    ∧ (looping.lc.getD 0 {}).start.toNat < (looping.lc.getD 1 {}).start.toNat
    ∧ ((upd looping.lc 0 (fun _ => {})).getD 0 {}).count = 0 := by decide +kernel

/-- EXIT of lane 0: in one group it is the last live lane, in the other it is not. -/
def lastLane : State := withGroup (machine 1) (fun g => { g with lanes := { st := .run, pc := 0x10000 } :: List.replicate 31 { st := .exit } })
theorem witness_Exits :
    lastLane.Issues [] (Exts.guard []) (pathOf lastLane []) ∧ (pathOf lastLane []).L ≠ 0 ∧ (pathOf lastLane []).off = 0
    ∧ (∀ j, j < 32 → (pathOf lastLane []).L.getLsbD j = false → ((pathOf lastLane []).g.lane j).live = false)
    ∧ ((pathOf (machine 1) []).L.getLsbD 1 = false ∧ ((pathOf (machine 1) []).g.lane 1).live = true) :=
  ⟨issues_of_ok (by decide +kernel), by decide +kernel⟩

/-- Lanes 0 and 1 stand at a CJOIN on S1 with the mask 3, the others run: 0 and 1 leave. With lane 1 running none does. -/
def joined (l : Lane) : State := withGroup (machine 1) (fun g => { g with lanes :=
  ({ st := .park (.join 1 3), after := 0x10004 } :: l :: List.replicate 30 { st := .run, pc := 0x10000 }) })
theorem witness_Joins :
    ((joined { st := .park (.join 1 3), after := 0x10004 }).group? 0 0).map (fun g => ((g.lane 0).st, (g.lane 1).st, (g.lane 2).st))
      = some (.park (.join 1 3), .park (.join 1 3), .run)
    ∧ ((joined { st := .exit }).group? 0 0).map (fun g => (g.lane 1).st) = some .exit
    ∧ ((joined { st := .run }).group? 0 0).map (fun g => (g.lane 1).st) = some .run := by decide +kernel

/-! ## Witnesses: memory instructions as a group issues them -/

/-- The alignment of requests as one check. -/
def kindAligned (k : WriteKind) : Bool :=
  match k with
  | .reduce _ l => l.all (fun a => a.addr % 4 = 0)
  | .atom _ l _ => l.all (fun a => a.addr % 4 = 0)
  | .store _ => true

theorem aligned_of_ok {s : State} (h : s.upartials.all (fun u => u.addr % 4 = 0) = true)
    (k : s.writes.all (fun w => kindAligned w.kind) = true) : s.WordsAligned := by
  refine ⟨by simpa using h, fun w hw => ?_⟩
  have := List.all_eq_true.mp k w hw
  unfold kindAligned at this
  split <;> simp_all

/-- The first GiB as cached by the translation unit with an entry, and the team with a line of its window absent. -/
def cached (pte : DWord) : State := { machine 1 with tlb := [{ unit := 0, ctx := 1, page := 0, log := 30, pte := pte }] }
def waiting : State := withTeam (windowed) (fun t => { t with absent := [{ line := 0, entry := 9 }] })

theorem witness_MemoryChecks :
    let p := pathOf (machine 1) []
    (machine 1).teamOf p.g = some loadTeam ∧ (machine 1).team? loadTeam.id = some loadTeam
    ∧ (machine 1).check p 0x0200000000000000 16 16 .load true false
        = .trap { code := 0x05, sub := 1, kind := 1, addr := 0x0200000000000000 }
    ∧ (machine 1).check p 0x01F000000000FFFD 4 1 .load true false
        = .trap { code := 0x05, sub := 1, kind := 1, addr := 0x01F000000000FFFD }
    ∧ (machine 1).check p 0x4002 4 4 .store true true = .trap { code := 0x03, kind := 2, addr := 0x4002, auxa := 4 }
    ∧ (machine 1).check p 0x01F0000000000002 4 4 .load true false
        = .trap { code := 0x03, kind := 1, addr := 0x01F0000000000002, auxa := 4 }
    ∧ ({ machine 1 with retired := [4] } : State).lastCheck .store 0x4000 (.go { space := .mem, addr := 0x4000 })
        = .trap { code := 0x0B, kind := 2, addr := 0x4000, auxa := 0x4000 }
    ∧ (machine 1).check p 0x01F000000000FFFC 4 4 .load true false = .go { space := .scratch 0, addr := 0xFFFC } := by
  decide +kernel

theorem witness_MemoryChecksPresenceAndRights :
    waiting.check (pathOf waiting []) 0x01F0000000000000 4 4 .load true false = .park [(0, 0)]
    ∧ waiting.check (pathOf waiting []) 0x01F0000000000080 4 4 .load true false = .go { space := .scratch 0, addr := 0x80 }
    ∧ (cached 0x0E00000000000000).tlbHit 0 loadTeam.ctx.ctxid 0x4000 = some ⟨0x0E00000000000000, 30⟩
    ∧ (cached 0x0E00000000000000).check (pathOf (machine 1) []) 0x4000 4 4 .store true true
        = .go { space := .mem, addr := 0x4000 }
    ∧ (cached 0x0A00000000000000).check (pathOf (machine 1) []) 0x4000 4 4 .store true true
        = .trap { code := 0x05, kind := 2, addr := 0x4000, auxa := 0x0A00000000000000 } := by
  decide +kernel

theorem witness_FailedChecksTrap :
    (machine 1).Issues [] (Exts.guard []) (pathOf (machine 1) []) ∧ (machine 1).acquiring 0 0 = false
    ∧ (pathOf (machine 1) []).g.hasRegs (addrRegs [] 2 ++ vuse false 3 1 ++ vuse false 1 1) = true
    ∧ (machine 1).checkLoad [] (pathOf (machine 1) []) ((pathOf (machine 1) []).g.address [] 2 (memOff [] 2) 0) 4
        = .trap { code := 0x03, kind := 1, addr := 2, auxa := 4 }
    ∧ (machine 1).checkStore (pathOf (machine 1) []) ((pathOf (machine 1) []).g.address [] 2 (memOff [] 2) 0) 4 true
        = .trap { code := 0x03, kind := 2, addr := 2, auxa := 4 } :=
  ⟨issues_of_ok (by decide +kernel), by decide +kernel⟩

/-- An ATOM and a RED.M of a group whose V2 holds 2; an LD through a pair in an absent line. -/
def odd : State := withGroup (machine 1) (fun g => g.wv 2 0 2)
theorem witness_FailedAtomicsTrap :
    odd.checkRmw (pathOf odd []) ((pathOf odd []).g.address [] 2 0 0) .rmw false
      = .trap { code := 0x03, kind := 3, addr := 2, auxa := 4 }
    ∧ odd.checkRmw (pathOf odd []) ((pathOf odd []).g.address [] 2 0 0) .store true
      = .trap { code := 0x03, kind := 2, addr := 2, auxa := 4 }
    ∧ waiting.checkLoad [.operand 0 7 2 0] (pathOf waiting [.operand 0 7 2 0])
        ((pathOf waiting [.operand 0 7 2 0]).g.address [.operand 0 7 2 0] 4 0 0) 4 = .park [(0, 0)] := by decide +kernel

/-- The three forms of an address, and a plain load that passes. -/
theorem witness_LoadsIssue :
    (machine 1).Issues [] (Exts.guard []) (pathOf (machine 1) []) ∧ (pathOf (machine 1) []).L = 1 ∧ (machine 1).WordsAligned
    ∧ Exts.uniA [.operand 0 7 4 0] = true ∧ Exts.uniB [.operand 0 7 2 0] = true ∧ Exts.uniC [.operand 0 7 1 0] = true
    ∧ (machine 1).acquiring 0 0 = false
    ∧ (machine 1).checkLoad [] (pathOf (machine 1) []) ((pathOf (machine 1) []).g.address [] 2 (memOff [] 4) 0) 4
        = .go { space := .mem, addr := 4 }
    ∧ (pathOf (machine 1) []).g.peerPlace { space := .mem, addr := 4 } = false :=
  ⟨issues_of_ok (by decide +kernel), by decide +kernel, aligned_of_nil (by decide +kernel) (by decide +kernel), by decide +kernel⟩

/-- The same memory as cameo pages, with the snapshot 5 live and its number in S1. -/
def cameoMachine : State :=
  { withGroup (machine 1) (fun g => g.ws 1 5) with
    clock := 6,
    mem := ssets (machine 1).mem (pteBytes 0x20002000 0xCF00000000000000), snaps := [{ num := 5, ctx := 1 }] }

/-- LD.C at the snapshot 5, and a load from the window of a gang's other team. -/
def atSnapshot : Exts := [.operand 1 7 0 0x200]
def peered : State :=
  { withGroup (machine 1) (fun g => g.wv2 4 0 0x01F0000001100000) with
    teams := [{ loadTeam with gs := 2 }, { loadTeam with id := 1, lin := 1, rank := 1, gs := 2 }] }
theorem witness_LoadsReadNow :
    cameoMachine.checkLoad atSnapshot (pathOf cameoMachine atSnapshot) 4 4 = .go { space := .mem, addr := 4, cameo := true }
    ∧ snapPlaces (some 5) [(0, { space := .mem, addr := 4, cameo := true })] = [(0, { space := .mem, addr := 4, cameo := true })]
    ∧ cameoMachine.hidden 0 0 .mem 0 = false ∧ cameoMachine.issueServed 0 0 [0] = true
    ∧ peered.checkLoad [.operand 0 7 2 0] (pathOf peered [.operand 0 7 2 0]) 0x01F0000001100000 4
        = .go { space := .scratch 1, addr := 0 }
    ∧ (pathOf peered []).g.peerPlace { space := .scratch 1, addr := 0 } = true
    ∧ peered.canReadNow (pathOf peered []) [(0, { space := .scratch 1, addr := 0 })] = true := by decide +kernel

theorem witness_StoresAndAtomicsIssue :
    (machine 1).Issues [] (Exts.guard []) (pathOf (machine 1) []) ∧ (pathOf (machine 1) []).g.txn = none
    ∧ (pathOf (machine 1) []).g.hasRegs (addrRegs [] 2 ++ vuse false 1 1) = true
    ∧ (machine 1).checkStore (pathOf (machine 1) []) 4 4 true = .go { space := .mem, addr := 4 }
    ∧ (rmwMeaning (.atomAdd [] 1 2 3)).isSome = true ∧ (rmwMeaning (.redMAdd [] 2 3)).isSome = true
    ∧ (machine 1).checkRmw (pathOf (machine 1) []) 4 .rmw false = .go { space := .mem, addr := 4 }
    ∧ (machine 1).checkRmw (pathOf (machine 1) []) 4 .store true = .go { space := .mem, addr := 4 } :=
  ⟨issues_of_ok (by decide +kernel), by decide +kernel⟩

/-- MWAIT of the word 0: against V3 = 0 the lane waits, against 1 it does not. -/
theorem witness_WatchesWait :
    (machine 1).Issues [] (Exts.guard []) (pathOf (machine 1) []) ∧ (machine 1).WordsAligned
    ∧ (machine 1).noneVisible (pathOf (machine 1) []) [(0, { space := .mem, addr := 0 })] = true
    ∧ (machine 1).checkWait (pathOf (machine 1) []) 0 = .go { space := .mem, addr := 0 }
    ∧ (machine 1).issueServed 0 0 [0] = true
    ∧ leNat ((List.range 4).map (fun k => (machine 1).view .mem (0 + k))) = 0
    ∧ ((pathOf (machine 1) []).g.srcV false 0 3 0).toNat = 0
    ∧ ((pathOf (withGroup (machine 1) (fun g => g.wv 3 0 1)) []).g.srcV false 0 3 0).toNat = 1 :=
  ⟨issues_of_ok (by decide +kernel), aligned_of_nil (by decide +kernel) (by decide +kernel), by decide +kernel⟩

/-- A watch whose word no longer equals its operand, and the lane it parks. -/
def oldWatch : Watch := { core := 0, slot := 0, lane := 0, space := .mem, addr := 0, b := 1, ne := false }
def watched : State :=
  { withGroup (machine 1) (fun g => g.modLane 0 (fun l => { l with st := .park (.memWait .watch), after := 0x10004 })) with
    watches := [{ oldWatch with fired := true }] }
theorem witness_WatchesFire :
    (((machine 1).num .mem 0 4 = oldWatch.b.toNat) ↔ oldWatch.ne = true)
    ∧ (watched.group? 0 0).map (fun g => (g.lane 0).st) = some (.park (.memWait .watch))
    ∧ watched.watches.find? (fun w => w.core = 0 && w.slot = 0 && w.lane = 0) = some { oldWatch with fired := true } := by
  decide +kernel

/-- A store, an ATOM and a reduction of the group on their way, the load that takes the ATOM's value, a plain load. -/
def store1 : Write := { id := 1, core := 0, slot := 0, team := some 0, ctx := 1, space := .mem, line := 0, kind := .store [(4, 7)] }
def reduce1 : Write := { store1 with kind := .reduce .add [{ lane := 0, addr := 4, b := 7 }], entered := true }
def atom1 : Write := { store1 with kind := .atom .add [{ lane := 0, addr := 4, b := 7 }] 2, entered := true }
def load2 : PendingLoad :=
  { id := 2, core := 0, slot := 0, bytes := 4, width := 0, dest := 1, lanes := [{ lane := 0, space := .mem, addr := 4 }], atom := true }
def load3 : PendingLoad := { load2 with id := 3, atom := false }

/-- A request that has reached the queue of its slice (R218). -/
def there : Way := { stage := .slice }

theorem witness_FencesWait :
    (machine 1).fenceReady 0 0 2 3 = true ∧ ({ machine 1 with writes := [store1] } : State).fenceReady 0 0 2 3 = false
    ∧ (∀ w ∈ ({ machine 1 with writes := [{ store1 with entered := true }] } : State).writes, w.entered = true)
    ∧ (∀ l ∈ ({ machine 1 with loads := [load3] } : State).loads, l.slot = 0) := by decide +kernel

/-- A page-cache table of 16 buckets at 0, valid, in the context's first descriptor: a miss. -/
def probing : State := withTeam (machine 1) (fun t => { t with ctx := { t.ctx with pc0 := 0x24 } })
theorem witness_CacheOperations :
    probing.Issues [] (Exts.guard []) (pathOf probing []) ∧ probing.WordsAligned ∧ probing.writes = []
    ∧ bitN (probing.pcDesc (pathOf probing []).g).1.toNat 5 = true ∧ bits (probing.pcDesc (pathOf probing []).g).1.toNat 4 0 = 4
    ∧ (pathOf probing []).g.hasRegs (vuse (Exts.uniA []) 2 2 ++ vuse (Exts.uniB []) 4 1 ++ vuse false 1 1) = true
    ∧ probing.loadsDone 0 0 = true
    ∧ probing.acks = [] ∧ probing.faulty = [] ∧ probing.acquiring 0 0 = false ∧ probing.visible 0 0 probing.nextId = []
    ∧ ((probing.pcDesc (pathOf probing []).g).1 &&& 0x01FFFFFFFFFFFFC0) = 0
    ∧ (pathOf probing []).g.srcA2 [] 2 0 = 0 ∧ (pathOf probing []).g.srcB [] 4 0 = 0
    ∧ (∀ k, k < 16 → probing.check (pathOf probing []) (BitVec.ofNat 64 (64 * (k / 4) + 16 * (k % 4))) 16 16 .load true false
          = .go { space := .mem, addr := 64 * (k / 4) + 16 * (k % 4) }
        ∧ bitN (leNat ((List.range 4).map (fun m => probing.view .mem (64 * (k / 4) + 16 * (k % 4) + 12 + m)))) 31 = false) :=
  ⟨issues_of_ok (by decide +kernel), aligned_of_nil (by decide +kernel) (by decide +kernel), by decide +kernel⟩

/-- Transactions: none open, one open, eight open on the core. -/
def inTxn (y : Txn) : State := withGroup cameoMachine (fun g => { g with txn := some y })
theorem witness_AtomicsInTransactionsTrap :
    (pathOf (inTxn { snap := 5 }) []).g.txn.isSome = true
    ∧ (inTxn { snap := 5 }).check (pathOf (inTxn { snap := 5 }) []) 0x4000 4 4 .rmw true false
        = .go { space := .mem, addr := 0x4000, cameo := true } := by decide +kernel
def eightTxns : State :=
  { machine 1 with groups := group0 :: (List.range 8).map (fun k =>
      { keeperGroup 0 with slot := k + 1, team := some 0, txn := some { snap := 1 } }) }
theorem witness_SnapshotsAndTransactions :
    cameoMachine.Issues [] (Exts.guard []) (pathOf cameoMachine []) ∧ (pathOf cameoMachine []).L ≠ 0
    ∧ (pathOf cameoMachine []).g.txn = none ∧ cameoMachine.openTxns 0 = 0 ∧ cameoMachine.clock ≠ 0
    ∧ (pathOf (inTxn { snap := 5 }) []).g.txn = some { snap := 5 } ∧ 8 ≤ eightTxns.openTxns 0
    ∧ (pathOf eightTxns []).g.txn = none :=
  ⟨issues_of_ok (by decide +kernel), by decide +kernel⟩

/-- A transaction from its TXB on, with a store of V1 to address 4 (V2 holds 0): its own snapshot 6 reads line 0, whose version
TXC preserves. The version store has room, is full, or has no room left. -/
def begun (c : Context) : State :=
  (after (exec (.txb [] 3) { cameoMachine with contexts := [c] })).getD (machine 0)
def stored (c : Context) : State :=
  { (after (exec (.st [] 1 2 4) { begun c with cur := { pc := 0x10004, lanes := 1 } })).getD (machine 0) with
    cur := { pc := 0x10008, lanes := 1 } }
def roomyStore : Context := { id := 1, vsSize := 320 }
def spentStore (n : Nat) : Context :=
  { id := 1, versions := List.replicate n { line := 0x1000, stamp := 0, succ := 1, data := [] } }

theorem witness_TransactionsBegin :
    ((begun roomyStore).group? 0 0).map (fun g => g.txn) = some (some { snap := 6 })
    ∧ ((stored roomyStore).group? 0 0).map (fun g => g.txn.map Txn.lines) = some (some [0])
    ∧ (stored roomyStore).clock = 7 ∧ (stored roomyStore).snaps.map Snapshot.num = [5, 6] := by decide +kernel

theorem witness_Commits :
    (stored roomyStore).Issues [] (Exts.guard []) (pathOf (stored roomyStore) []) ∧ (pathOf (stored roomyStore) []).L ≠ 0
    ∧ (inTxn { snap := 5 }).checkStore (pathOf (inTxn { snap := 5 }) []) 4 4 true = .go { space := .mem, addr := 4, cameo := true }
    ∧ (stored roomyStore).fenceReady 0 0 1 3 = true ∧ (stored roomyStore).WordsAligned
    ∧ (stored roomyStore).stamp 0 ≤ 6 ∧ (stored roomyStore).lateLoad 0 .mem 0 = false
    ∧ (stored roomyStore).mustPreserve 1 0 = true ∧ ((stored roomyStore).context 1).full = false
    ∧ ((stored roomyStore).context 1).roomFor 1 = true ∧ ((stored { roomyStore with full := true }).context 1).full = true
    ∧ ({ inTxn { snap := 5 } with stamps := sset [] 0 6 } : State).stamp 0 = 6 :=
  ⟨issues_of_ok (by decide +kernel), by decide +kernel, by decide +kernel, by decide +kernel,
    aligned_of_nil (by decide +kernel) (by decide +kernel), by decide +kernel⟩

/-- No version finds room in a store of size 0 whose reserve is used up. -/
theorem witness_NoRoom (n : Nat) (h : 6553 ≤ n) : (spentStore n).roomFor 1 = false ∧ (spentStore n).room = false := by
  simp only [Context.roomFor, Context.room, Context.used, spentStore, List.length_replicate, decide_eq_false_iff_not]
  omega

/-! ## Witnesses: requests at their homes -/

theorem witness_WritesAreApplied :
    let w : Write := { store1 with entered := true, way := there }
    let s : State := { machine 1 with writes := [w] }
    let r : State := { machine 1 with writes := [{ atom1 with way := there }], loads := [load2] }
    s.write? 1 = some w ∧ s.canApply w = true ∧ s.WordsAligned
    ∧ (∀ c ∈ store1.kind.cells, c.1 / 128 = store1.line) ∧ s.discarded store1 = false
    ∧ r.canApply { atom1 with way := there } = true ∧ r.WordsAligned ∧ r.load? 2 = some load2 ∧ load2.lanes.map LoadLane.lane = [0] ∧ load2.width ≠ 5 :=
  ⟨by decide +kernel, by decide +kernel, aligned_of_ok (by decide +kernel) (by decide +kernel), by decide +kernel,
    by decide +kernel, by decide +kernel, aligned_of_ok (by decide +kernel) (by decide +kernel), by decide +kernel⟩

/-- A write may enter; one behind an earlier write of its group may not; one that depends on another is not applied. -/
theorem witness_WritesWaitAtTheirHomes :
    let w : Write := { store1 with id := 3, entered := true }
    let s : State := { machine 1 with writes := [{ store1 with entered := true, line := 1, kind := .store [] }, w] }
    let l : PendingLoad := { load3 with id := 2, ordered := true }
    s.write? 3 = some w ∧ s.sent { store1 with entered := true, line := 1, kind := .store [] } = true
    ∧ ({ machine 1 with writes := [w], loads := [l] } : State).lateLoad 0 .mem 0 = true
    ∧ ({ machine 1 with engines := [{ entries := [⟨8, 0, 0, false⟩] }] } : State).ungranted 8 = true := by decide +kernel

theorem witness_WritesKeepTheirOrder :
    let s : State := { machine 1 with writes := [store1, { store1 with id := 2 }, { store1 with id := 3, entered := true, rel := { deps := [1] } }] }
    let v : Write := { store1 with id := 4, entered := true, space := .scratch 0, rel := { scope := 1, first := 4 } }
    let o : State := { machine 1 with writes := [{ store1 with entered := true, space := .scratch 0, slot := 1 }, v] }
    o.write? 4 = some v ∧ (o.ahead v).map Write.id = [1] ∧ o.canApply v = false ∧ s.canEnter store1 = true ∧ s.write? 2 = some { store1 with id := 2 } ∧ s.canEnter { store1 with id := 2 } = false
    ∧ s.write? 3 = some { store1 with id := 3, entered := true, rel := { deps := [1] } }
    ∧ s.canApply { store1 with id := 3, entered := true, rel := { deps := [1] } } = false := by decide +kernel

/-- On its way: a write is injected and arrives; at the slice one of its core stands before it there, or one of core 1 has
less slack. -/
theorem witness_WritesAreArbitrated :
    let w : Write := { store1 with id := 3, entered := true, way := { stage := .slice, seq := 5 }, tag := 9 }
    let go : State := { machine 1 with writes := [{ store1 with entered := true }] }
    let on : Write := { store1 with entered := true, way := { stage := .bangle } }
    let v : Write := { w with id := 1, way := { stage := .slice, seq := 4 } }
    let o : Write := { v with core := 1, tag := 0 }
    let q : State := { machine 1 with writes := [o, w] }
    go.mayGo { store1 with entered := true } = true ∧ go.canInject (Write.request { store1 with entered := true }) = true
    ∧ ({ machine 1 with writes := [on] } : State).canArrive on.request = true
    ∧ ({ machine 1 with writes := [v, w] } : State).mayGo v = true ∧ v.way.seq < w.way.seq
    ∧ q.mayGo o = true ∧ o.core ≠ w.core ∧ (∀ r ∈ q.requests, r.src = 1 → r.tag - (q.time - r.way.since) * 27 / 640 < w.tag) := by
  decide +kernel

theorem witness_ReductionsCollect :
    let s : State := { machine 1 with writes := [reduce1], upartials := [{ l1 := 0, addr := 8, op := .add, val := 1 }] }
    s.write? 1 = some reduce1 ∧ s.canCollect reduce1 .add [{ lane := 0, addr := 4, b := 7 }] = true ∧ s.WordsAligned
    ∧ (∀ u ∈ s.upartials, u.op = .add) ∧ 4 / 128 = reduce1.line :=
  ⟨by decide +kernel, by decide +kernel, aligned_of_ok (by decide +kernel) (by decide +kernel), by decide +kernel, by decide +kernel⟩

/-- A write of a cameo line that the snapshot 5 reads: with room for its version, and without any. -/
def cameoStore : Write := { store1 with cameo := true, entered := true, way := there }
def versioned (n : Nat) : State :=
  { cameoMachine with writes := [cameoStore], contexts := [{ id := 1, vsSize := n }] }
theorem witness_VersionsArePreserved :
    (versioned 160).write? 1 = some cameoStore ∧ (versioned 160).WordsAligned ∧ (versioned 160).canApply cameoStore = true
    ∧ (versioned 160).noRoom cameoStore = false ∧ (versioned 160).mustPreserve 1 0 = true
    ∧ (∀ u ∈ (versioned 160).upartials, u.addr / 128 ≠ cameoStore.line)
    ∧ (let h : State := { versioned 160 with writes := [{ cameoStore with held := true }] }
       h.write? 1 = some { cameoStore with held := true } ∧ h.noRoom { cameoStore with held := true } = false) :=
  ⟨by decide +kernel, aligned_of_ok (by decide +kernel) (by decide +kernel), by decide +kernel⟩

theorem witness_LoadsReturn :
    let load3 : PendingLoad := { load3 with lanes := [{ lane := 0, space := .mem, addr := 4, way := there }] }
    let s : State := { machine 1 with loads := [load3] }
    let d : State := { machine 1 with loads := [{ load3 with sampled := true }] }
    s.load? 3 = some load3 ∧ s.canSample load3 = true ∧ s.faulty = [] ∧ load3.ordered = false ∧ load3.homed = false
    ∧ (∀ x ∈ load3.lanes, x.home = [] ∧ x.addr % 128 + load3.bytes ≤ 128 ∧ x.lane < 32)
    ∧ d.canDeliver { load3 with sampled := true } = true ∧ (load3.lanes.map LoadLane.lane).Nodup := by decide +kernel

/-- A walk that ends, a version that no snapshot reaches, a load and a write to another device. -/
theorem witness_TranslationsVersionsAndLostRequests :
    (machine 1).ctxDesc? 1 = some loadTeam.ctx ∧ (machine 1).tlbHit 0 1 0x4000 = none
    ∧ tlbFind (machine 1).utlb 0 1 0x4000 = none ∧ (tlbFind (cached 0x0E00000000000000).tlb 0 1 0x4000).isSome = true
    ∧ ((machine 1).walk {} 0x4000 loadTeam.ctx.ptroot 4).toOption.isSome = true ∧ (machine 1).tlb.length < tlbSize
    ∧ (2 : DWord) ≤ cameoMachine.floor 1
    ∧ (∀ x ∈ ({ load3 with lanes := [{ lane := 0, space := .peer 3, addr := 4 }] } : PendingLoad).lanes,
        x.lane < 32 ∧ x.space = .peer 3 ∧ x.data = [] ∧ (group0.lane x.lane).st = .run)
    ∧ ({ machine 1 with writes := [{ store1 with space := .peer 3 }] } : State).write? 1 = some { store1 with space := .peer 3 }
    ∧ ({ machine 1 with writes := [store1] } : State).fencePaths group0 = [] ∧ (machine 1).routeTo 3 = false
    ∧ ¬((machine 1).time < 0) ∧ 2000000 ≤ ({ machine 1 with time := 2000000 } : State).time
    ∧ (fetching 0xC0000241).peek group0 0x10000 = some (.fenceSc [] 2, [0xC0000241]) := by decide +kernel

/-! ## Witnesses: matrix instructions and engine jobs -/

theorem witness_MatrixReservations :
    (machine 1).Issues [] (Exts.guard []) (pathOf (machine 1) []) ∧ (machine 1).entriesHeld 0 < 4
    ∧ 4 ≤ ({ machine 1 with engines := [{ entries := (List.range 4).map (fun k => ⟨k, 0, 0, false⟩) }] } : State).entriesHeld 0
    ∧ (7 : BitVec 7).toNat < group0.naccs ∧ group0.naccs ≤ (8 : BitVec 7).toNat ∧ group0.ntiles ≤ (8 : BitVec 7).toNat :=
  ⟨issues_of_ok (by decide +kernel), by decide +kernel⟩

/-- An engine whose last grant went to core 3, with entries of cores 2 and 1: core 1 is next. With a granted entry it waits. -/
theorem witness_EngineGrants :
    let e : Engine := { entries := [⟨1, 2, 0, false⟩, ⟨2, 1, 0, false⟩] }
    ({ machine 1 with engines := [e] } : State).engines[0]? = some e ∧ (∀ m ∈ e.entries, m.granted = false)
    ∧ (∀ m ∈ e.entries, m.core % 4 ≠ (e.last + 1 + 0) % 4)
    ∧ e.entries.find? (fun m => m.core % 4 = (e.last + 1 + 1) % 4) = some ⟨2, 1, 0, false⟩
    ∧ (∃ m ∈ ({ entries := [⟨1, 2, 0, true⟩] } : Engine).entries, m.granted = true) := by decide +kernel

/-- A map of FP16-like elements (entry 5) of both operands: columns of 64 bytes, 4 × 16 apart, from 0. -/
def mapped : State := withGroup (machine 1) (fun g => { g with g := sset g.g 3 0x5500000000400000 })
theorem witness_MatrixMultiply :
    let m := sget (pathOf mapped []).g.g 3
    mapped.teamOf (pathOf mapped []).g = some loadTeam ∧ mapBase m % 16 = 0
    ∧ (elemOf (loadTeam.ctx.fte (mapFta m))).map Elem.width = some 16 ∧ mapMxa m = false ∧ mapMxb m = false
    ∧ mapped.windowGate (pathOf mapped []) loadTeam
        ((List.range 128).map (fun c => (mapBase m + 16 * mapStride m * c, 64))) = .pass := by decide +kernel

theorem witness_MatrixLoadsAndStores :
    ((List.range 128).map (fun k => ({ space := .mem, addr := 128 * k } : Place))).all (fun y => y.addr % 128 = 0) = true
    ∧ (machine 1).matSpan (pathOf (machine 1) []) 0 256 .load = .go [{ space := .mem, addr := 0 }, { space := .mem, addr := 128 }]
    ∧ (machine 1).spanReady (pathOf (machine 1) []) [{ space := .mem, addr := 0 }] = true
    ∧ (machine 1).matSpan (pathOf (machine 1) []) 0 128 .store = .go [{ space := .mem, addr := 0 }] := by decide +kernel

/-- MDRAIN through the map 3 with rows 256 bytes apart. -/
def drained : State := withGroup (machine 1) (fun g => { g with g := sset g.g 3 0x5500000001000000 })
theorem witness_MatrixDrains :
    let m := sget (pathOf drained []).g.g 3
    (elemOf (loadTeam.ctx.fte (mapFtb m))).map Elem.width = some 16 ∧ 16 ≤ mapStride m ∧ mapMxb m = false
    ∧ drained.windowGate (pathOf drained []) loadTeam (drainRanges m 0 16) = .pass := by decide +kernel

/-- A shape record (R280): two rows of four 32-bit elements, 16 bytes apart, readable and writable. -/
def shapeBytes (base d0 esize : Nat) : List Byte :=
  leBytes 8 base ++ leBytes 8 63 ++ leBytes 4 d0 ++ leBytes 4 2 ++ leBytes 4 1 ++ leBytes 4 1 ++ leBytes 8 16 ++ leBytes 16 0
    ++ [BitVec.ofNat 8 esize, 2, 0x83, 0, 0, 0, 0, 0]

/-- Records 0 in memory, 1 in the window and 2 of bytes; S1 names 0 and 1, S2 the snapshot, S3 peer 0 too, S4 2 and 1. -/
def engined : State :=
  { withTeam (withGroup (machine 1) (fun g => (((((g.ws 1 0x10000).ws 2 5).ws 3 0x100010000).ws 4 0x10002).ws 5 0x4100)))
      (fun t => { t with ctx := { t.ctx with shapeBase := 0x3000, shapeCnt := 3 } }) with
    mem := ssets (machine 1).mem (number 0x3000 (shapeBytes 0x4000 4 32 ++ shapeBytes 0x01F0000000000000 4 32 ++ shapeBytes 0x4000 16 8))
    snaps := [{ num := 5, ctx := 1 }] }
def noClasp : Exts := [.operand 0 7 0 1]
def engineTeam : Team := { loadTeam with ctx := { loadTeam.ctx with shapeBase := 0x3000, shapeCnt := 3 } }
def src0 : BoxRec := { idx := 0, base := 0x4000, limit := 63, esize := 32, d0 := 4, d1 := 2, d2 := 1, d3 := 1, s1 := 16, s2 := 0, s3 := 0 }
def dst1 : BoxRec := { src0 with idx := 1, base := 0x01F0000000000000 }

theorem witness_EngineJobsIssue :
    engined.Issues noClasp (Exts.guard noClasp) (pathOf engined noClasp) ∧ (pathOf engined noClasp).L ≠ 0
    ∧ engined.producer noClasp (pathOf engined noClasp) false = .ok (engineTeam, none)
    ∧ engined.records engineTeam ((pathOf engined noClasp).g.rs 1) = .ok (src0, dst1)
    ∧ (engined.boxPlan engineTeam src0 dst1 0 0 none true).toOption.isSome = true
    ∧ engined.snapLive (engined.ctxOf (pathOf engined noClasp).g) ((pathOf engined noClasp).g.rs 2) = true
    ∧ (engined.jobs.filter (fun j => j.team = 0)).length < engineTeam.copyq ∧ engined.touching 0 0 [(0, 0)] = false :=
  ⟨issues_of_ok (by decide +kernel), by decide +kernel⟩

/-- COLL with a signal; COPY.MC to peer 0, GATHER of row 0, MEDIA. -/
theorem witness_MoreEngineJobs :
    collOp 0 = some none ∧ collOp 4 = some (some .maxF) ∧ (engined.jobRange engineTeam 0x4100 0x4104 0x0A).toOption = some (.va 0x4100)
    ∧ (src0.hull (boxRuns dst1 src0 0) dst1.run).toOption = some (0x4000, 0x4020)
    ∧ (engined.mcDsts engineTeam 0 32 none [0]).toOption.isSome = true
    ∧ lanesOf (((pathOf engined noClasp).g.rs 3 >>> 32).setWidth 32) = [0]
    ∧ ((pathOf engined noClasp).g.srcB noClasp 1 0).toNat < src0.d1
    ∧ winBase ≤ dst1.base ∧ dst1.base < winBase + engineTeam.size
    ∧ (engined.boxRec engineTeam.ctx 2 0).toOption.map BoxRec.esize = some 8 ∧ engined.boot.media = true
    ∧ engined.boot.variant = .x ∧ bitN (engined.mediaMask false) 0 = true := by decide +kernel

/-- MEDIA with S4 and S5: an encoder, record 2 of bytes to record 1, the picture's block at 0x4100. -/
theorem witness_MediaJobs :
    let g := (pathOf engined noClasp).g
    bits (g.rs 4).toNat 35 32 = 0 ∧ bits (g.rs 4).toNat 15 0 = 2 ∧ bits (g.rs 4).toNat 31 16 = 1
    ∧ (engined.boxRec engineTeam.ctx 1 1).toOption.isSome = true
    ∧ ((engined.boxRec engineTeam.ctx 2 0).toOption.bind (fun r => r.span.toOption)).isSome = true
    ∧ ((engined.boxRec engineTeam.ctx 1 1).toOption.bind (fun r => r.span.toOption)).isSome = true
    ∧ (engined.jobRange engineTeam (g.rs 5).toNat ((g.rs 5).toNat + 64) 0x0B).toOption.isSome = true
    ∧ (g.rs 5).toNat % 64 = 0 := by decide +kernel

/-- A job that copies one word from memory to the window, and one after it. -/
def job5 : Job :=
  { id := 5, core := 0, slot := 0, gen := 0, team := 0, ctx := loadTeam.ctx, entry := 0, kind := .copy, clasp := none
    units := [{ src := .va 0x4000, dst := .win 0 0, credit := none }]
    reads := [{ win := none, lo := 0x4000, hi := 0x4004 }], writes := [{ win := some 0, lo := 0, hi := 4 }] }
def job6 : Job := { job5 with id := 6, entry := 1 }
def jobbing (l : List Job) : State := { machine 1 with jobs := l }

theorem witness_JobsRun :
    (jobbing [job5]).job? 5 = some job5 ∧ (jobbing [job5]).gateOpen job5 = true
    ∧ (jobbing [job5]).windowSaved job5 = false ∧ (job5.core, job5.ctx.ctxid) ∉ (jobbing [job5]).drained
    ∧ (jobbing [job5]).jobServed job5 [] = true
    ∧ (jobbing [job5, job6]).job? 6 = some job6 ∧ (∃ e ∈ (jobbing [job5, job6]).jobs, e.id < 6 ∧ job6.after e = true)
    ∧ (jobbing [{ job5 with started := true }]).jobPlace job5 (.va 0x4000) .jobRead = .at { space := .mem, addr := 0x4000 }
    ∧ ((jobbing [{ job5 with started := true }]).recall (0x4000 / 128)).jobPlace job5 (.win 0 0) .jobWrite
        = .at { space := .scratch 0, addr := 0 }
    ∧ (jobbing [job5]).faulty = [] ∧ (jobbing [job5]).heldAt (0x4000 / 128) = false
    ∧ (jobbing [job5]).lineAbsent (0, 0) true = false ∧ ((jobbing [job5]).team? 0).isSome = true := by decide +kernel

/-- A word of COPY.C with a credit for a clasp; a COLL with nothing left but its signal; an encoder at the end of its job. -/
def snapJob : Job :=
  { job5 with started := true, snap := some 5, units := [{ src := .va 0x4000, dst := .win 0 0, credit := some (.team 0 1) }] }
def signalJob : Job := { job5 with started := true, kind := .coll (some .add), units := [], signal := some (.va 0x4100) }
def mediaJob : Job :=
  { job5 with
    started := true, kind := .media false 0 0, units := [], dstRuns := [(.win 0 128, 8)]
    writes := [{ win := some 0, lo := 128, hi := 136 }, { win := some 0, lo := 0, hi := 64 }] }
theorem witness_JobsEnd :
    let s : State := { cameoMachine with jobs := [snapJob] }
    s.jobPlace snapJob (.va 0x4000) .jobRead = .at { space := .mem, addr := 0x4000, cameo := true }
    ∧ (s.clasp? (.team 0 1)).map (fun c => (c.failed, (c.credit 4).failed)) = some (false, false)
    ∧ (∀ g ∈ s.groups, s.parkedOn g (.team 0 1) = []) ∧ s.jobServed snapJob [(.va 0x4000, .jobRead), (.win 0 0, .jobWrite)] = true
    ∧ (jobbing [signalJob]).jobServed signalJob [(.va 0x4100, .jobWrite)] = true
    ∧ (jobbing [signalJob]).jobPlace signalJob (.va 0x4100) .jobWrite = .at { space := .mem, addr := 0x4100 }
    ∧ mediaJob.block = .win 0 0 ∧ (runsWords mediaJob.dstRuns).map (fun a => match a with | .win _ o => o | .va _ => 0) = [128, 132]
    ∧ ((jobbing [mediaJob]).team? 0).isSome = true := by decide +kernel

/-- What a job meets: the full condition on a cameo line, a page that is not mapped; and JOBCTL on a stopped job. -/
def cameoJob : Job := { job5 with units := [{ src := .va 0x4000, dst := .va 0x5000, credit := none }], started := true }
def lostJob : Job := { job5 with units := [{ src := .va 0x40000000, dst := .win 0 0, credit := none }], started := true }
def boundJob : Job := { job5 with stopped := true, started := true, clasp := some (.team 0 1) }
theorem witness_JobsStopAndFail :
    ({ cameoMachine with jobs := [cameoJob], contexts := [{ id := 1, full := true }] } : State).meets cameoJob = .fatal 4
    ∧ (∃ r, (jobbing [lostJob]).meets lostJob = .stop r)
    ∧ (jobbing [boundJob]).stoppedJob 0 0x100 = some boundJob ∧ boundJob.bound = [.team 0 1]
    ∧ ((jobbing [boundJob]).clasp? (.team 0 1)).map Clasp.failed = some false
    ∧ (∀ g ∈ (jobbing [boundJob]).groups, (jobbing [boundJob]).parkedOn g (.team 0 1) = []) :=
  ⟨by decide +kernel, ⟨_, rfl⟩, by decide +kernel⟩

/-! ## Witnesses: clasps, pools, regrouping -/

theorem witness_ClaspPhases :
    ({ exp := 2, arr := 2 } : Clasp).arr = ({ exp := 2, arr := 2 } : Clasp).exp ∧ ({} : Clasp).arr ≠ ({} : Clasp).exp
    ∧ ({ pend := -(2 ^ 35) } : Clasp).pend - 1 < -(2 ^ 35) ∧ -(2 ^ 35) ≤ ({ pend := 1 - 2 ^ 35 } : Clasp).pend - 1
    ∧ 2 ^ 35 ≤ ({ pend := 2 ^ 35 - 1 } : Clasp).pend + 1 ∧ ({ pend := 0 } : Clasp).pend + (2 ^ 35 - 1 : Nat) < 2 ^ 35
    ∧ ({} : Clasp).failed = false := by decide +kernel

/-- Lane 0 waits on clasp 0 of the group, which expects one more arrival; its timer is at and below 10,000 µs. -/
def claspWait (c : Clasp) : State :=
  withGroup (machine 1) (fun g => { (g.modLane 0 (fun l => { l with st := .park (.clasp 0 1), after := 0x10004 })) with
    clasps := [c, {}, {}, {}] })
def claspLane (l : Lane) : Bool := match l.st with | .park (.clasp ..) => true | _ => false
theorem witness_ClaspsReleaseAndTimeOut :
    let c : Clasp := { exp := 2, arr := 1, timer := 10000, declared := true }
    let s : State := { claspWait c with groups := (claspWait c).groups ++ [keeperGroup 0] }
    s.groups.Pairwise (fun g h => ¬(g.core = h.core ∧ g.slot = h.slot))
    ∧ (∀ h ∈ s.groups, ∀ i, i < 32 → claspLane (h.lane i) = true → h.slot = 0 ∧ i = 0)
    ∧ s.clasp? (.group 0 0 0) = some c ∧ (1 : BitVec 7).toNat < 8
    ∧ ((claspWait c).group? 0 0).map (fun g => (g.lane 0).st) = some (.park (.clasp 0 1))
    ∧ (claspWait c).claspRef group0 0 = some (.group 0 0 0) ∧ (claspWait c).clasp? (.group 0 0 0) = some c
    ∧ c.arr.toNat + 1 = c.exp.toNat ∧ waitBit 0 < 44
    ∧ ((claspWait c).claspCtx (.group 0 0 0)).map CtxDesc.claspTmo = some 10000 ∧ 10000 ≤ c.timer := by decide +kernel

/-- Declared clasps that no lane waits on: with PHASE 0 the lane has seen the phase; with PHASE 1 it has one to see; failed,
by a timeout and otherwise; undeclared. -/
def claspAt (c : Clasp) : State := withGroup (machine 1) (fun g => { g with clasps := [c, {}, {}, {}] })
theorem witness_ClaspInstructions :
    (claspAt {}).Issues [] (Exts.guard []) (pathOf (claspAt {}) []) ∧ (pathOf (claspAt {}) []).L = 1
    ∧ (claspAt {}).claspRef (pathOf (claspAt {}) []).g 0 = some (.group 0 0 0)
    ∧ (claspAt { phase := true, declared := true }).clasp? (.group 0 0 0) = some { phase := true, declared := true }
    ∧ (∀ g ∈ (claspAt {}).groups, (claspAt {}).parkedOn g (.group 0 0 0) = [])
    ∧ ((pathOf (claspAt {}) []).g.lane 0).wbits.getLsbD (waitBit 0) = false
    ∧ (claspAt {}).fenceReady 0 0 1 (claspScope 0) = true
    ∧ ({ exp := 3, declared := true } : Clasp).arr.toNat + 1 < ({ exp := 3 } : Clasp).exp.toNat :=
  ⟨issues_of_ok (by decide +kernel), by decide +kernel⟩

/-- RCLAIM and RREL at the bounds of an allocation of 128 granules and of 1. -/
theorem witness_RegisterPools :
    (machine 1).Issues [] (Exts.guard []) (pathOf (machine 1) []) ∧ 128 < (pathOf (machine 1) []).g.alloc + (1 : BitVec 7).toNat
    ∧ (pathOf narrow []).g.alloc ≤ (1 : BitVec 7).toNat ∧ (pathOf narrow []).g.alloc + (127 : BitVec 7).toNat ≤ 128
    ∧ narrow.loadsInto 0 0 4 = false ∧ (1 : BitVec 7).toNat < (pathOf (machine 1) []).g.alloc
    ∧ narrow.team? 0 = some loadTeam ∧ (pathOf narrow []).g.team = some 0 :=
  ⟨issues_of_ok (by decide +kernel), by decide +kernel⟩

/-- The group stands parked on a claim of n granules; the pool holds 64. -/
def claiming (n : Nat) : State :=
  withTeam (withGroup narrow (fun g => { g with lanes := List.replicate 32 { st := .park (.claim true), pc := 0x10000, after := 0x10004 } }))
    (fun t => { t with claims := [(0, n)] })
theorem witness_ClaimsAreGrantedOrDeadlock :
    ((claiming 64).team? 0).map (fun t => (t.claims, t.pool, t.core)) = some ([(0, 64)], 64, 0)
    ∧ ((claiming 65).team? 0).map (fun t => (t.claims, decide (t.pool < 65))) = some ([(0, 65)], true)
    ∧ (∀ h ∈ (claiming 64).groups ++ [keeperGroup 0], h.team = some 0 ↔ h.slot = 0)
    ∧ (∀ g ∈ (claiming 64).groups, g.team = some 0 ∧ g.lanes.length = 32 ∧ ∀ j, j < 32 → (g.lane j).st = .park (.claim true)
        ∧ (g.lane j).after = 0x10004) := by decide +kernel

/-- All 32 lanes stand at a REGROUP with descending keys. -/
def regrouping : State :=
  withGroup (machine 1) (fun g => { g with lanes := (List.range 32).map (fun j =>
    { st := .park (.regroup (BitVec.ofNat 16 (31 - j)) 1), pc := 0x10000, after := 0x10004 }) })
theorem witness_Regrouping :
    (machine 1).Issues [] (Exts.guard []) (pathOf (machine 1) [])
    ∧ (∀ h ∈ regrouping.groups ++ [keeperGroup 0], h.team = some 0 ∧ h.roleId = 0 ↔ h.slot = 0)
    ∧ (∀ g ∈ regrouping.groups, g.team = some 0 ∧ g.roleId = 0 ∧ g.txn = none ∧ regrouping.loadsDone g.core g.slot = true
        ∧ regrouping.claimPending g.core g.slot = false
        ∧ ∀ j, j < 32 → (g.lane j).st = .park (.regroup (BitVec.ofNat 16 (31 - j)) 1)) :=
  ⟨issues_of_ok (by decide +kernel), by decide +kernel⟩

/-! ## Witnesses: issue, pre-emption, saved teams -/

/-- FADD at two PCs: lanes 0 to 19 stand at the first, the others, which have waited n opportunities, at the second. -/
def twoPaths (n : Nat) : State :=
  let s := fetching 0x70082060
  { s with
    issueQ := []
    mem := ssets s.mem (number 0x10000 (leBytes 4 0x70082060 ++ leBytes 4 0x70082060))
    groups := [{ group0 with
      lanes := (List.replicate 20 ({ st := .run, pc := 0x10000 } : Lane)
        ++ List.replicate 12 { st := .run, pc := 0x10004, wait := n }) }, keeperGroup 0] }
theorem witness_IssueSelectsAPath :
    let s := twoPaths 0
    s.groups.Pairwise (fun g h => ¬(g.core = h.core ∧ g.slot = h.slot))
    ∧ (∀ h ∈ s.groups, h.slot ≠ 0 → ∀ j, j < 32 → (h.lane j).running = false) ∧ s.thermal = false ∧ 0 < s.ncores
    ∧ s.savedTeams = [] ∧ s.stopped = [] ∧ (s.coreBlock 0).sched = {} := by decide +kernel

/-- Both paths are eligible; the second may pair with the first; its lanes have waited long enough to be forced, or not. -/
theorem witness_PathsPair :
    let cs := fun n => match (twoPaths n).group? 0 0 with
      | some g => (((twoPaths n).loseText 0 [512]).paths g).filter (((twoPaths n).loseText 0 [512]).eligible {} 0 g)
      | none => []
    (cs 0).map (fun c => (c.pc, c.lanes, c.pipe.pairs, c.writesUniform, c.ports))
      = [(0x10000, 0x000FFFFF, true, false, 0), (0x10004, 0xFFF00000, true, false, 0)]
    ∧ ((twoPaths 31).group? 0 0).map (fun g => (g.lane 31).wait) = some 31
    ∧ ((twoPaths 32).group? 0 0).map (fun g => (g.lane 31).wait) = some 32 ∧ (cs 32).length = 2
    ∧ (match cs 0 with | [a, b] => b.readsFrom group0 a | _ => true) = false := by decide +kernel

theorem witness_IssueFindsNothing :
    let s : State := { machine 1 with stopped := [(0, 1)] }
    (∀ g ∈ s.groups, g.keeper = false ∧ s.stopped.contains (0, s.ctxOf g) = true)
    ∧ ∀ g ∈ lastTrapped.groups, ∀ j, j < 32 → (g.lane j).running = false := by decide +kernel

/-- A queue at descriptor 0 whose row is pre-empted, with the launch of the machine in flight. -/
def queued : State :=
  { machine 1 with rows := [{ valid := true, preempt := true, cores := 1 }], launches := [{ loadLaunch with body := List.replicate 64 0 }]
                   packets := [{ id := 9, desc := 0, row := 0, idx := 0, typ := 1, launch := some 0 }] }
theorem witness_QueuesArePreempted :
    (queued.row 0).valid = true ∧ (queued.row 0).preempt = true ∧ queued.stopAsked 0 1 = true
    ∧ (0, (1 : Word)) ∉ queued.stopped ∧ (queued.launchesOf 0).map (fun l => (l.id, l.body.length, l.grid.length)) = [(0, 64, 8)]
    ∧ (∃ t ∈ queued.teams, t.launch = loadLaunch.id ∧ queued.nothingToSave t = false)
    ∧ (∀ t ∈ ({ queued with teams := [] } : State).teams, t.launch = loadLaunch.id → queued.nothingToSave t = true)
    ∧ queued.backedRange (queued.qdescOf 0).lsave 256 = true := by decide +kernel

theorem witness_DrainsEnd :
    let s : State := { machine 1 with stopped := [(0, 1)] }
    (0, (1 : Word)) ∈ s.stopped ∧ (0, (1 : Word)) ∉ s.drained ∧ s.writes = [] ∧ s.acks = [] ∧ s.loads = [] ∧ s.jobs = []
    ∧ (∀ e ∈ s.engines, e.entries = [])
    ∧ (∃ j ∈ ({ s with jobs := [{ job5 with started := true }] } : State).jobs, j.ctx.ctxid = 1 ∧ j.started = true) := by
  decide +kernel

/-- SAVECTL of slot 0: the team may be saved once its core has drained; with SAVEPTR at a backed and an unbacked address. -/
def savable (ptr : DWord) : State :=
  withCore { machine 1 with stopped := [(0, 1)], drained := [(0, 1)] } (fun c => { c with savePtr := ptr })
theorem witness_TeamsAreSaved :
    (savable 0).saveTarget 0 0 = some loadTeam ∧ (savable 0).canSave loadTeam = true ∧ (machine 1).canSave loadTeam = false
    ∧ ((savable 0).coreBlock 0).saveBusy = false ∧ (savable 0).backed 0 = true
    ∧ (savable 0).backedRange 0 ((savable 0).headerBytes loadTeam).length = true
    ∧ (savable 0x8000000000).backed ((savable 0x8000000000).coreBlock 0).savePtr.toNat = false
    ∧ (0x200 : DWord).getLsbD 9 = true := by decide +kernel

/-- A save area at 0 that names the saved team, which has no group left; core 0 has room, or its slots are held. -/
def restorable : State :=
  { machine 1 with teams := [], groups := [], savedTeams := [{ launch := 0, team := loadTeam, groups := [], jobs := [] }]
                   mem := ssets (machine 1).mem (number 0 (leBytes 4 1 ++ leBytes 14 0 ++ [0x12])) }
theorem witness_TeamsAreRestored :
    let b := restorable.deviceBytes 0 0x240
    field b 18 1 / 16 = 1 ∧ restorable.badIn 0 0x240 = none ∧ (restorable.savedFor 0 b).isSome = true
    ∧ restorable.badIn 0 (restorable.areaLen 0 b) = none
    ∧ restorable.launch? 0 = some loadLaunch ∧ fits restorable.freeOf (restoreNeed b loadTeam) [] 0 = true
    ∧ restorable.gangFits loadTeam 0 = true
    ∧ (0x100 : DWord).getLsbD 8 = true ∧ (0x100 : DWord).getLsbD 9 = false
    ∧ fits ({ restorable with teams := [{ loadTeam with reserved := coreTotal.regs }] } : State).freeOf
        (restoreNeed b loadTeam) [] 0 = false := by decide +kernel

/-- A group with something in every part, as its record of the save area gives it back: its lanes parked in several ways, a
record, uniform, vector and matrix registers, clasps, a transaction. -/
def rich : Group :=
  { group0 with
    alloc := 2, wbase := 4, roleId := 1, groupId := 3, ntiles := 1, naccs := 1, fpctl := 2, burst := 5
    s := sset (sset [] 1 7) 62 0x123456789ABCDEF0, v := ssets [] [(33, 5), (32 * 7 + 31, 9)], t := sset [] 2047 3
    m := sset [] 4095 1, g := sset [] 2 0x01FFFFFF00000010, txn := some { snap := 5 }
    lc := [{ count := 2, start := 0x10010, stop := 0x10020 }, {}, {}], clasps := [{ exp := 2, arr := 1, pend := -3, declared := true }, {}, {}, {}]
    lanes := { st := .park .fault, pc := 0x10004, after := 0x10008, seq := 3, svc := some { code := 3, addr := 8 } }
      :: { st := .exit, pc := 0x10000, after := 0x10000 } :: { st := .run, pc := 0x10000, after := 0x10000, preds := 5, flags := 2, yield := 2, rets := [4, 8] }
      :: List.replicate 29 { st := .run, pc := 0x10000, after := 0x10000 } }
theorem witness_GroupsRoundTrip :
    let s := machine 1
    rich.lanes.length = 32 ∧ rich.q.length = 4 ∧ rich.n.length = 4 ∧ rich.lc.length = 3 ∧ rich.clasps.length = 4
    ∧ s.teamOf rich = some loadTeam
    ∧ (∀ j, j < 32 → ((rich.lane j).svc.isSome = true ↔ (rich.lane j).st = .park .fault ∨ (rich.lane j).st = .park .syscall))
    ∧ (let set := (List.range 8).filter (fun a => a ≠ 0)
       let h := (loadGroup' loadTeam loadLaunch [s.savedGroup rich] (s.groupBytes rich set)).1
       (h.rv 1 1, h.rv 7 31, h.rs 62, h.txn) = (5, 9, 0x123456789ABCDEF0, some { snap := 5, doomed := true })
       ∧ (h.lane 0).svc = (rich.lane 0).svc ∧ { h.lane 2 with wait := 0 } = rich.lane 2 ∧ h.lc[0]? = rich.lc[0]?
       ∧ (h.clasps.map Clasp.pend) = [-3, 0, 0, 0] ∧ sget h.g 2 = 0x01FFFFC000000010) := by decide +kernel
/-! ## Witnesses: the front complex -/

/-- A queue descriptor (R332) at 0x6000: ring of 16 packets at 0x9000, wake word at 0x8000, watchdog of 10 µs. -/
def descBytes : List Byte :=
  leBytes 8 0 ++ [0, 4] ++ leBytes 2 1 ++ leBytes 4 0 ++ leBytes 4 10 ++ leBytes 4 0 ++ leBytes 8 0x7000 ++ leBytes 8 0x8000
    ++ leBytes 8 0x9000 ++ leBytes 8 0xA000 ++ leBytes 8 0xA400
/-- Its context's descriptor at 0x7000, and a code object at 0xC000 of one kernel with one role of 32 lanes (R98 to R100). -/
def kernelCells : List (Nat × Byte) :=
  number 0x7000 (leBytes 8 0x20000000) ++ number 0x7018 (leBytes 4 1) ++ number 0xC000 (leBytes 4 0x4F5A4B47 ++ leBytes 2 1) ++ number 0xC006 [0x10, 0] ++ number 0xC008 (leBytes 4 1)
    ++ number 0xC00C (leBytes 4 128) ++ number 0xC010 (leBytes 4 0x400) ++ number 0xC014 (leBytes 4 0x100)
    ++ number 0xC094 [1] ++ number 0xC0A0 [32, 0, 4, 1]
/-- A packet of a TYPE; a LAUNCH of the kernel's one team. -/
def packetBytes (typ : Nat) : List Byte := leBytes 8 typ ++ List.replicate 56 0
def launchBytes (x : Nat) : List Byte :=
  leBytes 8 1 ++ leBytes 8 0xC000 ++ leBytes 4 0 ++ leBytes 4 x ++ leBytes 2 1 ++ leBytes 2 1 ++ [1] ++ List.replicate 35 0

/-- The queue in row 0 with a packet prepared at its issue point. -/
def queueing (r : Row) (b : List Byte) : State :=
  { machine 1 with
    rows := [{ r with cores := 1, qdesc := 0x6000, prefetched := [{ idx := 0, bytes := b }] }]
    mem := ssets (machine 1).mem (number 0x6000 descBytes ++ kernelCells ++ number 0x9000 b)
    contexts := [{ id := 1, objects := [{ addr := 0xC000, data := 0xD000 }] }]
    teams := [], groups := [], launches := [] }

theorem witness_QueueRows :
    (queueing {} (packetBytes 4)).canCommit 0 = true ∧ ((queueing {} (packetBytes 4)).row 0).valid = false
    ∧ (machine 1).canCommit 0 = false ∧ ((queueing {} (packetBytes 4)).qdescOf 0).sizelog = 4
    ∧ ((queueing { valid := true, hold := true } []).row 0).valid = true ∧ (1 : DWord).getLsbD 0 = true
    ∧ (0x6000 : Nat) ∉ (queueing { valid := true } []).destroying
    ∧ (queueing { valid := true } []).unmapped.length < 4096
    ∧ (queueing { valid := true, watch := true, notify := 1 } []).frontServed 0x8000 4 = true
    ∧ (queueing { valid := true } []).draining 0x6000 = false ∧ (queueing { valid := true } []).WordsAligned
    ∧ (queueing { valid := true } []).wakeWord ((queueing { valid := true } []).qdescOf 0) ≠ 1
    ∧ (queueing { valid := true } []).watches.length + ((queueing { valid := true } []).rowWatches 5).length
        + (queueing { valid := true } []).peerWatches.length < 1024 := by
  refine ⟨?_, ?_, ?_, ?_, ?_, ?_, ?_, ?_, ?_, ?_, aligned_of_nil (by decide +kernel) (by decide +kernel), ?_, ?_⟩ <;> decide +kernel

theorem witness_RowsThatMayNotCommit :
    ((machine 1).row 0).cores = 0 ∧ ((machine 1).qdescOf 0).sizelog < 4
    ∧ (let s := queueing { valid := true } []
       ((s.row 0).valid = true ∧ (s.row 0).qdesc = 0x6000))
    ∧ ({ machine 1 with unmapped := [{ desc := 0x6000, notify := 1 }] } : State).unmapped.find? (fun u => u.desc = 0x6000)
        = some { desc := 0x6000, notify := 1 }
    ∧ (queueing {} []).wakeWord ((queueing {} []).qdescAt 0x6000) ≠ 1 := by decide +kernel

theorem witness_PacketsIssue :
    let v : Row := { valid := true }
    (queueing v (packetBytes 4)).headPacket 0 = some (0, packetBytes 4) ∧ (queueing v []).headPacket 0 = none
    ∧ (queueing v []).headGone 0 = true ∧ ({ queueing v [] with rows := [v] } : State).headGone 0 = false
    ∧ (queueing v (packetBytes 4)).mayIssue 0 (packetBytes 4) = true
    ∧ (queueing { valid := true, hold := true } (packetBytes 4)).mayIssue 0 (packetBytes 4) = false
    ∧ hdrOk (packetBytes 5) = false ∧ hdrOk (packetBytes 4) = true ∧ hdrType (packetBytes 3) = 3
    ∧ (queueing v (packetBytes 4)).frontServed 0x9000 64 = true
    ∧ (queueing v (packetBytes 3)).backedRange (0x6000 + 20) 4 = true := by decide +kernel

/-- A LAUNCH that passes, one without teams, one that names no kernel; a BARRIER that names no signal. -/
def issued (b : List Byte) : Packet × State := (queueing { valid := true } b).issuePacket 0 0 b
theorem witness_PacketsAreAdmitted :
    ((issued (launchBytes 1)).2.admission (issued (launchBytes 1)).1 (launchBytes 1)).toOption.map (fun l => l.x * l.y * l.z) = some 1
    ∧ ((issued (launchBytes 0)).2.admission (issued (launchBytes 0)).1 (launchBytes 0)).toOption.map (fun l => l.x * l.y * l.z) = some 0
    ∧ (match (issued (packetBytes 1)).2.admission (issued (packetBytes 1)).1 (packetBytes 1) with | .error e => e | .ok _ => 0) = 0x11
    ∧ (issued (packetBytes 3)).2.addrsOk (issued (packetBytes 3)).1 (packetBytes 3) = true
    ∧ (issued (packetBytes 3)).1.sigs = [] := by decide +kernel

/-- The checks of R346 one by one: GS 33, a misaligned KOBJ or one that is not mapped, no core allowed, 12 granules of
scratchpad, MEDMASK without a media die. -/
theorem witness_PacketsFail :
    let code := fun (r : Except Nat Launch) => match r with | .error e => e | .ok _ => 0
    let b33 := (launchBytes 1).set 28 33
    let bad := (launchBytes 1).set 12 1
    let x := issued (launchBytes 1)
    code ((issued b33).2.admission (issued b33).1 b33) = 0x12
    ∧ code ((issued bad).2.admission (issued bad).1 bad) = 0x16
    ∧ code (({ x.2 with rows := [{ valid := true, qdesc := 0x6000 }] } : State).admission x.1 (launchBytes 1)) = 0x14
    ∧ code (({ x.2 with mem := ssets x.2.mem [(0xC097, 12)] } : State).admission x.1 (launchBytes 1)) = 0x13
    ∧ code (({ x.2 with boot := { media := false } } : State).admission x.1 ((launchBytes 1).set 31 1)) = 0x15
    ∧ (x.2.frontBytes x.1.ctx 0xC000 16).map (fun h => field h 8 4) = some 1 := by decide +kernel

/-- A BARRIER in flight on the signal at 0xB000, whose STATUS is 0, then 1. -/
def barrier9 : Packet :=
  { id := 9, desc := 0x6000, row := 0, idx := 0, typ := 3, sigs := [0xB000], ctx := { ptroot := 0x20000000, ctxid := 1 } }
def barring (l : List (Nat × Byte)) : State :=
  { queueing { valid := true } [] with packets := [barrier9], mem := ssets (queueing {} []).mem l }
theorem witness_BarriersComplete :
    (barring []).packets.find? (fun p => p.id = 9 && p.typ = 3) = some barrier9
    ∧ (barring []).draining 0x6000 = false ∧ barrier9.sigWatch = []
    ∧ ({ barrier9 with sigWatch := [{ va := 0xB000, space := .mem, addr := 0xB000, seen := true }] } : Packet).sigWatch.any SignalWatch.seen = true
    ∧ (barring []).num .mem 0xB000 8 / 2 ^ 56 = 0 ∧ (barring [(0xB007, 1)]).num .mem 0xB000 8 / 2 ^ 56 = 1
    ∧ (barring []).backedRange 0xB000 8 = true ∧ (barring []).framesLost 0xB000 8 = false
    ∧ (barring []).frontPlace barrier9.ctx 0xB000 8 .store = some { space := .mem, addr := 0xB000 }
    ∧ (barring []).frontPlace barrier9.ctx 0x40000000 8 .store = none ∧ 0xB000 % 128 ≤ 120
    ∧ (barring []).mustHold 1 { space := .mem, addr := 0xB000 } = false
    ∧ ({ barring [] with writes := [{ store1 with line := 0xB000 / 128, entered := true, held := true }] } : State).mustHold 1
        { space := .mem, addr := 0xB000 } = true := by decide +kernel

/-- The launch of the machine with its one team unstarted, in a row that allows core 0. -/
def dispatching : State :=
  { machine 1 with groups := [], teams := [], rows := [{ valid := true, cores := 1 }]
                   launches := [{ loadLaunch with next := 0, started := 0 }]
                   packets := [{ id := 9, desc := 0, row := 0, idx := 0, typ := 1, launch := some 0 }] }
theorem witness_TeamsStart :
    dispatching.thermal = false ∧ dispatching.ranked.map (fun e => (e.1, e.2.2.id)) = [(0, 0)]
    ∧ dispatching.placement 0 { loadLaunch with next := 0, started := 0 } [0] = some [[0]]
    ∧ rampEvents false [[0]] = [0] ∧ rampEvents true [[0, 1], [130]] = [0, 1] ∧ dispatching.rampAllows 0 1 = true
    ∧ (machine 1).ranked = [] ∧ loadLaunch.pool = none ∧ loadLaunch.seats.length = 1
    ∧ dispatching.nextSlot 0 = some 0 ∧ dispatching.halted = false
    ∧ dispatching.placement 1 { loadLaunch with next := 0, started := 0 } [0] = none
    ∧ dispatching.placement 0 { loadLaunch with next := 0, started := 0, coop := true } [0] = some [[0]]
    ∧ fits dispatching.freeOf loadLaunch.need [] 0 = true ∧ dispatching.fuseOk false 0 = true := by decide +kernel

theorem witness_TeamsRetire :
    (machine 1).canRetire loadTeam = false ∧ ({ machine 1 with groups := [] } : State).canRetire loadTeam = true
    ∧ (∃ g ∈ (machine 1).groups, g.team = some 0)
    ∧ ({ machine 1 with groups := [] } : State).team? 0 = some loadTeam := by decide +kernel

/-- A pool whose control word at 0xE000 publishes one record at 0xE100, with and without END; a bin since time 0. -/
def pool1 : Pool := { pctl := 0xE000, recbase := 0xE100, reclog := 4, bins := [⟨4, [⟨4, 0, 0, 0⟩], 0⟩] }
def pooled (l : List (Nat × Byte)) (time : Nat) : State :=
  { machine 1 with launches := [{ loadLaunch with pool := some pool1 }], mem := ssets (machine 1).mem l, time := time }
theorem witness_ContinuationPools :
    (pooled [] 0).frontBytes loadTeam.ctx 0xE000 1 = some [0, 0, 0, 0]
    ∧ (pooled [(0xE003, 0x80)] 0).frontBytes loadTeam.ctx 0xE000 1 = some [0, 0, 0, 0x80]
    ∧ bitN (leNat [0, 0, 0, 0x80]) 31 = true ∧ pool1.taken = leNat [0, 0, 0, 0x80] % 2 ^ 31
    ∧ ((pooled [(0xE000, 1), (0xE100, 4)] 0).frontBytes loadTeam.ctx 0xE100 4).map (fun b => field b 0 4) = some 4
    ∧ (pooled [] 0).frontPlace loadTeam.ctx 0xE004 4 .store = some { space := .mem, addr := 0xE004 }
    ∧ (pooled [] 0).heldAt (0xE004 / 128) = false
    ∧ (pool1.bins.find? (fun c => c.codeoff = 4)).map (fun c => c.recs.length) = some 1 ∧ (pooled [] 0).faulty = []
    ∧ (∀ c ∈ pool1.bins, c.codeoff ≠ 8) ∧ ¬((pooled [] 2000).time < 0 + 2000) ∧ (pooled [] 1999).time < 0 + 2000 := by decide +kernel

/-- Time: a waiting lane keeps its clasp's timer, a queue with a BARRIER in flight its watchdog. -/
theorem witness_TimePasses :
    let s := claspWait { exp := 2, arr := 1, declared := true }
    (.group 0 0 0) ∈ s.waitedClasps ∧ s.ctxRuns loadTeam.ctx = true ∧ s.claspCtx (.group 0 0 0) = some loadTeam.ctx
    ∧ (barring []).watching 0x6000 = true ∧ (machine 1).watching 0x6000 = false
    ∧ (.group 0 0 1) ∉ s.waitedClasps ∧ s.ramps[1]? = some ({} : Ramp) := by decide +kernel

theorem witness_QueuesEnd :
    (machine 1).idleQueue (qctlDesc 0x6000) = true ∧ (barring []).idleQueue (qctlDesc 0x6000) = false
    ∧ ((barring []).inFlight 0x6000).find? (fun p => p.typ = 3) = some barrier9
    ∧ ((queueing { valid := true } []).inFlight 0x6000).find? (fun p => p.typ = 3) = none
    ∧ (machine 1).wdogQueue 0 = none ∧ (queueing { valid := true } []).wdogQueue 0 = some 0x6000
    ∧ ({ barring [] with rows := [{}] } : State).wdogQueue 128 = some 0x6000
    ∧ ((queueing {} []).qdescAt 0x6000).wdogus = 10 ∧ (queueing { valid := true } []).drains = []
    ∧ ({ queueing {} [] with wdogs := [(0x6000, 10)] } : State).wdog 0x6000 = 10
    ∧ ({ queueing {} [] with wdogs := [(0x6000, 9)] } : State).wdog 0x6000 < 10
    ∧ (let e : Drain := { desc := 0x6000, queues := [0x6000], status := 3, jobs := [5] }
       let s : State := { barring [] with drains := [e], destroying := [0x6000] }
       s.draining 0x6000 = true ∧ s.drainReady e = true ∧ ({ s with jobs := [job5] } : State).drainReady e = false
       ∧ s.drains.find? (fun e => e.desc = 0x6000) = some e)
    ∧ (barring []).halted = false ∧ ({ barring [] with thermal := true } : State).halted = true
    ∧ 0x6000 ∈ (queueing { valid := true } []).partQueues 1 ∧ (queueing {} []).backedRange 0xA000 64 = true := by decide +kernel

/-! ## Witnesses: registers of the device, the board and the host -/

/-- Entry 0 of the range table of die 0 holds pages 0 to 15 of 128 slices. -/
def arted : State := { machine 1 with art := sset (sset [] 1 15) 0 0x8070000000000000 }
theorem witness_ControlRegisters :
    ((machine 1).tu 0).unread = [] ∧ ({ machine 1 with tus := [{ unread := [3] }] } : State).tus.map TuBlock.unread = [[3]]
    ∧ invScope 0x200000000 = 2 ∧ invScope 0xF00000100000000 = 1 ∧ bitN ((machine 1).artWord 0 0 0) 63 = false
    ∧ bitN (arted.artWord 0 0 0) 63 = true ∧ (0x8070000000000000 : DWord).getLsbD 63 = true
    ∧ (63 : Nat) < 64 ∧ (255 : Nat) < 256
    ∧ ({ machine 1 with signets := [{ held := false }] } : State).masterRuns (.signet 0 .m) = true
    ∧ (machine 1).masterRuns (.signet 7 .m) = false ∧ (machine 1).masterRuns .policy = true
    ∧ (machine 1).hartRuns .policy = true ∧ (machine 1).hartRuns (.signet 0 .m) = false ∧ isSignet (.signet 7 .m) = true
    ∧ ((machine 1).hart (.signet 7 .m)).csr = []
    ∧ (machine 1).writes = [] ∧ (machine 1).loads = [] ∧ (machine 1).backedRange 0x4000 8 = true
    ∧ ({ machine 1 with writes := [{ store1 with core := busUnit .policy, held := true }] } : State).writes.any
        (fun w => w.core = busUnit .policy) = true
    ∧ (queueing {} []).loaderCode { ptroot := 0x20000000, ctxid := 1 } { addr := 0xC000, data := 0xD000 } = none
    ∧ (queueing {} []).mapped { ptroot := 0x20000000, ctxid := 1 } 0xC400 0x100 { r := true, x := true } = true
    ∧ (queueing {} []).mapped { ptroot := 0x20000000, ctxid := 1 } 0x40000000 0x100 { r := true, w := true } = false
    ∧ (machine 1).jobRequests = [] ∧ (machine 1).framesLost 0x4000 8 = false
    ∧ (queueing {} []).loaderCode { ptroot := 0x20000000, ctxid := 1 } { addr := 0x4000, data := 0xD000 } = some 0x20 ∧ 0 < (machine 1).ncores ∧ (machine 1).ncores ≤ 0x1000000 / 0x10000
    ∧ (machine 1).fns[3]? = some ({} : VirtioFn) := by decide +kernel

/-- A RISC-V core in M mode whose fetch has given ADDI x1, x0, 5, and ECALL (log 10). -/
theorem witness_ServiceCoreInstructions :
    let h : Hart := { pc := 0x100, got := [some 0x0093, some 0x0050] }
    h.x.length = 31 ∧ (0x0093 : DWord).toNat % 4 = 3 ∧ 0x0093 + 65536 * 0x0050 = 5 * 2 ^ 20 + 1 * 2 ^ 7 + 0x13
    ∧ (match hartNext .policy h false with | .retire g => (g.gx 1, g.pc) | .access .. => (0, 0)) = (5, 0x104)
    ∧ (match hartNext (.signet 0 .m) { h with got := [some 0x73, some 0], csr := [(0x305, 0x200)] } false with
        | .retire g => (g.pc, g.csrRaw 0x342) | .access .. => (0, 0)) = (0x200, 11)
    ∧ hartNext .policy { pc := 0x100 } false = .access ⟨.policy, 0x100⟩ .fetch
    ∧ hartMay { pc := 0x100 } .policy ⟨.policy, 0x100⟩ .fetch = true := by decide +kernel

/-- An entry that may be committed: pages 16 to 31, all 128 slices, interleave 7. -/
theorem witness_ArtEntriesCommit :
    ({ arted with art := sset arted.art 3 31 } : State).artOk 0 1 0x8073800000000010 31 = true
    ∧ arted.artOk 0 1 0x8073800000000000 31 = false ∧ (arted.artOk 0 1 0x8070000000000010 31) = false := by decide +kernel

theorem witness_Resets :
    (∀ b ∈ (machine 1).boot.sources, b.formed = false) ∧ (machine 1).boot.attach = false
    ∧ ({ machine 1 with boot := { attach := true } } : State).boot.attach = true ∧ (machine 1).fns[3]? = some ({} : VirtioFn)
    ∧ (machine 1).hostUp = true ∧ ({ machine 1 with hostCtl := 1 } : State).hostCtl.getLsbD 0 = true
    ∧ 0 < (machine 1).allDies ∧ 2 / 65536 < (virtioDevice 3).queues ∧ ¬(2 * 65536 / 65536 < (virtioDevice 3).queues)
    ∧ ({ status := 4 } : VirtioFn).status.getLsbD 2 = true ∧ (machine 1).hostEvents = [] := by decide +kernel

/-- Inbound entry 0 admits device 7 to read and write page 4. -/
def inbound : State := { machine 1 with inb := sset (sset [] 0 0xE01C000000000004) 1 4 }
theorem witness_InboundAccesses :
    inbound.thermal = false ∧ inbound.WordsAligned ∧ inbound.admits 7 0x4000 8 62 = true ∧ inbound.admits 7 0x4FF8 8 61 = true
    ∧ inbound.admits 7 0x4FF9 8 61 = false ∧ inbound.admits 8 0x4000 8 62 = false ∧ inbound.inboundRoom (linesAt 0x4000 8) true = true
    ∧ inbound.faulty = [] ∧ inbound.framesLost 0x4000 8 = false ∧ inbound.backedRange 0x4000 8 = true
    ∧ ({ inbound with retired := [4] } : State).framesLost 0x4000 8 = true ∧ ¬((0 : Nat) = (1 : Word).toNat ↔ true = true) ∧ inbound.readFails 0x4000 = false
    ∧ inbound.heldAt (0x4000 / 128) = false ∧ (7 : Nat) ≠ inbound.boot.domIdx.toNat := by
  refine ⟨by decide +kernel, aligned_of_nil (by decide +kernel) (by decide +kernel), by decide +kernel⟩

/-- A checkpoint descriptor at 0x6000 (R376): context 0x7000, one list entry at 0x8000, buddy 1 of a domain of 2. -/
def ckptBytes : List Byte :=
  leBytes 8 0x7000 ++ leBytes 8 0 ++ leBytes 8 0 ++ leBytes 8 5 ++ leBytes 8 0x8000 ++ leBytes 4 1 ++ leBytes 2 0 ++ leBytes 2 1
    ++ List.replicate 80 0
def checkpointing : State :=
  { machine 1 with boot := { domSize := 2 }, snaps := [{ num := 5, ctx := 1 }]
                   mem := ssets (machine 1).mem (kernelCells ++ number 0x6000 ckptBytes ++ [(0x8009, 0), (0x8008, 1), (0x8001, 0x40)]) }
def running : Checkpoint :=
  { desc := 0x6000, ctx := { ptroot := 0x20000000, ctxid := 1 }, snap := 5, snapNow := false, verify := false, buddy := 1
    list := 0x8000, nent := 1, store := 0, manifest := 0, blocks := [(0x4000, 1)] }
theorem witness_Checkpoints :
    checkpointing.ckpt = none ∧ checkpointing.ckptOk 0x6000 (checkpointing.deviceBytes 0x6000 128) = true
    ∧ checkpointing.ckptOk 0x5000 (checkpointing.deviceBytes 0x5000 128) = false
    ∧ checkpointing.routeTo 1 = false ∧ running.outcome = none ∧ running.blocks = [(0x4000, 1)]
    ∧ (checkpointing.frontPlace running.ctx 0x4000 4096 { r := true }).isSome = true
    ∧ checkpointing.frontPlace running.ctx 0x40000000 4096 { r := true } = none := by decide +kernel

/-- With a route to the buddy, which admits nothing, or everything to device 0: the block is refused, or its slot admitted. -/
theorem witness_CheckpointBlocks :
    let s : State := { checkpointing with route := ssets [] [(1, 1), (513, 1)] }
    s.routeTo 1 = true ∧ s.frontPlace running.ctx 0x4000 4096 { r := true } = some { space := .mem, addr := 0x4000 }
    ∧ s.framesLost 0x4000 4096 = false ∧ s.backedRange 0x4000 4 = true ∧ s.faulty = [] ∧ s.halted = false
    ∧ ({ s with retired := [4] } : State).badIn 0x4000 4 ≠ none ∧ running.part.length < 4096
    ∧ (match s.storeBlock running [] [] 16 0 with | .refused _ => true | _ => false) = true
    ∧ ({ s with peerInb := ssets [] [(512, 0xE7FC000000000000), (513, 0x7FFFFFF)] } : State).peerAdmits 1 0 32 false true = true := by
  decide +kernel

theorem witness_AttestationLinksAndBoard :
    (machine 1).areq = none ∧ (0x4040 : DWord).toNat % 64 = 0 ∧ (0x4041 : DWord).toNat % 64 ≠ 0
    ∧ (machine 1).backedRange 0x4040 1024 = true ∧ (machine 1).backedRange 0x8000000000 1024 = false
    ∧ (machine 1).halted = false ∧ ({ machine 1 with boardState := 3 } : State).halted = true
    ∧ (machine 1).mrs.length = 8 ∧ (machine 1).mrs[7]? = some 0 ∧ (17 : Nat) < 9 * (machine 1).dies := by decide +kernel

/-! ## Single steps: each expected value is worked out by hand from the rule named -/

/-- What a group of core 0 holds after an instruction. -/
def group0After (slot : Nat) (o : Outcome State Fault Refusal) : Option Group := (after o).bind (fun t => t.group? 0 slot)

/-- The machine with two registers of lane 0 set. -/
def regs (a b : Word) : State := withGroup (machine 1) (fun g => (g.wv 2 0 a).wv 3 0 b)

/-- IADD wraps mod 2³²; IADD.SAT of 2³¹ − 1 and 1 stays (R143). -/
theorem test_iadd_wraps :
    (group0After 0 (exec (.iadd [] 1 2 3) (regs 0xFFFFFFFF 2))).map (fun g => g.rv 1 0) = some 1
    ∧ (group0After 0 (exec (.iadd [.operand 0 7 0 1] 1 2 3) (regs 0x7FFFFFFF 1))).map (fun g => g.rv 1 0) = some 0x7FFFFFFF := by
  decide +kernel

/-- A false guard leaves the destination and moves the lane on (R73). -/
theorem test_false_guard_skips :
    (group0After 0 (exec (.iadd [.operand 0 0 0 0] 2 2 3) (regs 5 2))).map (fun g => (g.rv 2 0, (g.lane 0).pc))
      = some (5, 0x10008) := by decide +kernel

/-- The high half of a signed product (R143): −2³¹ × 2 is −2³². -/
theorem test_imulh_signed :
    (group0After 0 (exec (.imulh [] 1 2 3) (regs 0x80000000 2))).map (fun g => g.rv 1 0) = some 0xFFFFFFFF := by decide +kernel

/-- S63 stays zero (R77). -/
theorem test_s63_discards :
    (group0After 0 (exec (.smovi [] 63 5) (machine 1))).map (fun g => g.rs 63) = some 0 := by decide +kernel

/-- VOTE.S over lanes 0 to 3 with P1 set in lane 2: the path mask above, the vote below (R151). -/
theorem test_vote_mask :
    (group0After 0 (exec (.voteS [] 1 1) (withGroup (machine 0xF) (fun g => g.modLane 2 (fun l => l.setPred 1 true))))).map
      (fun g => g.rs 1) = some 0x0000000F00000004 := by decide +kernel

/-- 1.0 + 2.0 = 3.0 without a flag; 1.0 ÷ 0 is an infinity with FZ (R109, R175, R181). -/
theorem test_float_values :
    (group0After 0 (exec (.fadd [] 1 2 3) (regs 0x3F800000 0x40000000))).map (fun g => (g.rv 1 0, (g.lane 0).flags))
      = some (0x40400000, 0)
    ∧ (group0After 0 (exec (.fdiv [] 1 2 3) (regs 0x3F800000 0))).map (fun g => (g.rv 1 0, (g.lane 0).flags))
      = some (0x7F800000, 2) := by decide +kernel

/-- 1.0 ÷ 3.0 in FP32 is 0x3EAAAAAB, inexact; √4.0 is 2.0, exact (R181). -/
theorem test_float_rounding :
    (group0After 0 (exec (.fdiv [] 1 2 3) (regs 0x3F800000 0x40400000))).map (fun g => (g.rv 1 0, (g.lane 0).flags))
      = some (0x3EAAAAAB, 0x10)
    ∧ (group0After 0 (exec (.fsqrt [] 1 2) (regs 0x40800000 0))).map (fun g => (g.rv 1 0, (g.lane 0).flags))
      = some (0x40000000, 0) := by decide +kernel

/-- A rotation by one reads the next lane (R80). -/
theorem test_facet_rotates :
    (group0After 0 (exec (.iadd [.facet 0x21 0 0] 1 2 3) (withGroup (machine 1) (fun g => g.wv 2 1 7)))).map
      (fun g => g.rv 1 0) = some 7 := by decide +kernel

/-- CALL pushes the offset of the next instruction and goes to its target; RET comes back (R158, R159). -/
theorem test_call_and_ret :
    (group0After 0 (exec (.call [] 0 7 16) (machine 1))).map (fun g => ((g.lane 0).pc, (g.lane 0).rets)) = some (0x10040, [4])
    ∧ (group0After 0 (exec (.ret []) (withGroup (machine 1) (fun g => g.modLane 0 (fun l => { l with rets := [4] }))))).map
        (fun g => ((g.lane 0).pc, (g.lane 0).rets)) = some (0x10004, []) := by decide +kernel

/-- A backward branch (R156), and the back-edge of a loop with two rounds left (R164). -/
theorem test_branch_and_back_edge :
    (group0After 0 (exec (.bra [] 0 7 0x3FFFFF) (machine 1))).map (fun g => (g.lane 0).pc) = some 0xFFFC
    ∧ (group0After 0 (exec (.nop []) (withGroup (machine 1) (fun g =>
        { g with lc := [{ count := 2, start := 0xFF00, stop := 0x10004 }, {}, {}] })))).map
        (fun g => ((g.lane 0).pc, (g.lc.getD 0 {}).count)) = some (0xFF00, 1) := by decide +kernel

/-- TRAP 5 parks the lane at its PC with the code 0x85 (R303, R330); MBXRD in user mode raises PRIV (R301). -/
theorem test_traps_park :
    (group0After 0 (exec (.trap [] 5) (machine 1))).map (fun g => ((g.lane 0).st, (g.lane 0).pc, (g.lane 0).svc.map SvcRecord.code))
      = some (.park .syscall, 0x10000, some 0x85)
    ∧ (group0After 0 (exec (.mbxrd [] 1 2) (machine 1))).map (fun g => (g.lane 0).svc.map SvcRecord.code) = some (some 0x02) := by
  decide +kernel

/-- A load beyond the mapped GiB takes PAGEFAULT with the level of the entry, 2 (R320). -/
theorem test_page_fault :
    (group0After 0 (exec (.ld [] 1 2 0) (regs 0x40000000 0))).map
      (fun g => (g.lane 0).svc.map (fun r => (r.code, r.sub, r.addr))) = some (some (0x04, 2, 0x40000000)) := by decide +kernel

/-- A byte load sign-extends (R250): WIDTH 2 of 0x80. -/
theorem test_load_returns :
    (group0After 0 (exec (.loadReturn 3 .deliver) { machine 1 with loads := [{ load3 with
      width := 2, bytes := 1, sampled := true, lanes := [{ lane := 0, space := .mem, addr := 4, data := [0x80] }] }] })).map
      (fun g => g.rv 1 0) = some 0xFFFFFF80 := by decide +kernel

/-- A store and an ATOM.ADD take effect at their homes (R216, R252). -/
theorem test_writes_apply :
    ((after (exec (.homeApplyWrite 1 .apply) { machine 1 with writes := [{ store1 with entered := true, way := there }] })).map
      (fun t => (t.view .mem 4, t.writes.length))) = some (7, 0)
    ∧ ((after (exec (.homeApplyWrite 1 .apply) { machine 1 with writes := [{ atom1 with way := there }], loads := [load2], mem := sset (machine 1).mem 4 3 })).map
      (fun t => (t.view .mem 4, (t.load? 2).map (fun l => l.lanes.map LoadLane.data)))) = some (10, some [[3, 0, 0, 0]]) := by
  decide +kernel

/-- SNAP takes 1 and raises the clock to 2 (R238, R239). -/
theorem test_snap_takes_the_clock :
    ((after (exec (.snap [] 1) (machine 1))).map (fun t => (t.clock, t.snaps.map Snapshot.num,
      (t.group? 0 0).map (fun g => g.rs 1)))) = some (2, [1], some 1) := by decide +kernel

/-- The arrival that a clasp still expects flips its phase (R291). -/
theorem test_arrive_flips :
    (after (exec (.arrive [] 0) (claspAt { declared := true }))).bind (fun t => (t.clasp? (.group 0 0 0)).map (fun c => (c.phase, c.arr)))
      = some (true, 0) := by decide +kernel

/-- A claim of 64 granules is granted from a pool of 64 (R55). -/
theorem test_claim_is_granted :
    (after (exec (.claimGrant 0) (claiming 64))).bind (fun t => (t.group? 0 0).map (fun g => (g.alloc, (g.lane 0).st, (g.lane 0).pc)))
      = some (65, .run, 0x10004) := by decide +kernel

/-- LANECTL RETRY of lane 0 alone (R317). -/
theorem test_retry :
    (group0After 0 (exec (.lanectlRetry 0 (1 + 2 ^ 38)) (trapped .fault 0x03))).map (fun g => ((g.lane 0).st, (g.lane 1).st))
      = some (.run, .park .fault) := by decide +kernel

/-- A microsecond is 1,000 ns (R342); an NOP packet completes and frees its slot (R339, R340). -/
theorem test_time_and_packets :
    ((after (exec .rampTick (machine 1))).map State.time) = some 1000
    ∧ ((after (exec (.packetNop 0) (queueing { valid := true } (packetBytes 4)))).map
        (fun t => (t.deviceNum 0x9000 8, t.deviceNum (0x6000 + 20) 4, t.packets.length))) = some (0, 1, 0) := by decide +kernel

/-- A dispatched team stands on core 0 with its group's 32 lanes at the kernel's entry, registers zero (R42, R344). -/
theorem test_dispatch :
    (after (exec (.dispatchStep 0) dispatching)).bind (fun t => (t.group? 0 0).map (fun g =>
      ((g.lane 31).st, (g.lane 31).pc, g.alloc, t.teams.length))) = some (.run, 0, 128, 1) := by decide +kernel

/-- A device of the domain reads what it wrote (R371). -/
theorem test_inbound_access :
    ((after (exec (.inboundAccess 7 (.write 0x4000 [1, 2] false)) inbound)).map (fun t => t.view .mem 0x4001)) = some 2
    ∧ ((after (exec (.inboundAccess 8 (.write 0x4000 [1, 2] false)) inbound)).map (fun t => t.view .mem 0x4001)) = some 0 := by
  decide +kernel


/-- A signet core reaches the scratchpads of its own cluster and takes an access fault beyond them (R9, R316). -/
theorem test_signet_scratchpad :
    let s : State := { machine 1 with signets := [{ held := false }, { held := false }] }
    ((after (exec (.registerWrite ⟨.signetPad 0 0, 8⟩ (.write 0x50)) s)).map (fun t => t.num (.scratch 0) 8 8)) = some 0x50
    ∧ ((after (exec (.registerWrite ⟨.signetPad 1 0, 8⟩ .read) s)).map State.busFault) = some true
    ∧ ((after (exec (.registerWrite ⟨.signet 0 .u, 0x01F0000000000008⟩ .read) s)).map State.busFault) = some true := by
  decide +kernel

/-- Text that has been fetched is supplied from its copy until the buffers lose the line (R93). -/
theorem test_fetched_copy :
    let s := (((machine 1).keepText group0 0x10000 1).put .mem [(0x10000, 0xAB)])
    (((machine 1).put .mem [(0x10000, 0xAB)]).fetchWord group0 0x10000).toOption = some 0xAB
    ∧ (s.fetchWord group0 0x10000).toOption = some 0
    ∧ ((s.loseText 0 [0x10000 / 128]).fetchWord group0 0x10000).toOption = some 0xAB := by decide +kernel

end Sys2Proof.Tests
end

namespace Sys2Proof.Machine

/-! ## Memory at its homes -/

/-- The bytes of local memory are those of its map. -/
@[simp] theorem State.bytes_mem (s : State) : ∀ (n a : Nat), s.bytes .mem a n = sbytes s.mem a n
  | 0, _ => rfl
  | n + 1, a => congrArg (sget s.mem a :: ·) (State.bytes_mem s n (a + 1))

/-- The map of local memory once the partials of a line among `us` are combined, in ascending core index (R224). -/
def recalledMem (m : SMap 8) (us : List UPartial) (line : Nat) : SMap 8 :=
  (sortBy (fun (a b : UPartial) => l1Core a.l1 ≤ l1Core b.l1) (us.filter (fun u => u.addr / 128 = line))).foldl
    (fun m u => ssets m (wordBytes u.addr (atomNew u.op (BitVec.ofNat 32 (leNat (sbytes m u.addr 4))) u.val 0))) m

/-- A recall changes memory and takes the partials of its line away, and does nothing else. -/
theorem State.recall_eq (s : State) (line : Nat) :
    s.recall line = { s with
      mem := recalledMem s.mem s.upartials line, upartials := s.upartials.filter (fun u => u.addr / 128 ≠ line) } := by
  have fold : ∀ (l : List UPartial) (t : State),
      l.foldl (fun s u => s.put .mem (wordBytes u.addr (atomNew u.op (s.word .mem u.addr) u.val 0))) t
        = { t with mem := l.foldl (fun m u => ssets m
            (wordBytes u.addr (atomNew u.op (BitVec.ofNat 32 (leNat (sbytes m u.addr 4))) u.val 0))) t.mem } := by
    intro l
    induction l with
    | nil => intro t; rfl
    | cons u r ih =>
      intro t
      rw [List.foldl_cons, ih]
      simp only [State.put, State.word, State.num, State.bytes_mem, List.foldl_cons]
  exact fold _ _

/-! ## What a unit's accesses to local memory leave alone -/

/-- A row but for the wake that its watch may have seen, and a packet but for the signals. -/
def Row.unwoken (r : Row) : Row := { r with woken := false }
def Packet.unseen (p : Packet) : Packet := { p with sigWatch := [] }

/-- Units of the device have read and written local memory: the bytes, the copies and the watches of lines have changed, the
errors that were met are logged, and nothing else has changed; queues, unmapped watches and packets are those that stood. -/
structure State.Served (s t : State) : Prop where
  rest : { t with
    mem := s.mem, upartials := s.upartials, l1 := s.l1, slices := s.slices, faulty := s.faulty, retired := s.retired
    elogHead := s.elogHead, elogWrapped := s.elogWrapped, watches := s.watches, peerWatches := s.peerWatches
    rows := s.rows, unmapped := s.unmapped, packets := s.packets } = s
  rows : t.rows.map Row.unwoken = s.rows.map Row.unwoken
  unmapped : t.unmapped.map Unmapped.desc = s.unmapped.map Unmapped.desc
  packets : t.packets.map Packet.unseen = s.packets.map Packet.unseen

section
variable {s t : State} (h : s.Served t)
include h

theorem State.Served.boot : t.boot = s.boot := by have e := congrArg State.boot h.rest; exact e
theorem State.Served.teams : t.teams = s.teams := by have e := congrArg State.teams h.rest; exact e
theorem State.Served.launches : t.launches = s.launches := by have e := congrArg State.launches h.rest; exact e
theorem State.Served.writes : t.writes = s.writes := by have e := congrArg State.writes h.rest; exact e
theorem State.Served.loads : t.loads = s.loads := by have e := congrArg State.loads h.rest; exact e
theorem State.Served.jobs : t.jobs = s.jobs := by have e := congrArg State.jobs h.rest; exact e
theorem State.Served.time : t.time = s.time := by have e := congrArg State.time h.rest; exact e
theorem State.Served.clock : t.clock = s.clock := by have e := congrArg State.clock h.rest; exact e
theorem State.Served.hostCtl : t.hostCtl = s.hostCtl := by have e := congrArg State.hostCtl h.rest; exact e
theorem State.Served.elogBase : t.elogBase = s.elogBase := by have e := congrArg State.elogBase h.rest; exact e
theorem State.Served.peer : t.peer = s.peer := by have e := congrArg State.peer h.rest; exact e
theorem State.Served.mrs : t.mrs = s.mrs := by have e := congrArg State.mrs h.rest; exact e
theorem State.Served.signets : t.signets = s.signets := by have e := congrArg State.signets h.rest; exact e
theorem State.Served.groups : t.groups = s.groups := by have e := congrArg State.groups h.rest; exact e
theorem State.Served.boardState : t.boardState = s.boardState := by have e := congrArg State.boardState h.rest; exact e
theorem State.Served.bootEntry : t.bootEntry = s.bootEntry := by have e := congrArg State.bootEntry h.rest; exact e
theorem State.Served.hostUp : t.hostUp = s.hostUp := by have e := congrArg State.hostUp h.rest; exact e
theorem State.Served.destroying : t.destroying = s.destroying := by have e := congrArg State.destroying h.rest; exact e
theorem State.Served.drains : t.drains = s.drains := by have e := congrArg State.drains h.rest; exact e
theorem State.Served.events : t.events = s.events := by have e := congrArg State.events h.rest; exact e
theorem State.Served.wdogs : t.wdogs = s.wdogs := by have e := congrArg State.wdogs h.rest; exact e
theorem State.Served.nextId : t.nextId = s.nextId := by have e := congrArg State.nextId h.rest; exact e

/-- A row after units have accessed memory: at most its wake has been seen. -/
theorem State.Served.row (q : Nat) : (t.row q).unwoken = (s.row q).unwoken := by
  have e : ∀ u : State, (u.row q).unwoken = (u.rows.map Row.unwoken).getD q (Row.unwoken {}) := fun u => by
    unfold State.row
    rw [List.getD_map]
  rw [e, e, h.rows]

end

theorem State.Served.refl (s : State) : s.Served s := ⟨rfl, rfl, rfl, rfl⟩

theorem State.Served.trans {s t u : State} (a : s.Served t) (b : t.Served u) : s.Served u := by
  refine ⟨?_, b.rows.trans a.rows, b.unmapped.trans a.unmapped, b.packets.trans a.packets⟩
  have h := a.rest
  rw [← b.rest] at h
  exact h

theorem State.Served.foldl {α : Type} {f : State → α → State} (hf : ∀ (s : State) a, s.Served (f s a)) :
    ∀ (l : List α) (s : State), s.Served (l.foldl f s)
  | [], s => .refl s
  | a :: r, s => (hf s a).trans (State.Served.foldl hf r (f s a))

theorem State.served_recall (s : State) (line : Nat) : s.Served (s.recall line) := by
  rw [State.recall_eq]; exact ⟨rfl, rfl, rfl, rfl⟩

theorem State.served_recallLines (s : State) (l : List Nat) : s.Served (s.recallLines l) :=
  .foldl State.served_recall l s

theorem State.served_fire (s : State) : s.Served s.fire := by
  refine ⟨rfl, ?_, ?_, ?_⟩
  · simp only [State.fire, List.map_map]
    refine List.map_congr_left (fun r _ => ?_)
    simp only [Function.comp]; split <;> rfl
  · simp only [State.fire, List.map_map]
    refine List.map_congr_left (fun u _ => ?_)
    simp only [Function.comp]; split <;> rfl
  · simp only [State.fire, List.map_map]
    rfl

theorem State.served_putMem (s : State) (l : List (Nat × Byte)) : s.Served (s.put .mem l) := ⟨rfl, rfl, rfl, rfl⟩

theorem State.served_homeWriteLine (s : State) (l1 : Option Nat) (line : Nat) (l : List (Nat × Byte)) :
    s.Served (s.homeWriteLine l1 line l) :=
  let u := ((s.recall line).l1Invalidate l1 line).numberWrite line |>.2
  have h : (s.recall line).Served u := ⟨rfl, rfl, rfl, rfl⟩
  (((s.served_recall line).trans h).trans (u.served_putMem l)).trans (u.put .mem l).served_fire

theorem State.served_homeWrite (s : State) (pa : Nat) (l : List Byte) : s.Served (s.homeWrite pa l) :=
  .foldl (fun s _ => s.served_homeWriteLine _ _ _) _ s

theorem State.served_deviceWrite (s : State) (pa : Nat) (l : List Byte) : s.Served (s.deviceWrite pa l) := by
  unfold State.deviceWrite
  split
  · exact s.served_homeWrite pa l
  · exact .refl s

theorem State.served_elog (s : State) (cls unit addr : Nat) : s.Served (s.elog cls unit addr) := by
  unfold State.elog
  split
  · exact s.served_deviceWrite _ _
  · exact (s.served_deviceWrite _ _).trans ⟨rfl, rfl, rfl, rfl⟩

theorem State.served_retireFrame (s : State) (pa : Nat) : s.Served (s.retireFrame pa) := by
  unfold State.retireFrame
  split
  · exact s.served_elog _ _ _
  · exact State.Served.trans (t := { s with retired := s.retired ++ [pa / 4096] }) ⟨rfl, rfl, rfl, rfl⟩
      (State.served_elog _ _ _ _)

theorem State.served_noteReads (s : State) (l : List Nat) : s.Served (s.noteReads l) :=
  .foldl (fun s _ => .foldl (fun (s : State) e => State.Served.trans (t := { s with faulty := s.faulty.erase e })
    ⟨rfl, rfl, rfl, rfl⟩ (State.served_elog _ _ _ _)) _ s) l s

theorem State.served_readEntries (s : State) (l : List Nat) : s.Served (s.readEntries l) := by
  have h := (s.served_recallLines (dedup (l.map (· / 128)))).trans (State.served_noteReads _ l)
  unfold State.readEntries
  dsimp only
  split
  · split
    · exact h.trans (State.served_retireFrame _ _)
    · exact h
  · exact h

theorem State.served_walkedFrom (s : State) (va : DWord) (root : Nat) : s.Served (s.walkedFrom va root) := by
  unfold State.walkedFrom
  split
  · exact .refl s
  · exact s.served_readEntries _

theorem State.served_walked (s : State) (via : Via) (c : CtxDesc) (va : DWord) : s.Served (s.walked via c va) := by
  unfold State.walked
  split
  · exact .refl s
  · exact s.served_walkedFrom _ _


end Sys2Proof.Machine

namespace Sys2Proof.Machine

/-! ## What a unit's write leaves in memory -/

/-- Sorting adds no element. -/
theorem mem_of_mem_sortBy {α : Type} (le : α → α → Bool) (x : α) : ∀ (l acc : List α),
    x ∈ l.foldl (fun acc a => insertBy le a acc) acc → x ∈ l ∨ x ∈ acc
  | [], _, h => .inr h
  | a :: r, acc, h => by
    have ins : ∀ m : List α, x ∈ insertBy le a m → x = a ∨ x ∈ m := by
      intro m
      induction m with
      | nil => simp [insertBy]
      | cons b m ih =>
        intro h
        unfold insertBy at h
        split at h
        · rcases List.mem_cons.mp h with h | h
          · simp [h]
          · rcases ih h with h | h <;> simp [h]
        · simpa using h
    rcases mem_of_mem_sortBy le x r _ h with h | h
    · simp [h]
    · rcases ins acc h with h | h <;> simp [h]

/-- The bytes below a line stay when its partials are combined. -/
theorem sget_recalledMem_below (m : SMap 8) (us : List UPartial) (line a : Nat) (h : a < 128 * line) :
    sget (recalledMem m us line) a = sget m a := by
  have fold : ∀ (l : List UPartial) (m : SMap 8), (∀ u ∈ l, u.addr / 128 = line) →
      sget (l.foldl (fun m u => ssets m (wordBytes u.addr (atomNew u.op (BitVec.ofNat 32 (leNat (sbytes m u.addr 4))) u.val 0)))
        m) a = sget m a := by
    intro l
    induction l with
    | nil => intro m _; rfl
    | cons u r ih =>
      intro m hu
      rw [List.foldl_cons, ih _ (fun v hv => hu v (by simp [hv]))]
      refine sget_ssets_other _ _ _ (fun e he => ?_)
      have h1 := (mem_number e _ _ he).1
      have h2 := hu u (by simp)
      omega
  refine fold _ _ (fun u hu => ?_)
  rcases mem_of_mem_sortBy _ u _ _ hu with hu | hu
  · simpa using (List.mem_filter.mp hu).2
  · simp at hu

/-- Of a list, `dedup` keeps a sublist in order. -/
theorem dedup_sublist {α : Type} [BEq α] (l : List α) : (dedup l).Sublist l := by
  have fold : ∀ (l acc : List α), ∃ r : List α, r.Sublist l
      ∧ l.foldl (fun acc a => if acc.contains a then acc else acc ++ [a]) acc = acc ++ r := by
    intro l
    induction l with
    | nil => intro acc; exact ⟨[], .slnil, by simp⟩
    | cons a l ih =>
      intro acc
      rw [List.foldl_cons]
      split
      · obtain ⟨r, h1, h2⟩ := ih acc
        exact ⟨r, h1.cons a, h2⟩
      · obtain ⟨r, h1, h2⟩ := ih (acc ++ [a])
        exact ⟨a :: r, h1.cons_cons a, by rw [h2]; simp⟩
  obtain ⟨r, h1, h2⟩ := fold l []
  unfold dedup
  rw [h2]
  exact h1

/-- It keeps every element. -/
theorem mem_dedup {α : Type} [BEq α] [LawfulBEq α] (l : List α) (x : α) : x ∈ dedup l ↔ x ∈ l := by
  have fold : ∀ (l acc : List α),
      x ∈ l.foldl (fun acc a => if acc.contains a then acc else acc ++ [a]) acc ↔ x ∈ acc ∨ x ∈ l := by
    intro l
    induction l with
    | nil => intro acc; simp
    | cons a l ih =>
      intro acc
      rw [List.foldl_cons]
      split
      · rename_i h
        rw [ih acc, List.mem_cons]
        have ha : a ∈ acc := by simpa using h
        constructor
        · rintro (h | h) <;> simp [h]
        · rintro (h | rfl | h) <;> simp [*]
      · rw [ih, List.mem_append, List.mem_singleton, List.mem_cons, or_assoc]
  unfold dedup
  rw [fold]
  simp

/-- The cells of one line, written, read as the list that was numbered. -/
theorem sget_ssets_line (line : Nat) : ∀ (l : List Byte) (m : SMap 8) (n k : Nat), k < l.length → (n + k) / 128 = line →
    sget (ssets m ((number n l).filter (fun c => c.1 / 128 = line))) (n + k) = l.getD k 0
  | [], _, _, _, h, _ => absurd h (by simp)
  | b :: r, m, n, 0, _, hl => by
    have hl' : n / 128 = line := hl
    rw [number, List.filter_cons_of_pos (by simpa using hl')]
    show sget (ssets (sset m n b) _) (n + 0) = b
    rw [sget_ssets_other]
    · simp
    · intro e he
      have := (mem_number e _ _ (List.mem_of_mem_filter he)).1
      omega
  | b :: r, m, n, k + 1, h, hl => by
    have e : n + (k + 1) = n + 1 + k := by omega
    have ih := fun m' => sget_ssets_line line r m' (n + 1) k (by simpa using h) (by rw [← e]; exact hl)
    rw [e, number, List.filter_cons]
    split
    · exact ih _
    · exact ih _

theorem State.homeWriteLine_mem (s : State) (l1 : Option Nat) (line : Nat) (l : List (Nat × Byte)) :
    (s.homeWriteLine l1 line l).mem = ssets (recalledMem s.mem s.upartials line) l := by
  unfold State.homeWriteLine
  rw [State.recall_eq]
  rfl

theorem State.homeWriteLine_upartials (s : State) (l1 : Option Nat) (line : Nat) (l : List (Nat × Byte)) :
    (s.homeWriteLine l1 line l).upartials = s.upartials.filter (fun u => u.addr / 128 ≠ line) := by
  unfold State.homeWriteLine
  rw [State.recall_eq]
  rfl

/-- A byte stands at its home: memory holds it, and no partial of its line is left. -/
def State.AtHome (s : State) (a : Nat) (b : Byte) : Prop := sget s.mem a = b ∧ ∀ u ∈ s.upartials, u.addr / 128 ≠ a / 128

/-- Every reader finds it. -/
theorem State.AtHome.view {s : State} {a : Nat} {b : Byte} (h : s.AtHome a b) : s.view .mem a = b := by
  have none : s.upartials.filter (fun u => u.addr / 128 = a / 128) = [] :=
    List.filter_eq_nil_iff.mpr (fun u hu => by simpa using h.2 u hu)
  show (s.recall (a / 128)).byte .mem a = b
  rw [State.recall_eq]
  show sget (recalledMem s.mem s.upartials (a / 128)) a = b
  unfold recalledMem
  rw [none]
  exact h.1

theorem number_lines_ascending : ∀ (l : List Byte) (n : Nat), ((number n l).map (fun c => c.1 / 128)).Pairwise (· ≤ ·)
  | [], _ => .nil
  | b :: r, n => by
    refine List.pairwise_cons.mpr ⟨fun m hm => ?_, number_lines_ascending r (n + 1)⟩
    obtain ⟨e, he, rfl⟩ := List.mem_map.mp hm
    have := (mem_number e _ _ he).1
    simp only
    omega

theorem mem_number_getD : ∀ (l : List Byte) (n k : Nat), k < l.length → (n + k, l.getD k 0) ∈ number n l
  | [], _, _, h => absurd h (by simp)
  | b :: r, n, 0, _ => by simp [number]
  | b :: r, n, k + 1, h => by
    have := mem_number_getD r (n + 1) k (by simpa using h)
    rw [show n + 1 + k = n + (k + 1) by omega] at this
    simp only [number, List.getD_cons_succ, List.mem_cons]
    exact .inr this

/-- The home takes the cells of one line. -/
def State.homeLine (s : State) (pa : Nat) (l : List Byte) (line : Nat) : State :=
  s.homeWriteLine none line ((number pa l).filter (fun c => c.1 / 128 = line))

/-- A byte of the line that is written stands at its home. -/
theorem State.homeLine_atHome (s : State) (pa : Nat) (l : List Byte) (k : Nat) (hk : k < l.length) :
    (s.homeLine pa l ((pa + k) / 128)).AtHome (pa + k) (l.getD k 0) := by
  unfold State.homeLine
  refine ⟨?_, ?_⟩
  · rw [State.homeWriteLine_mem]
    exact sget_ssets_line _ l _ pa k hk rfl
  · rw [State.homeWriteLine_upartials]
    exact fun u hu => by simpa using (List.mem_filter.mp hu).2

/-- A byte at its home stays there while a later line is written. -/
theorem State.AtHome.homeLine {s : State} {a : Nat} {b : Byte} (h : s.AtHome a b) (pa : Nat) (l : List Byte) (line : Nat)
    (hlt : a / 128 < line) : (s.homeLine pa l line).AtHome a b := by
  unfold State.homeLine
  refine ⟨?_, ?_⟩
  · rw [State.homeWriteLine_mem, sget_ssets_other, sget_recalledMem_below _ _ _ _ (by omega)]
    · exact h.1
    · intro e he hc
      have := of_decide_eq_true (List.mem_filter.mp he).2
      rw [hc] at this
      omega
  · rw [State.homeWriteLine_upartials]
    exact fun u hu => h.2 u (List.mem_of_mem_filter hu)

/-- Lines are written in ascending order, so that what a unit writes stands at its home, whatever partials there were
(R224). -/
theorem State.homeWrite_atHome (s : State) (pa : Nat) (l : List Byte) (k : Nat) (hk : k < l.length) :
    (s.homeWrite pa l).AtHome (pa + k) (l.getD k 0) := by
  have fold : ∀ (ls : List Nat) (s : State), ls.Pairwise (· ≤ ·) →
      (s.AtHome (pa + k) (l.getD k 0) ∧ (∀ n ∈ ls, (pa + k) / 128 ≤ n) ∨ (pa + k) / 128 ∈ ls) →
      (ls.foldl (fun s line => s.homeLine pa l line) s).AtHome (pa + k) (l.getD k 0) := by
    intro ls
    induction ls with
    | nil => exact fun s _ h => h.elim And.left (fun h => absurd h List.not_mem_nil)
    | cons n r ih =>
      intro s hp h
      obtain ⟨hn, hr⟩ := List.pairwise_cons.mp hp
      refine ih _ hr ?_
      by_cases hin : (pa + k) / 128 = n
      · subst hin
        exact .inl ⟨s.homeLine_atHome pa l k hk, hn⟩
      · refine h.imp (fun ⟨h, hle⟩ => ⟨h.homeLine pa l n ?_, fun m hm => hle m (List.mem_cons_of_mem n hm)⟩)
          (fun h => (List.mem_cons.mp h).resolve_left hin)
        have := hle n List.mem_cons_self
        omega
  refine fold _ s ((number_lines_ascending l pa).sublist (dedup_sublist _)) (.inr ?_)
  rw [mem_dedup]
  exact List.mem_map.mpr ⟨_, mem_number_getD l pa k hk, rfl⟩

/-- What is backed depends on the boot configuration alone. -/
theorem State.backedRange_congr {s t : State} (h : t.boot = s.boot) (a n : Nat) : t.backedRange a n = s.backedRange a n := by
  unfold State.backedRange State.backed State.stacks
  rw [h]

theorem State.deviceWrite_atHome (s : State) (pa : Nat) (l : List Byte) (k : Nat) (hk : k < l.length)
    (hb : s.backedRange pa l.length = true) : (s.deviceWrite pa l).AtHome (pa + k) (l.getD k 0) := by
  unfold State.deviceWrite
  rw [if_pos hb]
  exact s.homeWrite_atHome pa l k hk

end Sys2Proof.Machine

namespace Sys2Proof.Machine
open Host (Outcome)

/-! ## Resets and boot (R368, R386) -/

/-- Nothing is resident, no row stands and time begins anew, with what lies outside the device as it was. -/
structure State.Fresh (s t : State) : Prop where
  boot : t.boot = s.boot
  teams : t.teams = []
  launches : t.launches = []
  packets : t.packets = []
  writes : t.writes = []
  loads : t.loads = []
  jobs : t.jobs = []
  rows : ∀ q, (t.row q).valid = false
  time : t.time = 0
  clock : t.clock = 1
  hostCtl : t.hostCtl = 0
  elogBase : t.elogBase = s.elogBase
  peer : t.peer = s.peer

theorem State.fresh_cleared (s : State) : s.Fresh s.cleared := by
  refine ⟨rfl, rfl, rfl, rfl, rfl, rfl, rfl, fun q => ?_, rfl, rfl, rfl, rfl, rfl⟩
  show ((List.replicate 128 ({} : Row)).getD q {}).valid = false
  simp only [List.getD_eq_getElem?_getD, List.getElem?_replicate]
  split <;> rfl

/-- Accesses to memory leave it so. -/
theorem State.Fresh.served {s u v : State} (a : s.Fresh u) (h : u.Served v) : s.Fresh v := by
  have hp : v.packets = [] := List.map_eq_nil_iff.mp (h.packets.trans (by rw [a.packets]; rfl))
  have hv : ∀ q, (v.row q).valid = false := fun q => (congrArg Row.valid (h.row q)).trans (a.rows q)
  exact ⟨h.boot.trans a.boot, h.teams.trans a.teams, h.launches.trans a.launches, hp, h.writes.trans a.writes,
    h.loads.trans a.loads, h.jobs.trans a.jobs, hv, h.time.trans a.time, h.clock.trans a.clock, h.hostCtl.trans a.hostCtl,
    h.elogBase.trans a.elogBase, h.peer.trans a.peer⟩

/-- What the boot measures and starts leaves it so. -/
theorem State.Fresh.booted {s u v : State} (a : s.Fresh u) (h : { v with
    mrs := u.mrs, boardState := u.boardState, bootEntry := u.bootEntry, hostUp := u.hostUp, signets := u.signets
    groups := u.groups, keeperText := u.keeperText, keeperSize := u.keeperSize, keeperCallmax := u.keeperCallmax } = u) :
    s.Fresh v := by
  rw [← h] at a
  exact ⟨a.boot, a.teams, a.launches, a.packets, a.writes, a.loads, a.jobs, a.rows, a.time, a.clock, a.hostCtl, a.elogBase,
    a.peer⟩

/-- The registers MR0 and MR1 as the boot ROM extends them with `x` and `y`, before the image is loaded. -/
def State.measured (s : State) (x y : List Byte) : State := (s.cleared.extendMr 0 x).extendMr 1 y

/-- The state in which a passing image has been loaded, and in which the boot shard has started. -/
def State.bootLoaded (s : State) (b : BootSource) : State :=
  (s.measured (leBytes 64 (Config.bootConfigValue s.boot.config).toNat) (shake256 b.message 64)).deviceWrite
    (field b.header 24 8) b.payload
def State.bootStarted (s : State) (b : BootSource) : State :=
  State.releaseSignets { s.bootLoaded b with
    boardState := 2, bootEntry := some (BitVec.ofNat 64 (field b.header 24 8 + field b.header 32 8)) }

theorem State.deviceReset_some (s : State) (b : BootSource) (h : s.boot.sources.find? s.boot.passes = some b) :
    s.deviceReset = (s.bootStarted b).startKeepers := by
  unfold State.deviceReset State.bootRom
  rw [show s.cleared.boot.sources.find? s.cleared.boot.passes = some b from h]
  rfl

theorem State.deviceReset_none (s : State) (h : s.boot.sources.find? s.boot.passes = none) :
    s.deviceReset = { s.cleared.elog 6 noUnit 0 with
      boardState := 3, hostUp := false, signets := s.cleared.signets.map (fun c => { c with held := true }) } := by
  unfold State.deviceReset State.bootRom
  rw [show s.cleared.boot.sources.find? s.cleared.boot.passes = none from h]

theorem State.served_bootLoaded (s : State) (b : BootSource) :
    (s.measured (leBytes 64 (Config.bootConfigValue s.boot.config).toNat) (shake256 b.message 64)).Served (s.bootLoaded b) :=
  State.served_deviceWrite _ _ _

theorem State.fresh_bootLoaded (s : State) (b : BootSource) : s.Fresh (s.bootLoaded b) :=
  State.Fresh.served (s.fresh_cleared.booted rfl) (s.served_bootLoaded b)

/-- The registers of a measurement, extended from zero. -/
theorem State.measured_mrs (s : State) (x y : List Byte) :
    (s.measured x y).mrs = BitVec.ofNat 512 (leNat (shake256 (leBytes 64 0 ++ x) 64))
      :: BitVec.ofNat 512 (leNat (shake256 (leBytes 64 0 ++ y) 64)) :: List.replicate 6 0 := by
  have two : ∀ (z : BitVec 512) (f g : BitVec 512 → BitVec 512),
      upd (upd (List.replicate 8 z) 0 f) 1 g = f z :: g z :: List.replicate 6 z := fun _ _ _ => rfl
  refine (two 0 (fun m => BitVec.ofNat 512 (leNat (shake256 (leBytes 64 m.toNat ++ x) 64)))
    (fun m => BitVec.ofNat 512 (leNat (shake256 (leBytes 64 m.toNat ++ y) 64)))).trans ?_
  rw [show (0 : BitVec 512).toNat = 0 from BitVec.toNat_zero]

section
variable (s : State)

/-! Starting the keepers touches nothing but their text and their groups. -/

theorem State.startKeepers_rest : { s.startKeepers with
    groups := s.groups, keeperText := s.keeperText, keeperSize := s.keeperSize, keeperCallmax := s.keeperCallmax } = s := by
  unfold State.startKeepers
  split <;> rfl

theorem State.startKeepers_mem : s.startKeepers.mem = s.mem := by
  have e := congrArg State.mem s.startKeepers_rest; exact e
theorem State.startKeepers_upartials : s.startKeepers.upartials = s.upartials := by
  have e := congrArg State.upartials s.startKeepers_rest; exact e
theorem State.startKeepers_boardState : s.startKeepers.boardState = s.boardState := by
  have e := congrArg State.boardState s.startKeepers_rest; exact e
theorem State.startKeepers_bootEntry : s.startKeepers.bootEntry = s.bootEntry := by
  have e := congrArg State.bootEntry s.startKeepers_rest; exact e
theorem State.startKeepers_signets : s.startKeepers.signets = s.signets := by
  have e := congrArg State.signets s.startKeepers_rest; exact e
theorem State.startKeepers_mrs : s.startKeepers.mrs = s.mrs := by
  have e := congrArg State.mrs s.startKeepers_rest; exact e

theorem State.startKeepers_none (h : s.boot.keeper = none) : s.startKeepers = s := by
  unfold State.startKeepers
  rw [h]
theorem State.startKeepers_some (k : KeeperObject) (h : s.boot.keeper = some k) : s.startKeepers.keeperText = k.text
    ∧ s.startKeepers.groups = s.groups.map (fun (g : Group) => if g.keeper && g.core < s.ncores then
        { g with lanes := List.replicate 32 { st := .run, pc := k.entry } } else g) := by
  unfold State.startKeepers
  rw [h]
  exact ⟨rfl, rfl⟩

end

theorem State.Fresh.startKeepers {s u : State} (h : s.Fresh u) : s.Fresh u.startKeepers := by
  unfold State.startKeepers
  split
  · exact h
  · exact h.booted rfl

theorem State.Fresh.releaseSignets {s u : State} (h : s.Fresh u) (st : Byte) (e : Option DWord) :
    s.Fresh (State.releaseSignets { u with boardState := st, bootEntry := e }) := h.booted rfl

theorem State.fresh_bootStarted (s : State) (b : BootSource) : s.Fresh (s.bootStarted b) :=
  (s.fresh_bootLoaded b).releaseSignets _ _

theorem State.Fresh.ncores {s t : State} (h : s.Fresh t) : t.ncores = s.ncores := by
  unfold State.ncores State.dies
  rw [h.boot]

/-- The signet cores of the clusters present are released (R368). -/
theorem State.releaseSignets_held (u : State) (cl : Nat) (h : cl < u.nclusters) (hl : cl < u.signets.length) :
    (u.releaseSignets.signets.getD cl {}).held = false := by
  unfold State.releaseSignets
  simp only
  rw [updAll_getD, if_pos hl, Nat.zero_add, if_pos h]

theorem State.bootStarted_signets (s : State) (b : BootSource) (cl : Nat) (hcl : cl < s.nclusters) :
    ((s.bootStarted b).signets.getD cl {}).held = false := by
  have hn : (s.bootLoaded b).nclusters = s.nclusters := by
    unfold State.nclusters State.dies
    rw [(s.fresh_bootLoaded b).boot]
  have h8 : s.nclusters ≤ 8 := by
    unfold State.nclusters State.dies
    split <;> simp
  have hlen : (s.bootLoaded b).signets.length = 8 := by rw [(s.served_bootLoaded b).signets]; rfl
  exact State.releaseSignets_held _ cl (lt_of_lt_of_eq hcl hn.symm) (lt_of_lt_of_eq (lt_of_lt_of_le hcl h8) hlen.symm)

/-- A keeper that the boot starts has its 32 lanes at the entry. -/
theorem keeper_started (n m : Nat) (e : DWord) (c : Nat) (hc : c < n) (hn : n ≤ m) :
    ∃ g, (((List.range m).map keeperGroup).map (fun (g : Group) => if g.keeper && g.core < n then
        { g with lanes := List.replicate 32 { st := .run, pc := e } } else g)).find? (fun g => g.at c 15) = some g
      ∧ ∀ j, j < 32 → g.lane j = { st := .run, pc := e } := by
  have found : ((((List.range m).map keeperGroup).map (fun (g : Group) => if g.keeper && g.core < n then
      { g with lanes := List.replicate 32 { st := .run, pc := e } } else g)).find? (fun g => g.at c 15)).isSome := by
    rw [List.find?_isSome]
    refine ⟨_, List.mem_map_of_mem (List.mem_map_of_mem (List.mem_range.mpr (lt_of_lt_of_le hc hn))), ?_⟩
    simp [keeperGroup, Group.keeper, hc, Group.at]
  obtain ⟨g, hg⟩ := Option.isSome_iff_exists.mp found
  refine ⟨g, hg, ?_⟩
  obtain ⟨k, hk, rfl⟩ := List.mem_map.mp (List.mem_of_find?_eq_some hg)
  obtain ⟨a, -, rfl⟩ := List.mem_map.mp hk
  have hat := List.find?_some hg
  have ha : a = c := by
    by_cases han : a < n <;> simpa [Group.at, keeperGroup, Group.keeper, han] using hat
  intro j hj
  subst ha
  have e1 : ((keeperGroup a).keeper && decide ((keeperGroup a).core < n)) = true := by simp [keeperGroup, Group.keeper, hc]
  rw [if_pos e1]
  unfold Group.lane
  simp only [List.getD_eq_getElem?_getD, List.getElem?_replicate, if_pos hj, Option.getD_some]

end Sys2Proof.Machine

namespace Sys2Proof.Machine
open Host (Outcome)

/-! ## A device reset -/

theorem State.Fresh.failed {s u : State} (h : s.Fresh u) (c : List SignetCore) :
    s.Fresh { u with boardState := 3, hostUp := false, signets := c } := h.booted rfl

theorem State.fresh_deviceReset (s : State) : s.Fresh s.deviceReset := by
  cases h : s.boot.sources.find? s.boot.passes with
  | some b => rw [s.deviceReset_some b h]; exact (s.fresh_bootStarted b).startKeepers
  | none => rw [s.deviceReset_none h]; exact (s.fresh_cleared.served (State.served_elog _ _ _ _)).failed _

/-- The payload of the image that started stands at its load address. -/
theorem State.deviceReset_payload (s : State) (b : BootSource) (h : s.boot.sources.find? s.boot.passes = some b)
    (hb : s.deviceReset.backedRange (field b.header 24 8) b.payload.length = true) (k : Nat) (hk : k < b.payload.length) :
    s.deviceReset.view .mem (field b.header 24 8 + k) = b.payload.getD k 0 := by
  have hb' := hb
  rw [State.backedRange_congr s.fresh_deviceReset.boot] at hb'
  have home := State.deviceWrite_atHome
    (s.measured (leBytes 64 (Config.bootConfigValue s.boot.config).toNat) (shake256 b.message 64)) _ b.payload k hk hb'
  rw [s.deviceReset_some b h]
  refine State.AtHome.view (s := (s.bootStarted b).startKeepers) ⟨?_, ?_⟩
  · rw [State.startKeepers_mem]
    exact home.1
  · rw [State.startKeepers_upartials]
    exact home.2

/-- The measurement registers after a boot (R370). -/
theorem State.deviceReset_mrs (s : State) (b : BootSource) (h : s.boot.sources.find? s.boot.passes = some b) :
    s.deviceReset.mrs = (s.measured (leBytes 64 (Config.bootConfigValue s.boot.config).toNat) (shake256 b.message 64)).mrs := by
  rw [s.deviceReset_some b h, State.startKeepers_mrs]
  exact (s.served_bootLoaded b).mrs

/-- The groups after a boot: the keepers as at reset, started where the image brings a keeper (R302). -/
theorem State.bootStarted_groups (s : State) (b : BootSource) : (s.bootStarted b).groups = (List.range 256).map keeperGroup :=
  (s.served_bootLoaded b).groups

theorem State.deviceReset_keepers (s : State) (b : BootSource) (h : s.boot.sources.find? s.boot.passes = some b)
    (k : KeeperObject) (hk : s.boot.keeper = some k) : s.deviceReset.keeperText = k.text
      ∧ ∀ c, c < s.ncores → ∃ g, s.deviceReset.group? c 15 = some g
        ∧ ∀ j, j < 32 → g.lane j = { st := .run, pc := k.entry } := by
  rw [s.deviceReset_some b h]
  obtain ⟨htext, hgroups⟩ := (s.bootStarted b).startKeepers_some k ((congrArg Boot.keeper (s.fresh_bootStarted b).boot).trans hk)
  refine ⟨htext, fun c hc => ?_⟩
  unfold State.group?
  rw [hgroups, s.bootStarted_groups b, (s.fresh_bootStarted b).ncores]
  refine keeper_started _ _ _ _ hc ?_
  unfold State.ncores State.dies
  split <;> simp

theorem State.deviceReset_no_keeper (s : State) (b : BootSource) (h : s.boot.sources.find? s.boot.passes = some b)
    (hk : s.boot.keeper = none) : s.deviceReset.groups = State.reset.groups := by
  rw [s.deviceReset_some b h, State.startKeepers_none _ ((congrArg Boot.keeper (s.fresh_bootStarted b).boot).trans hk)]
  exact s.bootStarted_groups b

/-- With no image that passes the device stands still, every signet core held in reset. -/
theorem State.deviceReset_stands_still (s : State) (h : s.boot.sources.find? s.boot.passes = none) :
    s.deviceReset.groups = State.reset.groups ∧ (∀ cl, (s.deviceReset.signets.getD cl {}).held = true)
      ∧ (∀ m, s.deviceReset.masterRuns m = false) ∧ s.deviceReset.boardState = 3 ∧ s.deviceReset.hostUp = false
      ∧ s.deviceReset.bootEntry = none ∧ s.deviceReset.mrs = List.replicate 8 0 := by
  have served := s.cleared.served_elog 6 noUnit 0
  rw [s.deviceReset_none h]
  refine ⟨served.groups, fun cl => ?_, fun m => ?_, rfl, rfl, served.bootEntry, served.mrs⟩
  · show ((s.cleared.signets.map (fun (c : SignetCore) => { c with held := true })).getD cl {}).held = true
    rw [List.getD_eq_getElem?_getD, List.getElem?_map]
    cases s.cleared.signets[cl]? <;> rfl
  · simp [State.masterRuns, State.halted]

end Sys2Proof.Machine

namespace Sys2Proof.Machine
open Host (Outcome)

/-! ## The host port (R363 to R367) -/

theorem upd_getElem? {α : Type} (f : α → α) : ∀ (l : List α) (n j : Nat),
    (upd l n f)[j]? = if j = n then l[j]?.map f else l[j]?
  | [], n, j => by simp [upd]
  | a :: r, 0, 0 => by simp [upd]
  | a :: r, 0, j + 1 => by simp [upd]
  | a :: r, n + 1, 0 => by simp [upd]
  | a :: r, n + 1, j + 1 => by
    have := upd_getElem? f r n j
    simpa [upd] using this

/-- A host event stands unread once it is raised, or one of its kind did. -/
theorem State.hostEvent_told (s : State) (kind func : Nat) (hk : kind < 16) (hf : func < 16) :
    ∃ e ∈ (s.hostEvent kind func).hostEvents, e.toNat / 2 ^ 60 = kind := by
  unfold State.hostEvent
  split
  · rename_i h
    simpa using h
  · refine ⟨_, List.mem_append_right _ (List.mem_singleton.mpr rfl), ?_⟩
    rw [BitVec.toNat_ofNat]
    omega

theorem State.hostEvent_rest (s : State) (kind func : Nat) :
    { s.hostEvent kind func with hostEvents := s.hostEvents } = s := by
  unfold State.hostEvent
  split <;> rfl

theorem State.hostEvent_fns (s : State) (kind func : Nat) : (s.hostEvent kind func).fns = s.fns := by
  have e := congrArg State.fns (s.hostEvent_rest kind func); exact e
theorem State.hostEvent_hostUp (s : State) (kind func : Nat) : (s.hostEvent kind func).hostUp = s.hostUp := by
  have e := congrArg State.hostUp (s.hostEvent_rest kind func); exact e

/-- Every queue of a function holds at most 1,024 entries (R365). -/
theorem virtioDevice_entries (n : Nat) : (virtioDevice n).entries = 1024 := by
  unfold virtioDevice
  split <;> rfl

/-- A request that is new is made available where its queue has room for it; one that waits has been served. -/
theorem VirtioFn.request_cases (f : VirtioFn) (n k : Nat) :
    let f' := f.request (virtioDevice n) k
    let room := k / 65536 < (virtioDevice n).queues ∧ k % 65536 < 1024
      ∧ (f.pending.filter (fun e => e / 65536 = k / 65536)).length < 1024
    ((k ∉ f.pending → room → k ∈ f'.pending ∧ k ∉ f'.used) ∧ (k ∉ f.pending → ¬room → f' = f))
      ∧ (k ∈ f.pending → k ∉ f'.pending ∧ k ∈ f'.used) := by
  intro f' room
  have full : (decide ((virtioDevice n).queues ≤ vqOf k) || decide ((virtioDevice n).entries ≤ vqIndex k)
      || decide ((virtioDevice n).entries ≤ (f.pending.filter (fun e => vqOf e = vqOf k)).length)) = true ↔ ¬room := by
    rw [virtioDevice_entries]
    simp only [Bool.or_eq_true, decide_eq_true_eq, room]
    unfold vqOf vqIndex
    omega
  by_cases hk : k ∈ f.pending
  · refine ⟨⟨fun h => absurd hk h, fun h => absurd hk h⟩, fun _ => ?_⟩
    simp [f', VirtioFn.request, hk]
  · refine ⟨⟨fun _ hr => ?_, fun _ hr => ?_⟩, fun h => absurd h hk⟩
    · have : ¬_ = true := fun h => full.mp h hr
      simp only [f', VirtioFn.request, List.contains_eq_mem, hk, decide_false, Bool.false_eq_true, if_false, if_neg this]
      simp
    · have := full.mpr hr
      simp only [f', VirtioFn.request, List.contains_eq_mem, hk, decide_false, Bool.false_eq_true, if_false, if_pos this]

end Sys2Proof.Machine

namespace Sys2Proof.Machine
open Host (Outcome)

/-! ## Thermal stop and the events of the host port, one by one -/

/-- In thermal stop no core issues (R27). -/
theorem execIssueOpportunity_thermal (c : CoreCycle) (s : State) (h : s.thermal = true) :
    execIssueOpportunity c s = .next s := by
  unfold execIssueOpportunity
  rw [h]
  rfl

/-- The log takes an entry, and then every context is lost. -/
theorem State.thermalStop_contexts (s : State) : s.thermalStop.thermal = true ∧ s.thermalStop.boardState = 4
    ∧ s.thermalStop.hostUp = false ∧ s.thermalStop.teams = [] ∧ s.thermalStop.launches = [] ∧ s.thermalStop.contexts = []
    ∧ s.thermalStop.issueQ = [] ∧ (∀ g ∈ s.thermalStop.groups, g.keeper = true)
    ∧ ∀ c, execIssueOpportunity c s.thermalStop = .next s.thermalStop := by
  refine ⟨rfl, rfl, rfl, rfl, rfl, rfl, rfl, fun g hg => ?_, fun c => execIssueOpportunity_thermal c _ rfl⟩
  exact (List.mem_filter.mp hg).2

/-- What ends the link of a device that boots from its host is a device reset (R368). -/
theorem State.portLost_attach (s : State) (kind : Nat) (ha : s.boot.attach = true) (ht : s.thermal = false) :
    s.portLost kind = s.deviceReset := by
  unfold State.portLost
  rw [ht, ha]
  rfl

/-- Of any other it resets the functions and takes the port down, with an event. -/
theorem State.portLost_port (s : State) (kind : Nat) (hk : kind < 16) (ha : s.boot.attach = false) (ht : s.thermal = false)
    (hb : s.boardState ≠ 3) :
    (∃ e ∈ (s.portLost kind).hostEvents, e.toNat / 2 ^ 60 = kind) ∧ (s.portLost kind).hostUp = false
      ∧ (∀ f ∈ (s.portLost kind).fns, f.status = 0 ∧ f.pending = [] ∧ f.masked = true)
      ∧ { s.portLost kind with fns := s.fns, hostUp := s.hostUp, hostEvents := s.hostEvents } = s := by
  unfold State.portLost
  rw [if_neg (by simp [ht]), if_neg (by simp [ha]), if_neg hb]
  refine ⟨State.hostEvent_told _ _ _ hk (by omega), State.hostEvent_hostUp _ _ _, ?_, ?_⟩
  · rw [State.hostEvent_fns]
    intro f hf
    obtain ⟨g, -, rfl⟩ := List.mem_map.mp hf
    exact ⟨rfl, rfl, rfl⟩
  · unfold State.hostEvent
    split <;> rfl

/-- A change of one function with an event: the function is what the change makes of it, and nothing else changes. -/
theorem State.modFn_event (s : State) (n : Nat) (f : VirtioFn) (g : VirtioFn → VirtioFn) (kind : Nat) (hn : n < 4)
    (hk : kind < 16) (hf : s.fns[n]? = some f) :
    let t := State.hostEvent { s with fns := upd s.fns n g } kind n
    (∃ e ∈ t.hostEvents, e.toNat / 2 ^ 60 = kind) ∧ t.fns[n]? = some (g f) ∧ (∀ m, m ≠ n → t.fns[m]? = s.fns[m]?)
      ∧ { t with fns := s.fns, hostEvents := s.hostEvents } = s := by
  intro t
  have hfns : t.fns = upd s.fns n g := State.hostEvent_fns _ _ _
  refine ⟨State.hostEvent_told _ _ _ hk (by omega), ?_, fun m hm => ?_, ?_⟩
  · rw [hfns, upd_getElem?, if_pos rfl, hf]
    rfl
  · rw [hfns, upd_getElem?, if_neg hm]
  · unfold t State.hostEvent
    split <;> rfl

/-- The driver's write of a status (R365). -/
theorem VirtioFn.writeStatus_cases (f : VirtioFn) (on : Bool) (v : Byte) :
    (on = false → (f.writeStatus on v).status = 0 ∧ (f.writeStatus on v).needsReset = (f.needsReset || v.getLsbD 2))
      ∧ (on = true → (f.writeStatus on v).status = v
        ∧ (v = 0 → (f.writeStatus on v).pending = [] ∧ (f.writeStatus on v).used = [])) := by
  refine ⟨fun h => ?_, fun h => ?_⟩
  · subst h
    exact ⟨rfl, rfl⟩
  · subst h
    unfold VirtioFn.writeStatus
    rw [if_neg (by simp)]
    split
    · rename_i hv
      exact ⟨hv.symm, fun _ => ⟨rfl, rfl⟩⟩
    · rename_i hv
      exact ⟨rfl, fun h => absurd h hv⟩

/-- The functions of the port under their resets, their drivers and their requests (R365 to R367). -/
theorem execFunctionEvents (s : State) (n : Nat) (f : VirtioFn) (hn : n < 4) (ht : s.thermal = false)
    (hb : s.boardState ≠ 3) (hf : s.fns[n]? = some f) :
    execFunctionLevelReset n s = .next (State.hostEvent { s with fns := upd s.fns n (fun _ => resetFn) } 4 n)
    ∧ (s.hostUp = true → ∀ v, execDriverStatusChange n v s = .next (State.hostEvent
        { s with fns := upd s.fns n (fun f => f.writeStatus (s.hostCtl.getLsbD n) v) } 5 n))
    ∧ (s.hostUp = true → s.hostCtl.getLsbD n = true → f.status.getLsbD 2 = true → ∀ k,
        execVirtioRequest n k s = .next { s with fns := upd s.fns n (fun f => f.request (virtioDevice n) k) })
    ∧ (s.hostCtl.getLsbD n = false → ∀ k, execVirtioRequest n k s = .next s) := by
  have hn' : ¬4 ≤ n := by omega
  refine ⟨?_, fun hu v => ?_, fun hu hc hd k => ?_, fun hc k => ?_⟩
  · unfold execFunctionLevelReset
    rw [if_neg (not_or.mpr ⟨hn', not_or.mpr ⟨by simp [ht], hb⟩⟩)]
  · unfold execDriverStatusChange
    rw [if_neg (by simp [hn', ht, hu])]
  · have hstatus : s.fnStatus n = f.status := by
      unfold State.fnStatus
      rw [if_pos hc, List.getD_eq_getElem?_getD, hf]
      rfl
    unfold execVirtioRequest
    rw [if_neg (by simp [hn', ht, hu, hc, hstatus, driverOk, hd])]
  · unfold execVirtioRequest
    rw [if_pos (by simp [hc])]

/-- The next host event is read, or all ones. -/
theorem execHostev_cases (s : State) :
    (s.halted = true ∨ s.hostEvents = [] → execHostev s = .next { s with busRead := 0xFFFFFFFFFFFFFFFF })
    ∧ ∀ e l, s.halted = false → s.hostEvents = e :: l → execHostev s = .next { s with hostEvents := l, busRead := e } := by
  unfold execHostev
  refine ⟨fun h => ?_, fun e l hh he => ?_⟩
  · have : (if s.halted then [] else s.hostEvents) = [] := by
      rcases h with h | h <;> simp [h]
    rw [this]
  · rw [hh, he]
    rfl

/-- Settles O57: the boot ROM's accesses leave what the reset has cleared (`fresh_deviceReset`), the payload stands at its
home, and each event of the host port is a change of the functions with one event raised. -/
theorem resetsAndTheHostPort : Obligations.ResetsAndTheHostPort := by
  intro s told
  have fresh := s.fresh_deviceReset
  refine ⟨⟨s.deviceReset, rfl, fresh.teams, fresh.launches, fresh.packets, fresh.writes, fresh.loads, fresh.jobs, fresh.rows,
      fresh.time, fresh.clock, fresh.hostCtl, fresh.elogBase, fresh.peer, ?boots, ?fails⟩,
    ⟨_, rfl, rfl, rfl, rfl, rfl, rfl⟩, ?cool, ?hot, ?attach, ?lost, ?up, ?functions, ?quiet, ?next⟩
  case boots =>
    intro b hb
    have hmrs := (s.deviceReset_mrs b hb).trans (s.measured_mrs _ _)
    have started := s.deviceReset_some b hb
    refine ⟨?_, ?_, fun hback k hk => s.deviceReset_payload b hb hback k hk, ?_, ?_, ?_, ?_,
      s.deviceReset_no_keeper b hb, s.deviceReset_keepers b hb⟩
    · rw [started, State.startKeepers_boardState]
      rfl
    · rw [started, State.startKeepers_bootEntry]
      rfl
    · rw [hmrs]
      rfl
    · rw [hmrs]
      rfl
    · intro n h2 h8
      rw [hmrs]
      interval_cases n <;> rfl
    · intro cl hcl
      rw [started, State.startKeepers_signets]
      exact s.bootStarted_signets b cl hcl
  case fails =>
    intro h
    obtain ⟨hg, hs, rest⟩ := s.deviceReset_stands_still (List.find?_eq_none.mpr (fun b hb => by simp [h b hb]))
    exact ⟨hg, fun cl _ => hs cl, rest⟩
  case cool =>
    intro die ht hd
    exact if_pos (.inr hd)
  case hot =>
    intro die ht hd
    obtain ⟨h1, h2, h3, h4, h5, h6, h7, h8, h9⟩ := s.thermalStop_contexts
    exact ⟨s.thermalStop, if_neg (by simp [ht, hd]), h1, h2, h3, h4, h5, h6, h7, h8, fun c lost => h9 ⟨c, lost⟩⟩
  case attach =>
    intro ha ht
    exact ⟨congrArg Outcome.next (s.portLost_attach 1 ha ht), congrArg Outcome.next (s.portLost_attach 2 ha ht)⟩
  case lost =>
    rintro ha ht hb i k (⟨rfl, rfl⟩ | ⟨rfl, rfl⟩)
    · exact ⟨_, rfl, s.portLost_port 1 (by omega) ha ht hb⟩
    · exact ⟨_, rfl, s.portLost_port 2 (by omega) ha ht hb⟩
  case up =>
    intro ht hb
    refine ⟨_, if_neg (not_or.mpr ⟨by simp [ht], hb⟩), State.hostEvent_told _ _ _ (by omega) (by omega),
      State.hostEvent_hostUp _ _ _, ?_⟩
    unfold State.hostEvent
    split <;> rfl
  case functions =>
    intro n f hn ht hb hf
    obtain ⟨hreset, hdriver, hrequest, hoff⟩ := execFunctionEvents s n f hn ht hb hf
    refine ⟨⟨_, hreset, s.modFn_event n f _ 4 hn (by omega) hf⟩, fun hu v => ?_, fun hu hc hd k => ?_, hoff⟩
    · obtain ⟨h1, h2, h3, h4⟩ := s.modFn_event n f (fun f => f.writeStatus (s.hostCtl.getLsbD n) v) 5 hn (by omega) hf
      exact ⟨_, _, hdriver hu v, h1, h2, h3, h4, f.writeStatus_cases _ v⟩
    · obtain ⟨hnew, hserved⟩ := f.request_cases n k
      refine ⟨_, _, hrequest hu hc hd k, ?_, rfl, hnew, hserved⟩
      rw [upd_getElem?, if_pos rfl, hf]
      rfl
  case quiet =>
    intro h
    exact ⟨_, (execHostev_cases s).1 h, rfl, rfl⟩
  case next =>
    intro e l hh he
    exact ⟨_, (execHostev_cases s).2 e l hh he, rfl, rfl, rfl⟩

end Sys2Proof.Machine

namespace Sys2Proof.Machine

/-! ## Events and the wait-for table (R342, R359) -/

/-- The kind and the descriptor of an event word are those that it was made from. -/
theorem eventKey_eventWord (kind row : Nat) (sigfault : Bool) (desc : Nat) (hk : kind < 16) :
    eventKey (eventWord kind row sigfault desc) = (kind, desc % 2 ^ 39 / 64 * 64) := by
  unfold eventKey eventWord
  rw [BitVec.toNat_ofNat]
  cases sigfault <;> simp only [Bool.false_eq_true, if_true, if_false, Prod.mk.injEq] <;> omega

/-- Raising an event without a fault adds it where none of its kind and descriptor stands unread. -/
theorem State.pushEvent_false (s : State) (kind desc : Nat) (hk : kind < 16) :
    ∃ l, s.pushEvent kind false desc = { s with events := s.events ++ l } ∧ ∀ e ∈ l, (eventKey e).1 = kind := by
  unfold State.pushEvent
  dsimp only
  split
  · exact ⟨[], by simp, by simp⟩
  · exact ⟨_, rfl, fun e he => by rw [List.mem_singleton.mp he, eventKey_eventWord _ _ _ _ hk]⟩

/-- The state with other rows and other events. -/
def State.rerow (s : State) (r : List Row) (ev : List DWord) : State := { s with rows := r, events := ev }

section
variable (s : State) (r : List Row) (ev : List DWord)

/-! Nothing that the wait-for table reads of memory, cores and signals depends on the events or on the entries themselves. -/

theorem State.rerow_bytes (sp : Space) : ∀ n a, (s.rerow r ev).bytes sp a n = s.bytes sp a n
  | 0, _ => rfl
  | n + 1, a => congrArg (s.byte sp a :: ·) (State.rerow_bytes sp n (a + 1))

theorem State.rerow_signalled (w : SignalWatch) : (s.rerow r ev).signalled w = s.signalled w := by
  unfold State.signalled State.num
  rw [State.rerow_bytes]

theorem State.rerow_walk (acc : Access) (va : DWord) : ∀ level table,
    (s.rerow r ev).walk acc va table level = s.walk acc va table level := by
  have entry : ∀ line ea n, ((s.rerow r ev).recall line).num .mem ea n = (s.recall line).num .mem ea n := by
    intro line ea n
    simp only [State.recall_eq, State.num, State.bytes_mem]
    rfl
  have fails : (s.rerow r ev).readFails = s.readFails := rfl
  have backed : (s.rerow r ev).backed = s.backed := rfl
  intro level
  induction level with
  | zero => intro table; unfold State.walk; simp only [entry, fails]
  | succ level ih => intro table; unfold State.walk; simp only [entry, fails, backed, ih]

theorem State.rerow_frontPlace (c : CtxDesc) (va : DWord) (n : Nat) (acc : Access) :
    (s.rerow r ev).frontPlace c va n acc = s.frontPlace c va n acc := by
  have leaf : (s.rerow r ev).leafPlace = s.leafPlace := rfl
  unfold State.frontPlace State.translateCtx State.cached
  rw [State.rerow_walk, leaf]

theorem State.rerow_barrierWaits (p : Packet) : (s.rerow r ev).barrierWaits p = s.barrierWaits p := by
  have seen : (s.rerow r ev).signalSeen = s.signalSeen := by
    funext p a
    unfold State.signalSeen
    simp only [State.rerow_signalled]
  have place : (s.rerow r ev).signalPlace = s.signalPlace := by
    funext c va
    exact s.rerow_frontPlace r ev c va 8 {}
  have packets : (s.rerow r ev).packets = s.packets := rfl
  unfold State.barrierWaits
  rw [seen, place, packets]

/-- Two lists of rows differ in the entries of the wait-for table alone. -/
def SameRows (a b : List Row) : Prop :=
  ∀ q, { a.getD q {} with waits := (b.getD q {}).waits, waitKind := (b.getD q {}).waitKind } = b.getD q {}

theorem State.rerow_waitEntry (h : SameRows r s.rows) (q : Nat) : (s.rerow r ev).waitEntry q = s.waitEntry q := by
  have row : ∀ q, ((s.rerow r ev).row q).valid = (s.row q).valid ∧ ((s.rerow r ev).row q).qdesc = (s.row q).qdesc
      ∧ ((s.rerow r ev).row q).cores = (s.row q).cores := fun q => by
    have valid := congrArg Row.valid (h q)
    have qdesc := congrArg Row.qdesc (h q)
    have cores := congrArg Row.cores (h q)
    exact ⟨valid, qdesc, cores⟩
  have rowOf : (s.rerow r ev).rowOf = s.rowOf := by
    funext d
    unfold State.rowOf
    simp only [row]
  have rowOfTeam : (s.rerow r ev).rowOfTeam = s.rowOfTeam := by
    funext t
    unfold State.rowOfTeam
    rw [rowOf]
    rfl
  have cores : ((s.rerow r ev).row q).coreList = (s.row q).coreList := by
    unfold Row.coreList
    rw [(row q).2.2]
  have free : (s.rerow r ev).freeOf = s.freeOf := rfl
  have fuse : (s.rerow r ev).fuseOk = s.fuseOk := rfl
  have launch : (s.rerow r ev).launch? = s.launch? := rfl
  have packets : (s.rerow r ev).packets = s.packets := rfl
  have teams : (s.rerow r ev).teams = s.teams := rfl
  unfold State.waitEntry
  simp only [(row q).1, (row q).2.1, cores, packets, State.rerow_barrierWaits, launch, free, fuse, teams, rowOfTeam]

end

/-- Rows that differ in the entries of the table alone, and events of its changes: the entries of `done` are up to date. -/
structure State.Rewaiting (s : State) (done : List Nat) (t : State) : Prop where
  form : t = s.rerow t.rows t.events
  rows : SameRows t.rows s.rows
  table : ∀ q ∈ done, ((t.row q).waits, (t.row q).waitKind) = s.waitEntry q
  events : ∃ l, t.events = s.events ++ l ∧ ∀ e ∈ l, (eventKey e).1 = 4

/-- The refreshing of one row's entry. -/
def State.refreshWait (s : State) (q : Nat) : State :=
  let (w, k) := s.waitEntry q
  if (s.row q).waits = w ∧ (s.row q).waitKind = k then s
  else (s.modRow q (fun r => { r with waits := w, waitKind := k })).pushEvent 4 false (s.row q).qdesc.toNat

theorem State.refreshWaits_eq (s : State) : s.refreshWaits = (List.range 128).foldl State.refreshWait s := by
  have fold : ∀ l : List Nat, l.foldl (fun s q =>
      let (w, k) := s.waitEntry q
      if (s.row q).waits = w ∧ (s.row q).waitKind = k then s
      else (s.modRow q (fun r => { r with waits := w, waitKind := k })).pushEvent 4 false (s.row q).qdesc.toNat) s
      = l.foldl State.refreshWait s := fun _ => rfl
  exact fold _

/-- A row that does not stand waits for nothing. -/
theorem State.waitEntry_invalid (s : State) (q : Nat) (h : (s.row q).valid = false) : s.waitEntry q = (0, 0) := by
  unfold State.waitEntry
  simp only [h, Bool.not_false, if_true]

theorem State.Rewaiting.rest {s t : State} {done : List Nat} (h : s.Rewaiting done t) :
    { t with rows := s.rows, events := s.events } = s := by
  have e := congrArg (fun u : State => u.rerow s.rows s.events) h.form
  exact e

theorem State.Rewaiting.refreshWait {s t : State} {done : List Nat} (h : s.Rewaiting done t) (q : Nat) :
    s.Rewaiting (q :: done) (t.refreshWait q) := by
  have entry : ∀ o, t.waitEntry o = s.waitEntry o := fun o => by
    have e := s.rerow_waitEntry t.rows t.events h.rows o
    rwa [← h.form] at e
  unfold State.refreshWait
  rw [entry]
  dsimp only
  split
  · rename_i hq
    refine ⟨h.form, h.rows, fun o ho => ?_, h.events⟩
    rcases List.mem_cons.mp ho with rfl | ho
    · exact Prod.ext hq.1 hq.2
    · exact h.table o ho
  · rename_i hq
    have hlen : q < t.rows.length := by
      by_contra hlen
      have none : t.row q = {} := by
        unfold State.row
        rw [List.getD_eq_default _ _ (by omega)]
      have e := entry q
      rw [t.waitEntry_invalid q (by rw [none])] at e
      exact hq ⟨by rw [none, ← e], by rw [none, ← e]⟩
    obtain ⟨l, hp, hl⟩ := State.pushEvent_false
      (t.modRow q (fun r => { r with waits := (s.waitEntry q).1, waitKind := (s.waitEntry q).2 })) 4 (t.row q).qdesc.toNat (by omega)
    obtain ⟨l0, h0, hl0⟩ := h.events
    have row : ∀ o, (upd t.rows q (fun r => { r with waits := (s.waitEntry q).1, waitKind := (s.waitEntry q).2 })).getD o {}
        = if o = q then { t.row o with waits := (s.waitEntry q).1, waitKind := (s.waitEntry q).2 } else t.row o := by
      intro o
      rw [upd_getD]
      by_cases ho : o = q
      · subst ho; rw [if_pos ⟨rfl, hlen⟩, if_pos rfl]; rfl
      · rw [if_neg (fun h => ho h.1), if_neg ho]; rfl
    rw [hp]
    refine ⟨?_, fun o => ?_, fun o ho => ?_, ⟨l0 ++ l, ?_, ?_⟩⟩
    · exact congrArg (fun u : State => u.rerow _ _) h.form
    · have ho := h.rows o
      refine Eq.trans ?_ ho
      show ({ (upd t.rows q _).getD o {} with waits := _, waitKind := _ } : Row) = _
      rw [row]
      split <;> rfl
    · show (((upd t.rows q _).getD o {}).waits, ((upd t.rows q _).getD o {}).waitKind) = _
      rw [row]
      split
      · rename_i hoq; rw [hoq]
      · rename_i hoq
        exact h.table o ((List.mem_cons.mp ho).resolve_left hoq)
    · show t.events ++ l = _
      rw [h0, List.append_assoc]
    · intro e he
      exact (List.mem_append.mp he).elim (hl0 e) (hl e)

/-- Bringing the wait-for table up to date does that alone (R359). -/
theorem State.refreshWaits_rewaited (s : State) : s.Rewaited s.refreshWaits := by
  have fold : ∀ (l done : List Nat) (t : State), s.Rewaiting done t →
      ∃ d, s.Rewaiting d (l.foldl State.refreshWait t) ∧ ∀ q, q ∈ l ∨ q ∈ done → q ∈ d := by
    intro l
    induction l with
    | nil => exact fun done t h => ⟨done, h, by simp⟩
    | cons q r ih =>
      intro done t h
      obtain ⟨d, hd, hm⟩ := ih _ _ (h.refreshWait q)
      exact ⟨d, hd, fun o ho => hm o (by simpa [or_assoc, or_left_comm] using ho)⟩
  obtain ⟨d, h, hd⟩ := fold (List.range 128) [] s ⟨rfl, fun _ => rfl, by simp, [], by simp, by simp⟩
  rw [← s.refreshWaits_eq] at h
  refine ⟨h.rows, fun q hq => ?_, h.events, h.rest⟩
  · have e := s.rerow_waitEntry s.refreshWaits.rows s.refreshWaits.events h.rows q
    rw [← h.form] at e
    rw [e]
    exact h.table q (hd q (.inl (List.mem_range.mpr hq)))

end Sys2Proof.Machine

namespace Sys2Proof.Machine

/-! ## What winding down a queue leaves alone

The steps that end packets, launches and queues are many; what the statements about them need is that nothing new stands
afterwards, and that no queue leaves the destroys under way before it has ended. -/

/-- A team but for its scratchpad. -/
def Team.bare (t : Team) : Team := { t with scratch := [] }

theorem Team.id_of_bare {t u : Team} (h : t.bare = u.bare) : t.id = u.id := by have e := congrArg Team.id h; exact e
theorem Team.launch_of_bare {t u : Team} (h : t.bare = u.bare) : t.launch = u.launch := by
  have e := congrArg Team.launch h; exact e
theorem Team.ctx_of_bare {t u : Team} (h : t.bare = u.bare) : t.ctx = u.ctx := by have e := congrArg Team.ctx h; exact e

/-- No team, group or job comes or goes, and no drain begins or ends. -/
structure State.Keeps (s t : State) : Prop where
  boot : t.boot = s.boot
  drains : t.drains = s.drains
  groups : t.groups = s.groups
  jobs : t.jobs = s.jobs
  teams : t.teams.map Team.bare = s.teams.map Team.bare

theorem State.Keeps.refl (s : State) : s.Keeps s := ⟨rfl, rfl, rfl, rfl, rfl⟩

theorem State.Keeps.trans {s t u : State} (a : s.Keeps t) (b : t.Keeps u) : s.Keeps u :=
  ⟨b.boot.trans a.boot, b.drains.trans a.drains, b.groups.trans a.groups, b.jobs.trans a.jobs, b.teams.trans a.teams⟩

theorem State.Keeps.foldl {α : Type} {f : State → α → State} (hf : ∀ (s : State) a, s.Keeps (f s a)) :
    ∀ (l : List α) (s : State), s.Keeps (l.foldl f s)
  | [], s => .refl s
  | a :: r, s => (hf s a).trans (State.Keeps.foldl hf r (f s a))

/-- A team that stands, stood. -/
theorem State.Keeps.team {s t : State} (h : s.Keeps t) (u : Team) (hu : u ∈ t.teams) : ∃ v ∈ s.teams, v.bare = u.bare := by
  have hm : u.bare ∈ s.teams.map Team.bare := h.teams ▸ List.mem_map_of_mem hu
  exact List.mem_map.mp hm

/-- A destroyed queue has ended: it has no packet in flight, DESTROYED stands, its row is cleared and its unmapped watch gone
(R361). -/
def State.Ended (s t : State) (d : Nat) : Prop :=
  (∀ p ∈ t.packets, p.desc ≠ d) ∧ t.raised 7 d ∧ (∀ q, s.rowOf d = some q → (t.row q).valid = false)
    ∧ ∀ y ∈ t.unmapped, y.desc ≠ d

/-- Queues have wound down: no packet, launch, row or unmapped watch is new, a launch keeps its fate or ends with STATUS `n`,
events stay, watchdogs at most restart, and a destroy is under way until its queue has ended. -/
structure State.Winds (n : Nat) (s t : State) : Prop where
  launches : ∀ l ∈ t.launches, ∃ m ∈ s.launches, m.id = l.id ∧ (l.fate = m.fate ∨ l.fate = (m.ends n).fate)
  packets : ∀ p ∈ t.packets, ∃ q ∈ s.packets, q.id = p.id ∧ q.desc = p.desc ∧ q.typ = p.typ ∧ q.launch = p.launch
  unmapped : ∀ y ∈ t.unmapped, ∃ z ∈ s.unmapped, z.desc = y.desc
  rows : ∀ q, (t.row q).hold = (s.row q).hold ∧ (t.row q).qdesc = (s.row q).qdesc
    ∧ ((t.row q).valid = true → (s.row q).valid = true)
  raised : ∀ k d, s.raised k d → t.raised k d
  wdog : ∀ d, s.wdog d = 0 → t.wdog d = 0
  destroying : ∀ d ∈ s.destroying, d ∈ t.destroying ∨ s.Ended t d

theorem State.Winds.refl (n : Nat) (s : State) : s.Winds n s :=
  ⟨fun l h => ⟨l, h, rfl, .inl rfl⟩, fun p h => ⟨p, h, rfl, rfl, rfl, rfl⟩, fun y h => ⟨y, h, rfl⟩,
    fun _ => ⟨rfl, rfl, id⟩, fun _ _ => id, fun _ => id, fun _ h => .inl h⟩

/-- A second end changes no fate. -/
theorem Launch.ends_ends (l m : Launch) (n : Nat) (h : l.fate = (m.ends n).fate) : (l.ends n).fate = (m.ends n).fate := by
  simp only [Launch.ends] at *
  split at h <;> split <;> simp_all

/-- The row of a queue stays its row while it stands. -/
theorem State.Winds.rowOf {n : Nat} {s t : State} (h : s.Winds n t) (d q : Nat) (hq : s.rowOf d = some q) :
    t.rowOf d = some q ∨ (t.row q).valid = false := by
  cases hv : (t.row q).valid with
  | false => exact .inr rfl
  | true =>
    refine .inl ?_
    unfold State.rowOf at hq ⊢
    rw [List.find?_range_eq_some] at hq ⊢
    obtain ⟨h1, h2, h3⟩ := hq
    refine ⟨?_, h2, fun j hj => ?_⟩
    · simp only [Bool.and_eq_true] at h1 ⊢
      exact ⟨hv, (h.rows q).2.1 ▸ h1.2⟩
    · have := h3 j hj
      rw [(h.rows j).2.1]
      cases hj' : (t.row j).valid with
      | false => rfl
      | true => rwa [(h.rows j).2.2 hj'] at this

/-- A row that has been cleared stays so. -/
theorem State.Winds.row_invalid {n : Nat} {s t : State} (h : s.Winds n t) {q : Nat} (hq : (s.row q).valid = false) :
    (t.row q).valid = false :=
  (Bool.not_eq_true _).mp (fun hv => by simp [(h.rows q).2.2 hv] at hq)

/-- What has ended when a queue has wound down, has ended since any time before. -/
theorem State.Winds.ended {n : Nat} {s t u : State} (a : s.Winds n t) (b : t.Winds n u) {d : Nat} (h : t.Ended u d) :
    s.Ended u d := by
  obtain ⟨h1, h2, h3, h4⟩ := h
  refine ⟨h1, h2, fun q hq => ?_, h4⟩
  rcases a.rowOf d q hq with ht | ht
  · exact h3 q ht
  · exact b.row_invalid ht

/-- A queue that has ended stays so. -/
theorem State.Winds.ended_still {n : Nat} {s t u : State} (b : t.Winds n u) {d : Nat} (h : s.Ended t d) : s.Ended u d := by
  obtain ⟨h1, h2, h3, h4⟩ := h
  refine ⟨fun p hp => ?_, b.raised 7 d h2, fun q hq => b.row_invalid (h3 q hq), fun y hy => ?_⟩
  · obtain ⟨q, hq, -, hd, -⟩ := b.packets p hp
    exact hd ▸ h1 q hq
  · obtain ⟨z, hz, hzy⟩ := b.unmapped y hy
    exact hzy ▸ h4 z hz

theorem State.Winds.trans {n : Nat} {s t u : State} (a : s.Winds n t) (b : t.Winds n u) : s.Winds n u := by
  refine ⟨fun l hl => ?_, fun p hp => ?_, fun y hy => ?_, fun q => ?_, fun k d h => b.raised k d (a.raised k d h),
    fun d h => b.wdog d (a.wdog d h), fun d hd => ?_⟩
  · obtain ⟨m, hm, hml, hf⟩ := b.launches l hl
    obtain ⟨k, hk, hkm, hg⟩ := a.launches m hm
    refine ⟨k, hk, hkm.trans hml, ?_⟩
    rcases hf with hf | hf <;> rcases hg with hg | hg
    · exact .inl (hf.trans hg)
    · exact .inr (hf.trans hg)
    · refine .inr (hf.trans ?_)
      simp only [Launch.ends, hg]
    · exact .inr (hf.trans (Launch.ends_ends m k n hg))
  · obtain ⟨q, hq, h1, h2, h3, h4⟩ := b.packets p hp
    obtain ⟨r, hr, g1, g2, g3, g4⟩ := a.packets q hq
    exact ⟨r, hr, g1.trans h1, g2.trans h2, g3.trans h3, g4.trans h4⟩
  · obtain ⟨z, hz, h1⟩ := b.unmapped y hy
    obtain ⟨w, hw, g1⟩ := a.unmapped z hz
    exact ⟨w, hw, g1.trans h1⟩
  · obtain ⟨h1, h2, h3⟩ := b.rows q
    obtain ⟨g1, g2, g3⟩ := a.rows q
    exact ⟨h1.trans g1, h2.trans g2, fun h => g3 (h3 h)⟩
  · rcases a.destroying d hd with hd | hd
    · exact (b.destroying d hd).imp_right (a.ended b)
    · exact .inr (b.ended_still hd)

theorem State.Winds.foldl {α : Type} {n : Nat} {f : State → α → State} (hf : ∀ (s : State) a, s.Winds n (f s a)) :
    ∀ (l : List α) (s : State), s.Winds n (l.foldl f s)
  | [], s => .refl n s
  | a :: r, s => (hf s a).trans (State.Winds.foldl hf r (f s a))

/-- A change that touches none of what the queues are. -/
theorem State.Winds.aside {s t : State} (n : Nat) (launches : t.launches = s.launches := by rfl)
    (packets : t.packets = s.packets := by rfl) (unmapped : t.unmapped = s.unmapped := by rfl)
    (rows : t.rows = s.rows := by rfl) (events : t.events = s.events := by rfl) (wdogs : t.wdogs = s.wdogs := by rfl)
    (destroying : t.destroying = s.destroying := by rfl) : s.Winds n t := by
  have row : t.row = s.row := by funext q; unfold State.row; rw [rows]
  refine ⟨?_, ?_, ?_, fun q => ?_, fun k d h => ?_, fun d h => ?_, fun d h => .inl (destroying ▸ h)⟩
  · rw [launches]; exact (State.Winds.refl n s).launches
  · rw [packets]; exact (State.Winds.refl n s).packets
  · rw [unmapped]; exact (State.Winds.refl n s).unmapped
  · rw [row]; exact ⟨rfl, rfl, id⟩
  · unfold State.raised; rw [events]; exact h
  · unfold State.wdog; rw [wdogs]; exact h

/-! ## Accesses of units -/

theorem State.Served.keeps {s t : State} (h : s.Served t) : s.Keeps t :=
  ⟨h.boot, h.drains, h.groups, h.jobs, congrArg _ h.teams⟩

theorem State.Served.winds {s t : State} (h : s.Served t) (n : Nat) : s.Winds n t := by
  refine ⟨?_, fun p hp => ?_, fun y hy => ?_, fun q => ?_, fun k d hr => ?_, fun d hw => ?_, fun d hd => .inl ?_⟩
  · rw [h.launches]; exact (State.Winds.refl n s).launches
  · have hm : p.unseen ∈ s.packets.map Packet.unseen := h.packets ▸ List.mem_map_of_mem hp
    obtain ⟨q, hq, e⟩ := List.mem_map.mp hm
    have id := congrArg Packet.id e
    have desc := congrArg Packet.desc e
    have typ := congrArg Packet.typ e
    have launch := congrArg Packet.launch e
    exact ⟨q, hq, id, desc, typ, launch⟩
  · have hm : y.desc ∈ s.unmapped.map Unmapped.desc := h.unmapped ▸ List.mem_map_of_mem hy
    exact List.mem_map.mp hm
  · have e := h.row q
    have hold := congrArg Row.hold e
    have qdesc := congrArg Row.qdesc e
    have valid := congrArg Row.valid e
    exact ⟨hold, qdesc, fun hv => valid ▸ hv⟩
  · unfold State.raised; rw [h.events]; exact hr
  · unfold State.wdog; rw [h.wdogs]; exact hw
  · rw [h.destroying]; exact hd

theorem State.keeps_preserve (s : State) (ctx : Word) (line : Nat) : s.Keeps (s.preserve ctx line) := by
  unfold State.preserve State.storeIrq State.modContext
  split
  · split <;> split <;> exact ⟨rfl, rfl, rfl, rfl, rfl⟩
  · exact .refl s

theorem State.keeps_stampLine (s : State) (line : Nat) : s.Keeps (s.stampLine line) := ⟨rfl, rfl, rfl, rfl, rfl⟩

theorem State.keeps_put (s : State) (sp : Space) (l : List (Nat × Byte)) : s.Keeps (s.put sp l) := by
  cases sp with
  | mem => exact ⟨rfl, rfl, rfl, rfl, rfl⟩
  | peer d => exact ⟨rfl, rfl, rfl, rfl, rfl⟩
  | scratch i =>
    refine ⟨rfl, rfl, rfl, rfl, ?_⟩
    simp only [State.put, State.modTeam, List.map_map]
    refine List.map_congr_left (fun t _ => ?_)
    simp only [Function.comp]
    split <;> rfl

theorem State.keeps_unitWrite (s : State) (ctx : Word) (p : Place) (l : List Byte) : s.Keeps (s.unitWrite ctx p l) := by
  unfold State.unitWrite
  split
  · dsimp only
    split
    · exact ⟨rfl, rfl, rfl, rfl, rfl⟩
    · split
      · exact ((s.keeps_preserve _ _).trans (State.served_homeWriteLine _ _ _ _).keeps).trans (State.keeps_stampLine _ _)
      · exact (s.served_homeWriteLine _ _ _).keeps
  · exact (s.keeps_put _ _).trans (State.served_fire _).keeps

theorem State.winds_preserve (s : State) (ctx : Word) (line : Nat) (n : Nat) : s.Winds n (s.preserve ctx line) := by
  unfold State.preserve State.storeIrq State.modContext
  split
  · split <;> split <;> exact .aside n
  · exact .refl n s

theorem State.winds_stampLine (s : State) (line : Nat) (n : Nat) : s.Winds n (s.stampLine line) := .aside n

theorem State.winds_put (s : State) (sp : Space) (l : List (Nat × Byte)) (n : Nat) : s.Winds n (s.put sp l) := by
  cases sp <;> exact .aside n

theorem State.winds_unitWrite (s : State) (ctx : Word) (p : Place) (l : List Byte) (n : Nat) :
    s.Winds n (s.unitWrite ctx p l) := by
  unfold State.unitWrite
  split
  · dsimp only
    split
    · exact .aside n
    · split
      · exact ((s.winds_preserve _ _ n).trans ((State.served_homeWriteLine _ _ _ _).winds n)).trans (State.winds_stampLine _ _ n)
      · exact (s.served_homeWriteLine _ _ _).winds n
  · exact (s.winds_put _ _ n).trans ((State.served_fire _).winds n)

end Sys2Proof.Machine

namespace Sys2Proof.Machine

/-! ## Events and watchdogs -/

/-- A fault marked in an event changes neither its kind nor its descriptor. -/
theorem eventKey_fault (x : DWord) : eventKey (x ||| (1 <<< 51 : DWord)) = eventKey x := by
  have e : (1 <<< 51 : DWord).toNat = 2 ^ 51 := by decide
  unfold eventKey
  rw [BitVec.toNat_or, e, Nat.or_div_two_pow, Nat.or_mod_two_pow]
  simp

theorem State.pushEvent_rest (s : State) (kind : Nat) (sf : Bool) (desc : Nat) :
    { s.pushEvent kind sf desc with events := s.events } = s := by
  unfold State.pushEvent
  dsimp only
  split <;> rfl

theorem State.pushEvent_keeps_raised (s : State) (kind : Nat) (sf : Bool) (desc k d : Nat) (h : s.raised k d) :
    (s.pushEvent kind sf desc).raised k d := by
  obtain ⟨e, he, hk⟩ := h
  unfold State.pushEvent
  dsimp only
  split
  · refine ⟨_, List.mem_map_of_mem he, ?_⟩
    split
    · rw [eventKey_fault, hk]
    · exact hk
  · exact ⟨e, List.mem_append_left _ he, hk⟩

/-- An event that is raised stands, its own or an unread one of its kind and descriptor. -/
theorem State.pushEvent_raised (s : State) (kind : Nat) (sf : Bool) (desc : Nat) (hk : kind < 16) :
    (s.pushEvent kind sf desc).raised kind desc := by
  unfold State.pushEvent
  dsimp only
  split
  · rename_i h
    obtain ⟨e, he, hke⟩ := List.any_eq_true.mp h
    have hke' : eventKey e = (kind, desc % 2 ^ 39 / 64 * 64) := by
      rw [of_decide_eq_true hke, eventKey_eventWord _ _ _ _ hk]
    refine ⟨_, List.mem_map_of_mem he, ?_⟩
    split
    · rw [eventKey_fault, hke']
    · exact hke'
  · exact ⟨_, List.mem_append_right _ (List.mem_singleton.mpr rfl), eventKey_eventWord _ _ _ _ hk⟩

theorem State.keeps_pushEvent (s : State) (kind : Nat) (sf : Bool) (desc : Nat) : s.Keeps (s.pushEvent kind sf desc) := by
  unfold State.pushEvent
  dsimp only
  split <;> exact ⟨rfl, rfl, rfl, rfl, rfl⟩

theorem State.winds_pushEvent (s : State) (kind : Nat) (sf : Bool) (desc n : Nat) : s.Winds n (s.pushEvent kind sf desc) := by
  have h : s.Winds n { s.pushEvent kind sf desc with events := s.events } := by
    rw [s.pushEvent_rest]
    exact .refl n s
  refine ⟨h.launches, h.packets, h.unmapped, h.rows, s.pushEvent_keeps_raised kind sf desc, h.wdog, fun d hd => .inl ?_⟩
  have e := congrArg State.destroying (s.pushEvent_rest kind sf desc)
  exact e ▸ hd

/-- A watchdog that restarts stands at 0, and no other changes. -/
theorem State.setWdog_zero (s : State) (d a : Nat) : (s.setWdog d 0).wdog a = if a = d then 0 else s.wdog a := by
  unfold State.setWdog State.wdog
  simp only [if_true, List.append_nil]
  rw [List.find?_filter]
  split
  · rename_i h
    subst h
    have : s.wdogs.find? (fun e => decide (decide (e.1 ≠ a) = true ∧ decide (e.1 = a) = true)) = none := by
      simp
    rw [this]
    rfl
  · rename_i h
    have : (fun e : Nat × Nat => decide (decide (e.1 ≠ d) = true ∧ decide (e.1 = a) = true)) = fun e => decide (e.1 = a) := by
      funext e
      by_cases he : e.1 = a <;> simp [he, h]
    rw [this]

theorem State.keeps_setWdog (s : State) (d k : Nat) : s.Keeps (s.setWdog d k) := ⟨rfl, rfl, rfl, rfl, rfl⟩

theorem State.winds_setWdog (s : State) (d n : Nat) : s.Winds n (s.setWdog d 0) := by
  refine ⟨(State.Winds.refl n s).launches, (State.Winds.refl n s).packets, (State.Winds.refl n s).unmapped,
    fun _ => ⟨rfl, rfl, id⟩, fun _ _ => id, fun a h => ?_, fun _ h => .inl h⟩
  rw [s.setWdog_zero]
  split
  · rfl
  · exact h

end Sys2Proof.Machine

namespace Sys2Proof.Machine

/-! ## Packets, launches and queues complete (R354, R361) -/

/-- A packet is in flight no more. -/
def State.dropPacket (s : State) (p : Packet) : State := { s with packets := s.packets.filter (fun q => q.id ≠ p.id) }

theorem State.keeps_dropPacket (s : State) (p : Packet) : s.Keeps (s.dropPacket p) := ⟨rfl, rfl, rfl, rfl, rfl⟩

theorem State.winds_dropPacket (s : State) (p : Packet) (n : Nat) : s.Winds n (s.dropPacket p) :=
  ⟨(State.Winds.refl n s).launches, fun q hq => ⟨q, List.mem_of_mem_filter hq, rfl, rfl, rfl, rfl⟩,
    (State.Winds.refl n s).unmapped, fun _ => ⟨rfl, rfl, id⟩, fun _ _ => id, fun _ => id, fun _ h => .inl h⟩

/-- Once a packet is in flight no more, its completion is the access to its signal, the watchdog's restart and the event. -/
theorem State.completePacket_eq (s : State) (p : Packet) (st dropped teams : Nat) :
    ∃ u bad, (s.dropPacket p).Keeps u ∧ (∀ n, (s.dropPacket p).Winds n u)
      ∧ s.completePacket p st dropped teams = (u.setWdog p.desc 0).pushEvent 2 bad p.desc := by
  by_cases h0 : p.signal = 0
  · refine ⟨s.dropPacket p, false, .refl _, fun n => .refl n _, ?_⟩
    unfold State.completePacket
    dsimp only
    rw [if_pos h0]
    rfl
  · cases hp : (s.dropPacket p).frontPlace p.ctx p.signal 8 .store with
    | none =>
      refine ⟨s.dropPacket p, true, .refl _, fun n => .refl n _, ?_⟩
      unfold State.completePacket State.writeSignal
      dsimp only
      rw [if_neg h0]
      rw [show State.frontPlace { s with packets := _ } p.ctx p.signal 8 .store = none from hp]
      rfl
    | some pl =>
      refine ⟨((s.dropPacket p).walked .none p.ctx p.signal).unitWrite p.ctx.ctxid pl
          (leBytes 8 (st % 256 * 2 ^ 56 + dropped % 2 ^ 24 * 2 ^ 32 + teams % 2 ^ 32)), false,
        (State.served_walked _ _ _ _).keeps.trans (State.keeps_unitWrite _ _ _ _),
        fun n => ((State.served_walked _ _ _ _).winds n).trans (State.winds_unitWrite _ _ _ _ n), ?_⟩
      unfold State.completePacket State.writeSignal
      dsimp only
      rw [if_neg h0]
      rw [show State.frontPlace { s with packets := _ } p.ctx p.signal 8 .store = some pl from hp]
      rfl

theorem State.keeps_completePacket (s : State) (p : Packet) (st dropped teams : Nat) :
    s.Keeps (s.completePacket p st dropped teams) := by
  obtain ⟨u, bad, hk, -, e⟩ := s.completePacket_eq p st dropped teams
  rw [e]
  exact (((s.keeps_dropPacket p).trans hk).trans (u.keeps_setWdog _ _)).trans (State.keeps_pushEvent _ _ _ _)

theorem State.winds_of_dropPacket (s : State) (p : Packet) (st dropped teams n : Nat) :
    (s.dropPacket p).Winds n (s.completePacket p st dropped teams) := by
  obtain ⟨u, bad, -, hw, e⟩ := s.completePacket_eq p st dropped teams
  rw [e]
  exact ((hw n).trans (u.winds_setWdog _ n)).trans (State.winds_pushEvent _ _ _ _ n)

theorem State.winds_completePacket (s : State) (p : Packet) (st dropped teams n : Nat) :
    s.Winds n (s.completePacket p st dropped teams) :=
  (s.winds_dropPacket p n).trans (s.winds_of_dropPacket p st dropped teams n)

/-- The packet that completes stands no more. -/
theorem State.completePacket_gone (s : State) (p : Packet) (st dropped teams : Nat) :
    ∀ q ∈ (s.completePacket p st dropped teams).packets, q.id ≠ p.id := by
  intro q hq
  obtain ⟨r, hr, hid, -⟩ := (s.winds_of_dropPacket p st dropped teams 0).packets q hq
  rw [← hid]
  exact of_decide_eq_true (List.mem_filter.mp hr).2

/-! ### The BARRIERs of a queue -/

/-- What a step does for each of a list, stands at the end, where the step for another keeps it. -/
theorem foldl_each {α β : Type} {f : β → α → β} {P : α → β → Prop} (make : ∀ s a, P a (f s a))
    (keep : ∀ s a b, P a s → P a (f s b)) : ∀ (l : List α) (s : β), ∀ a ∈ l, P a (l.foldl f s) := by
  have kept : ∀ (l : List α) (s : β) (a : α), P a s → P a (l.foldl f s) := by
    intro l
    induction l with
    | nil => exact fun _ _ h => h
    | cons b r ih => exact fun s a h => ih (f s b) a (keep s a b h)
  intro l
  induction l with
  | nil => simp
  | cons b r ih =>
    intro s a ha
    rcases List.mem_cons.mp ha with rfl | ha
    · exact kept r (f s a) a (make s a)
    · exact ih (f s b) a ha

/-- No BARRIER of a queue is in flight. -/
def State.NoBarrier (s : State) (a : Nat) : Prop := ∀ p ∈ s.packets, p.desc = a → p.typ ≠ 3

theorem State.Winds.noBarrier {n : Nat} {s t : State} (h : s.Winds n t) {a : Nat} (hs : s.NoBarrier a) : t.NoBarrier a := by
  intro p hp hd
  obtain ⟨q, hq, -, h2, h3, -⟩ := h.packets p hp
  exact h3 ▸ hs q hq (h2.trans hd)

/-- The BARRIERs of a queue complete with a STATUS. -/
def State.endBarriers (s : State) (a st : Nat) : State :=
  (s.inFlight a).foldl (fun s p => if p.typ = 3 then s.completePacket p st 0 0 else s) s

theorem State.keeps_endBarriers (s : State) (a st : Nat) : s.Keeps (s.endBarriers a st) :=
  .foldl (fun s p => by split; exacts [s.keeps_completePacket p st 0 0, .refl s]) _ s

theorem State.winds_endBarriers (s : State) (a st n : Nat) : s.Winds n (s.endBarriers a st) :=
  .foldl (fun s p => by split; exacts [s.winds_completePacket p st 0 0 n, .refl n s]) _ s

theorem State.endBarriers_noBarrier (s : State) (a st : Nat) : (s.endBarriers a st).NoBarrier a := by
  have each := foldl_each (f := fun (s : State) (p : Packet) => if p.typ = 3 then s.completePacket p st 0 0 else s)
    (P := fun p (s : State) => p.typ = 3 → ∀ q ∈ s.packets, q.id ≠ p.id)
    (fun s p h => by rw [if_pos h]; exact s.completePacket_gone p st 0 0)
    (fun s p b hs h q hq => by
      split at hq
      · obtain ⟨r, hr, hid, -⟩ := (s.winds_completePacket b st 0 0 0).packets q hq
        exact hid ▸ hs h r hr
      · exact hs h q hq) (s.inFlight a) s
  intro q hq hd ht
  obtain ⟨p, hp, h1, h2, h3, -⟩ := (s.winds_endBarriers a st 0).packets q hq
  have hin : p ∈ s.inFlight a := List.mem_filter.mpr ⟨hp, by simpa using h2.trans hd⟩
  exact each p hin (h3.trans ht) q hq h1.symm

/-! ### The ready packets of a ring -/

theorem State.served_consume (s : State) (d : QDesc) : s.Served (s.consume d) :=
  (s.served_deviceWrite _ _).trans (State.served_deviceWrite _ _ _)

theorem State.keeps_sweep (desc st : Nat) : ∀ (k : Nat) (s : State), s.Keeps (s.sweep desc st k)
  | 0, s => .refl s
  | k + 1, s => by
    unfold State.sweep
    dsimp only
    split
    · exact .refl s
    · exact ((s.served_consume _).keeps.trans (State.keeps_completePacket _ _ _ _ _)).trans (State.keeps_sweep desc st k _)

theorem State.winds_sweep (desc st n : Nat) : ∀ (k : Nat) (s : State), s.Winds n (s.sweep desc st k)
  | 0, s => .refl n s
  | k + 1, s => by
    unfold State.sweep
    dsimp only
    split
    · exact .refl n s
    · exact (((s.served_consume _).winds n).trans (State.winds_completePacket _ _ _ _ _ n)).trans
        (State.winds_sweep desc st n k _)

/-! ### Launches that are done, and queues that have ended -/

/-- The transactions of a saved team close: snapshots go, and nothing else. -/
def State.closeTxns (s : State) (t : SavedTeam) : State :=
  t.groups.foldl (fun s g => match g.txn with
    | some n => s.releaseSnap t.team.ctx.ctxid n
    | none => s) s

theorem State.closeTxns_eq (s : State) (t : SavedTeam) : ∃ l, s.closeTxns t = { s with snaps := l } := by
  unfold State.closeTxns
  generalize t.groups = gs
  induction gs generalizing s with
  | nil => exact ⟨s.snaps, rfl⟩
  | cons g r ih =>
    rw [List.foldl_cons]
    split
    · obtain ⟨l, h⟩ := ih (s.releaseSnap t.team.ctx.ctxid _)
      exact ⟨l, h⟩
    · exact ih s

theorem State.closeSaved_eq (s : State) (ts : List SavedTeam) : ∃ l, s.closeSaved ts = { s with snaps := l } := by
  change ∃ l, ts.foldl State.closeTxns s = _
  induction ts generalizing s with
  | nil => exact ⟨s.snaps, rfl⟩
  | cons t r ih =>
    obtain ⟨l, h⟩ := s.closeTxns_eq t
    rw [List.foldl_cons, h]
    exact ih { s with snaps := l }

end Sys2Proof.Machine

namespace Sys2Proof.Machine

/-! ### Launches that are done, and queues that have ended -/

/-- Launches of which those left stood before, and the same for what belongs to them. -/
theorem State.winds_dropLaunch (s : State) (p : Launch → Bool) (snaps : List Snapshot) (gangs : List Gang) (saved : List SavedTeam)
    (n : Nat) :
    s.Winds n { s with snaps := snaps, launches := s.launches.filter p, gangs := gangs, savedTeams := saved } :=
  ⟨fun l hl => ⟨l, List.mem_of_mem_filter hl, rfl, .inl rfl⟩, (State.Winds.refl n s).packets, (State.Winds.refl n s).unmapped,
    fun _ => ⟨rfl, rfl, id⟩, fun _ _ => id, fun _ => id, fun _ h => .inl h⟩

/-- A launch that completes is gone, and then its packet completes. -/
theorem State.completeLaunch_eq (s : State) (l : Launch) : ∃ u, s.Keeps u ∧ (∀ n, s.Winds n u)
    ∧ (s.completeLaunch l = u ∨ ∃ p st dropped, s.completeLaunch l = u.completePacket p st dropped l.started) := by
  obtain ⟨snaps, hs⟩ := s.closeSaved_eq (s.savedTeams.filter (fun t => t.launch = l.id))
  refine ⟨{ s with
    snaps := snaps, launches := s.launches.filter (fun m => m.id ≠ l.id), gangs := s.gangs.filter (fun g => g.launch ≠ l.id)
    savedTeams := s.savedTeams.filter (fun t => t.launch ≠ l.id) }, ⟨rfl, rfl, rfl, rfl, rfl⟩,
    s.winds_dropLaunch _ _ _ _, ?_⟩
  unfold State.completeLaunch
  rw [hs]
  dsimp only
  split
  · exact .inr ⟨_, _, _, rfl⟩
  · exact .inl rfl

theorem State.keeps_completeLaunch (s : State) (l : Launch) : s.Keeps (s.completeLaunch l) := by
  obtain ⟨u, hk, -, e | ⟨p, st, dropped, e⟩⟩ := s.completeLaunch_eq l
  · exact e ▸ hk
  · exact e ▸ hk.trans (u.keeps_completePacket _ _ _ _)

theorem State.winds_completeLaunch (s : State) (l : Launch) (n : Nat) : s.Winds n (s.completeLaunch l) := by
  obtain ⟨u, -, hw, e | ⟨p, st, dropped, e⟩⟩ := s.completeLaunch_eq l
  · exact e ▸ hw n
  · exact e ▸ (hw n).trans (u.winds_completePacket _ _ _ _ n)

/-- The row of a queue is cleared. -/
def State.clearRow (s : State) (d : Nat) : State :=
  match s.rowOf d with
  | some q => s.modRow q (fun r => { r with valid := false, watch := false, prefetched := [] })
  | none => s

theorem State.keeps_clearRow (s : State) (d : Nat) : s.Keeps (s.clearRow d) := by
  unfold State.clearRow
  split
  · exact ⟨rfl, rfl, rfl, rfl, rfl⟩
  · exact .refl s

theorem State.winds_clearRow (s : State) (d n : Nat) : s.Winds n (s.clearRow d) := by
  unfold State.clearRow
  split
  · refine ⟨(State.Winds.refl n s).launches, (State.Winds.refl n s).packets, (State.Winds.refl n s).unmapped,
      fun q => ?_, fun _ _ => id, fun _ => id, fun _ h => .inl h⟩
    unfold State.modRow State.row
    rw [upd_getD]
    split
    · exact ⟨rfl, rfl, fun h => by cases h⟩
    · exact ⟨rfl, rfl, id⟩
  · exact .refl n s

theorem State.clearRow_row (s : State) (d q : Nat) (h : s.rowOf d = some q) : ((s.clearRow d).row q).valid = false := by
  unfold State.clearRow
  rw [h]
  unfold State.modRow State.row
  rw [upd_getD]
  split
  · rfl
  · rename_i hq
    rw [List.getD_eq_default _ _ (by omega)]

/-- The end of one destroyed queue (R361). -/
def State.endQueue (s : State) (d : Nat) : State :=
  let s := ((s.clearRow d).setWdog d 0).pushEvent 7 false d
  { s with destroying := s.destroying.filter (· ≠ d), unmapped := s.unmapped.filter (fun u => u.desc ≠ d) }

theorem State.keeps_endQueue (s : State) (d : Nat) : s.Keeps (s.endQueue d) :=
  (((s.keeps_clearRow d).trans (State.keeps_setWdog _ _ _)).trans (State.keeps_pushEvent _ 7 false d)).trans
    ⟨rfl, rfl, rfl, rfl, rfl⟩

/-- A queue without a packet in flight winds down when it ends. -/
theorem State.winds_endQueue (s : State) (d n : Nat) (hp : ∀ p ∈ s.packets, p.desc ≠ d) : s.Winds n (s.endQueue d) := by
  have clear := (s.winds_clearRow d n).trans (State.winds_setWdog _ d n)
  have h := clear.trans (State.winds_pushEvent _ 7 false d n)
  have raised := ((s.clearRow d).setWdog d 0).pushEvent_raised 7 false d (by omega)
  refine ⟨h.launches, h.packets, fun y hy => h.unmapped y (List.mem_of_mem_filter hy), h.rows, h.raised, h.wdog, fun a ha => ?_⟩
  rcases h.destroying a ha with ha | ha
  · by_cases had : a = d
    · subst had
      refine .inr ⟨fun p hpp => ?_, raised, fun q hq => ?_, fun y hy => of_decide_eq_true (List.mem_filter.mp hy).2⟩
      · obtain ⟨r, hr, -, hd, -⟩ := h.packets p hpp
        exact hd ▸ hp r hr
      · have := (State.winds_pushEvent ((s.clearRow a).setWdog a 0) 7 false a n).rows q
        by_contra hv
        have hv := this.2.2 ((Bool.not_eq_false _).mp hv)
        have hc : (((s.clearRow a).setWdog a 0).row q).valid = false := s.clearRow_row a q hq
        rw [hc] at hv
        cases hv
    · exact .inl (List.mem_filter.mpr ⟨ha, by simpa using had⟩)
  · exact .inr ⟨ha.1, ha.2.1, ha.2.2.1, fun y hy => ha.2.2.2 y (List.mem_of_mem_filter hy)⟩

theorem State.endQueue_packets (s : State) (d : Nat) : (s.endQueue d).packets = s.packets := by
  have clear : (s.clearRow d).packets = s.packets := by
    unfold State.clearRow
    split <;> rfl
  have e := congrArg State.packets (((s.clearRow d).setWdog d 0).pushEvent_rest 7 false d)
  exact Eq.trans e clear

theorem State.endQueue_destroying (s : State) (d : Nat) : (s.endQueue d).destroying = s.destroying.filter (· ≠ d) := by
  have clear : (s.clearRow d).destroying = s.destroying := by
    unfold State.clearRow
    split <;> rfl
  have e := congrArg State.destroying (((s.clearRow d).setWdog d 0).pushEvent_rest 7 false d)
  exact congrArg (List.filter (· ≠ d)) (Eq.trans e clear)

/-- The launches that are done complete. -/
def State.completeDone (s : State) : State :=
  (s.launches.filter (fun l => l.done && !s.draining l.desc)).foldl State.completeLaunch s

/-- The destroyed queues without a packet in flight. -/
def State.emptied (s : State) : List Nat := s.destroying.filter (fun d => !s.packets.any (fun p => p.desc = d))

theorem State.mem_emptied {s : State} {d : Nat} (h : d ∈ s.emptied) : ∀ p ∈ s.packets, p.desc ≠ d := by
  have h := (List.mem_filter.mp h).2
  simpa using h

theorem State.settleLaunches_eq (s : State) : s.settleLaunches = s.completeDone.emptied.foldl State.endQueue s.completeDone := rfl

theorem State.endQueues_spec (n : Nat) : ∀ (l : List Nat) (s : State), (∀ d ∈ l, ∀ p ∈ s.packets, p.desc ≠ d) →
    s.Winds n (l.foldl State.endQueue s) ∧ (l.foldl State.endQueue s).packets = s.packets
      ∧ ∀ d, d ∈ (l.foldl State.endQueue s).destroying ↔ d ∈ s.destroying ∧ d ∉ l
  | [], s, _ => ⟨.refl n s, rfl, by simp⟩
  | a :: r, s, h => by
    obtain ⟨hw, hp, hd⟩ := State.endQueues_spec n r (s.endQueue a)
      (fun d hd => by rw [s.endQueue_packets]; exact h d (List.mem_cons_of_mem _ hd))
    refine ⟨(s.winds_endQueue a n (h a List.mem_cons_self)).trans hw, hp.trans (s.endQueue_packets a), fun d => ?_⟩
    rw [List.foldl_cons, hd, s.endQueue_destroying]
    simp [and_assoc]

theorem State.keeps_settleLaunches (s : State) : s.Keeps s.settleLaunches :=
  (State.Keeps.foldl State.keeps_completeLaunch _ s).trans (.foldl State.keeps_endQueue _ _)

theorem State.winds_settleLaunches (s : State) (n : Nat) : s.Winds n s.settleLaunches :=
  (State.Winds.foldl (fun s l => s.winds_completeLaunch l n) _ s).trans
    (State.endQueues_spec n _ s.completeDone (fun _ => State.mem_emptied)).1

/-- A destroy that is under way waits for a packet. -/
def State.Settled (s : State) : Prop := ∀ d ∈ s.destroying, ∃ p ∈ s.packets, p.desc = d

theorem State.settleLaunches_settled (s : State) : s.settleLaunches.Settled := by
  obtain ⟨-, hp, hd⟩ := State.endQueues_spec 0 _ s.completeDone (fun _ => State.mem_emptied)
  intro d hm
  rw [s.settleLaunches_eq] at hm ⊢
  rw [hp]
  obtain ⟨hm, hne⟩ := (hd d).mp hm
  by_contra hno
  refine hne (List.mem_filter.mpr ⟨hm, ?_⟩)
  simpa using hno

/-- A queue whose destroy is under way stands among the destroyed ones exactly while it has a packet in flight; once it has none,
it has ended (R361). -/
def State.Closed (s : State) (a : Nat) (t : State) : Prop :=
  (a ∈ t.destroying ↔ ∃ p ∈ t.packets, p.desc = a)
    ∧ (a ∉ t.destroying → t.raised 7 a ∧ (∀ q, s.rowOf a = some q → (t.row q).valid = false) ∧ ∀ y ∈ t.unmapped, y.desc ≠ a)

/-- A queue whose destroy was under way and that has wound down stands closed. -/
theorem State.Winds.closed {n : Nat} {s t u : State} (w : s.Winds n t) (h : t.Winds n u) (hu : u.Settled) (a : Nat)
    (ha : a ∈ t.destroying) : s.Closed a u := by
  rcases h.destroying a ha with hd | hd
  · exact ⟨⟨fun _ => hu a hd, fun _ => hd⟩, fun hn => absurd hd hn⟩
  · obtain ⟨h1, h2⟩ := w.ended h hd
    exact ⟨⟨hu a, fun ⟨p, hp, e⟩ => absurd e (h1 p hp)⟩, fun _ => h2⟩

end Sys2Proof.Machine

namespace Sys2Proof.Machine

/-! ## Teams and their launches are discarded (R63, R358)

Groups, teams, jobs and accesses go, and none comes; queues stand as they stood but for the fates of launches. -/

/-- Groups, teams, jobs and accesses that stand, stood; launches at most end with STATUS `n`. -/
structure State.Discards (n : Nat) (s t : State) : Prop where
  winds : s.Winds n t
  boot : t.boot = s.boot
  drains : t.drains = s.drains
  destroying : t.destroying = s.destroying
  groups : ∀ g ∈ t.groups, ∃ h ∈ s.groups, h.team = g.team ∧ h.core = g.core ∧ h.slot = g.slot
  teams : ∀ u ∈ t.teams, u ∈ s.teams
  jobs : ∀ j ∈ t.jobs, ∃ k ∈ s.jobs, k.id = j.id
  writes : ∀ w ∈ t.writes, w ∈ s.writes

theorem State.Discards.refl (n : Nat) (s : State) : s.Discards n s :=
  ⟨.refl n s, rfl, rfl, rfl, fun g h => ⟨g, h, rfl, rfl, rfl⟩, fun _ => id, fun j h => ⟨j, h, rfl⟩, fun _ => id⟩

theorem State.Discards.trans {n : Nat} {s t u : State} (a : s.Discards n t) (b : t.Discards n u) : s.Discards n u := by
  refine ⟨a.winds.trans b.winds, b.boot.trans a.boot, b.drains.trans a.drains, b.destroying.trans a.destroying,
    fun g hg => ?_, fun x hx => a.teams x (b.teams x hx), fun j hj => ?_, fun w hw => a.writes w (b.writes w hw)⟩
  · obtain ⟨h, hh, h1, h2, h3⟩ := b.groups g hg
    obtain ⟨k, hk, k1, k2, k3⟩ := a.groups h hh
    exact ⟨k, hk, k1.trans h1, k2.trans h2, k3.trans h3⟩
  · obtain ⟨k, hk, e⟩ := b.jobs j hj
    obtain ⟨i, hi, e'⟩ := a.jobs k hk
    exact ⟨i, hi, e'.trans e⟩

theorem State.Discards.foldl {α : Type} {n : Nat} {f : State → α → State} (hf : ∀ (s : State) a, s.Discards n (f s a)) :
    ∀ (l : List α) (s : State), s.Discards n (l.foldl f s)
  | [], s => .refl n s
  | a :: r, s => (hf s a).trans (State.Discards.foldl hf r (f s a))

/-- Fewer teams, jobs and accesses stand, and the queues are as they were. -/
theorem State.Discards.fewer {n : Nat} {s t : State} (winds : s.Winds n t) (boot : t.boot = s.boot := by rfl)
    (drains : t.drains = s.drains := by rfl) (destroying : t.destroying = s.destroying := by rfl)
    (groups : ∀ g ∈ t.groups, g ∈ s.groups := by exact fun _ h => h)
    (teams : ∀ u ∈ t.teams, u ∈ s.teams := by exact fun _ h => h)
    (jobs : ∀ j ∈ t.jobs, j ∈ s.jobs := by exact fun _ h => h)
    (writes : ∀ w ∈ t.writes, w ∈ s.writes := by exact fun _ h => h) :
    s.Discards n t :=
  ⟨winds, boot, drains, destroying, fun g h => ⟨g, groups g h, rfl, rfl, rfl⟩, teams, fun j h => ⟨j, jobs j h, rfl⟩, writes⟩

/-- A launch changes but for its number, and at most ends. -/
theorem State.discards_modLaunch (s : State) (id n : Nat) (f : Launch → Launch) (hid : ∀ l, (f l).id = l.id)
    (hf : ∀ l, (f l).fate = l.fate ∨ (f l).fate = (l.ends n).fate) : s.Discards n (s.modLaunch id f) := by
  refine .fewer ⟨fun l hl => ?_, (State.Winds.refl n s).packets, (State.Winds.refl n s).unmapped, fun _ => ⟨rfl, rfl, fun h => h⟩,
    fun _ _ h => h, fun _ h => h, fun _ h => .inl h⟩
  obtain ⟨m, hm, rfl⟩ := List.mem_map.mp hl
  refine ⟨m, hm, ?_⟩
  split
  · exact ⟨(hid m).symm, hf m⟩
  · exact ⟨rfl, .inl rfl⟩

theorem State.discards_dropSaved (s : State) (launch n : Nat) : s.Discards n (s.dropSaved launch) := by
  obtain ⟨snaps, hs⟩ := s.closeSaved_eq (s.savedTeams.filter (fun t => t.launch = launch))
  unfold State.dropSaved
  rw [hs]
  refine State.Discards.trans (t := { s with snaps := snaps, savedTeams := s.savedTeams.filter (fun t => t.launch ≠ launch) })
    (.fewer (.aside n))
    (State.discards_modLaunch _ _ n _ (fun _ => rfl) (fun _ => .inl rfl))

theorem State.discards_ends (s : State) (launch n : Nat) : s.Discards n (s.modLaunch launch (fun l => l.ends n)) :=
  s.discards_modLaunch launch n _ (fun _ => rfl) (fun _ => .inr rfl)

theorem State.discards_closeTxn (s : State) (core slot n : Nat) : s.Discards n (s.closeTxn core slot) := by
  unfold State.closeTxn
  split
  · split
    · refine ⟨.aside n, rfl, rfl, rfl, fun g hg => ?_, fun _ h => h, fun j h => ⟨j, h, rfl⟩,
        fun _ h => h⟩
      obtain ⟨h, hh, rfl⟩ := List.mem_map.mp hg
      refine ⟨h, hh, ?_⟩
      split <;> exact ⟨rfl, rfl, rfl⟩
    · exact .refl n s
  · exact .refl n s

theorem State.discards_dropGroup (s : State) (core slot n : Nat) : s.Discards n (s.dropGroup core slot) :=
  .fewer (.aside n) (groups := fun _ => List.mem_of_mem_filter) (writes := fun _ => List.mem_of_mem_filter)

theorem State.discards_clearTeam (s : State) (t : Team) (n : Nat) : s.Discards n (s.clearTeam t) :=
  .foldl (fun (s : State) (g : Group) => (s.discards_closeTxn g.core g.slot n).trans (State.discards_dropGroup _ g.core g.slot n)) _ s

theorem State.discards_endStop (s : State) (core : Nat) (ctx : Word) (n : Nat) : s.Discards n (s.endStop core ctx) := by
  unfold State.endStop
  split
  · exact .refl n s
  · exact .fewer (.aside n)

theorem State.discards_endGang (s : State) (t : Team) (n : Nat) : s.Discards n (s.endGang t) := by
  unfold State.endGang
  split
  · exact .refl n s
  · exact .fewer (.aside n)

/-- A team stands no more. -/
def State.loseTeam (s : State) (t : Team) : State := { s with teams := s.teams.filter (fun u => u.id ≠ t.id) }

theorem State.discards_loseTeam (s : State) (t : Team) (n : Nat) : s.Discards n (s.loseTeam t) :=
  .fewer (.aside n) (teams := fun _ => List.mem_of_mem_filter)

/-- A team's groups leave with all that only they await. -/
def State.dropGroups (s : State) (t : Team) : State := (s.groupsOf t.id).foldl (fun s g => s.dropGroup g.core g.slot) s

theorem State.discards_dropGroups (s : State) (t : Team) (n : Nat) : s.Discards n (s.dropGroups t) :=
  .foldl (fun (s : State) (g : Group) => s.discards_dropGroup g.core g.slot n) _ s

/-- The stopped jobs of a team are abandoned, and its records withdrawn. -/
def State.loseJobs (s : State) (t : Team) : State :=
  let s := { s with jobs := s.jobs.filter (fun j => !(j.team = t.id && j.stopped)) }
  s.modTu (t.core / 32) (fun u => { u with unread := u.unread.filter (fun i =>
    i < 16384 || (i - 16384) / 32 ≠ t.core % 32 || s.jobs.any (fun j => j.core = t.core && j.entry = i % 32)) })

theorem State.discards_loseJobs (s : State) (t : Team) (n : Nat) : s.Discards n (s.loseJobs t) :=
  .fewer (.aside n) (jobs := fun _ => List.mem_of_mem_filter)

/-- A discarded team counts for its launch. -/
def State.countDiscard (s : State) (t : Team) (n : Nat) : State :=
  s.modLaunch t.launch (fun l => { l.ends n with discarded := l.discarded + 1 })

theorem State.discards_countDiscard (s : State) (t : Team) (n : Nat) : s.Discards n (s.countDiscard t n) :=
  s.discards_modLaunch t.launch n _ (fun _ => rfl) (fun _ => .inr rfl)

theorem State.discardTeam_eq (s : State) (t : Team) (n : Nat) : s.discardTeam t n
    = ((((((s.clearTeam t).dropGroups t).loseTeam t).endStop t.core t.ctx.ctxid).loseJobs t).countDiscard t n).endGang t := rfl

theorem State.discards_afterLoss (s : State) (t : Team) (n : Nat) :
    s.Discards n ((((s.endStop t.core t.ctx.ctxid).loseJobs t).countDiscard t n).endGang t) :=
  (((s.discards_endStop _ _ n).trans (State.discards_loseJobs _ t n)).trans (State.discards_countDiscard _ t n)).trans
    (State.discards_endGang _ t n)

theorem State.discards_discardTeam (s : State) (t : Team) (n : Nat) : s.Discards n (s.discardTeam t n) := by
  rw [s.discardTeam_eq]
  exact (((s.discards_clearTeam t n).trans (State.discards_dropGroups _ t n)).trans (State.discards_loseTeam _ t n)).trans
    (State.discards_afterLoss _ t n)

/-- A team that is discarded stands no more. -/
theorem State.discardTeam_gone (s : State) (t : Team) (n : Nat) : ∀ u ∈ (s.discardTeam t n).teams, u.id ≠ t.id := by
  intro u hu
  rw [s.discardTeam_eq] at hu
  have h := (State.discards_afterLoss _ t n).teams u hu
  exact of_decide_eq_true (List.mem_filter.mp h).2

theorem State.discards_endTeams (s : State) (d : Drain) (p : Nat → Bool) : s.Discards d.status (s.endTeams d p) :=
  .foldl (fun (s : State) (t : Team) => s.discards_discardTeam t d.status) _ s

/-- Of a drain's teams those alone stand that do not pass the test. -/
theorem State.endTeams_gone (s : State) (d : Drain) (p : Nat → Bool) :
    ∀ u ∈ (s.endTeams d p).teams, u.id ∈ d.teams → p u.id = false := by
  intro u hu hd
  by_contra hp
  have each := foldl_each (f := fun (s : State) t => s.discardTeam t d.status)
    (P := fun t (s : State) => ∀ u ∈ s.teams, u.id ≠ t.id) (fun s t => s.discardTeam_gone t d.status)
    (fun s t v h u hu => h u ((s.discards_discardTeam v d.status).teams u hu))
    (s.teams.filter (fun t => d.teams.contains t.id && p t.id)) s u
    (List.mem_filter.mpr ⟨(s.discards_endTeams d p).teams u hu, by simpa [hd] using hp⟩)
  exact each u hu rfl

/-- No group of a cleared team stands. -/
theorem State.clearTeam_gone (s : State) (t : Team) : ∀ g ∈ (s.clearTeam t).groups, g.team ≠ some t.id := by
  intro g hg ht
  obtain ⟨h, hh, h1, h2, h3⟩ := (s.discards_clearTeam t 0).groups g hg
  have each := foldl_each (f := fun (s : State) (g : Group) => (s.closeTxn g.core g.slot).dropGroup g.core g.slot)
    (P := fun h (s : State) => ∀ g ∈ s.groups, ¬(g.core = h.core ∧ g.slot = h.slot))
    (fun s h g hg ⟨hc, hs⟩ => by simpa [Group.at, hc, hs] using (List.mem_filter.mp hg).2)
    (fun s h k hs g hg => by
      obtain ⟨i, hi, -, i2, i3⟩ :=
        ((s.discards_closeTxn k.core k.slot 0).trans (State.discards_dropGroup _ k.core k.slot 0)).groups g hg
      rw [← i2, ← i3]
      exact hs i hi)
    (s.groupsOf t.id) s h (List.mem_filter.mpr ⟨hh, by simpa using h1.trans ht⟩)
  exact each g hg ⟨h2.symm, h3.symm⟩

end Sys2Proof.Machine

namespace Sys2Proof.Machine

/-! ## The wait-for table stands apart from the queues' ends -/

section
variable {s t : State} (h : s.Rewaited t)
include h

theorem State.Rewaited.keeps : s.Keeps t := by
  have boot := congrArg State.boot h.rest
  have drains := congrArg State.drains h.rest
  have groups := congrArg State.groups h.rest
  have jobs := congrArg State.jobs h.rest
  have teams := congrArg State.teams h.rest
  exact ⟨boot, drains, groups, jobs, congrArg _ teams⟩

theorem State.Rewaited.writes : t.writes = s.writes := by have e := congrArg State.writes h.rest; exact e
theorem State.Rewaited.packets : t.packets = s.packets := by have e := congrArg State.packets h.rest; exact e
theorem State.Rewaited.destroying : t.destroying = s.destroying := by have e := congrArg State.destroying h.rest; exact e
theorem State.Rewaited.mem : t.mem = s.mem := by have e := congrArg State.mem h.rest; exact e
theorem State.Rewaited.upartials : t.upartials = s.upartials := by have e := congrArg State.upartials h.rest; exact e

theorem State.Rewaited.winds (n : Nat) : s.Winds n t := by
  have launches := congrArg State.launches h.rest
  have unmapped := congrArg State.unmapped h.rest
  have wdogs := congrArg State.wdogs h.rest
  have aside : s.Winds n { t with rows := s.rows, events := s.events } :=
    .aside n launches h.packets unmapped rfl rfl wdogs h.destroying
  refine ⟨aside.launches, aside.packets, aside.unmapped, fun q => ?_, fun k d hr => ?_, aside.wdog,
    fun d hd => .inl (h.destroying ▸ hd)⟩
  · have hold := congrArg Row.hold (h.rows q)
    have qdesc := congrArg Row.qdesc (h.rows q)
    have valid := congrArg Row.valid (h.rows q)
    exact ⟨hold, qdesc, fun hv => valid ▸ hv⟩
  · obtain ⟨l, hl, -⟩ := h.events
    obtain ⟨e, he, hk⟩ := hr
    exact ⟨e, hl ▸ List.mem_append_left l he, hk⟩

theorem State.Rewaited.settled (hs : s.Settled) : t.Settled := by
  unfold State.Settled
  rw [h.destroying, h.packets]
  exact hs

theorem State.Rewaited.atHome {a : Nat} {b : Byte} (hs : s.AtHome a b) : t.AtHome a b := by
  unfold State.AtHome
  rw [h.mem, h.upartials]
  exact hs

theorem State.Rewaited.windowAwaited (d : Drain) (i : Nat) : t.windowAwaited d i = s.windowAwaited d i := by
  unfold State.windowAwaited
  rw [h.writes, h.keeps.jobs]

theorem State.Rewaited.drainReady (d : Drain) : t.drainReady d = s.drainReady d := by
  unfold State.drainReady
  rw [h.writes, h.keeps.jobs]

end

/-! ## Launches that are to complete with a STATUS -/

/-- Every launch in flight of a queue ends: it starts no further unit. -/
def State.Doomed (s : State) (a : Nat) : Prop :=
  ∀ l ∈ s.launches, (∃ p ∈ s.packets, p.launch = some l.id ∧ p.desc = a) → l.fate ≠ 0 ∧ l.fate ≠ 5

theorem Launch.ends_fate (l : Launch) (n : Nat) : (l.ends n).fate = if l.fate = 0 ∨ l.fate = 5 then n else l.fate := rfl

/-- A launch that has ended stays so. -/
theorem Launch.fate_of_ends {l m : Launch} {n : Nat} (hm : m.fate ≠ 0 ∧ m.fate ≠ 5)
    (hl : l.fate = m.fate ∨ l.fate = (m.ends n).fate) : l.fate ≠ 0 ∧ l.fate ≠ 5 := by
  rw [Launch.ends_fate, if_neg (by tauto), or_self] at hl
  rwa [hl]

section
variable {n : Nat} {s t : State} (h : s.Winds n t)
include h

theorem State.Winds.doomed {a : Nat} (hs : s.Doomed a) : t.Doomed a := by
  rintro l hl ⟨p, hp, hpl, hpa⟩
  obtain ⟨m, hm, hid, hf⟩ := h.launches l hl
  obtain ⟨q, hq, -, h2, -, h4⟩ := h.packets p hp
  exact Launch.fate_of_ends (hs m hm ⟨q, hq, by rw [h4, hpl, hid], h2.trans hpa⟩) hf

/-- A launch that has ended since has the STATUS of the end, or that of what ended it before. -/
theorem State.Winds.fates {a : Nat} (hd : t.Doomed a) : ∀ l ∈ t.launches,
    (∃ p ∈ t.packets, p.launch = some l.id ∧ p.desc = a) →
      ∃ m ∈ s.launches, m.id = l.id ∧ l.fate = (if m.fate = 0 ∨ m.fate = 5 then n else m.fate) := by
  intro l hl hp
  obtain ⟨m, hm, hid, hf | hf⟩ := h.launches l hl
  · obtain ⟨h0, h5⟩ := hd l hl hp
    refine ⟨m, hm, hid, ?_⟩
    rw [if_neg (by rw [← hf]; tauto), hf]
  · exact ⟨m, hm, hid, hf⟩

end

/-- Steps that each end one launch doom the queue whose launches they end. -/
theorem State.doomed_of_ends {n : Nat} {f : State → Launch → State}
    (winds : ∀ (s : State) l, s.Winds n (f s l))
    (ends : ∀ s (l : Launch), ∀ k ∈ (f s l).launches, k.id = l.id → k.fate ≠ 0 ∧ k.fate ≠ 5)
    (s : State) (a : Nat) (ls : List Launch) (hls : ∀ l ∈ s.launchesOf a, l ∈ ls) : (ls.foldl f s).Doomed a := by
  have w : s.Winds n (ls.foldl f s) := .foldl winds ls s
  rintro l hl ⟨p, hp, hpl, hpa⟩
  obtain ⟨m, hm, hid, -⟩ := w.launches l hl
  obtain ⟨q, hq, -, h2, -, h4⟩ := w.packets p hp
  have hin : m ∈ s.launchesOf a := List.mem_filter.mpr
    ⟨hm, List.any_eq_true.mpr ⟨q, hq, by simp [h4, hpl, hid, h2, hpa]⟩⟩
  have each := foldl_each (f := f) (P := fun l (s : State) => ∀ k ∈ s.launches, k.id = l.id → k.fate ≠ 0 ∧ k.fate ≠ 5)
    ends (fun s l b hs k hk hkl => by
      obtain ⟨m, hm, hid, hf⟩ := (winds s b).launches k hk
      exact Launch.fate_of_ends (hs m hm (hid.trans hkl)) hf) ls s m (hls m hin)
  exact each l hl hid.symm

theorem State.modLaunch_ends_fate (s : State) (id n : Nat) (hn : n ≠ 0 ∧ n ≠ 5) :
    ∀ k ∈ (s.modLaunch id (fun l => l.ends n)).launches, k.id = id → k.fate ≠ 0 ∧ k.fate ≠ 5 := by
  intro k hk hid
  obtain ⟨m, -, rfl⟩ := List.mem_map.mp hk
  by_cases hm : m.id = id
  · rw [if_pos hm, Launch.ends_fate]
    split
    · exact hn
    · tauto
  · rw [if_neg hm] at hid
    exact absurd hid hm

/-- The launches of one queue, and of all that a drain ends, are doomed (R358). -/
theorem State.discards_doom (s : State) (qs : List Nat) (n : Nat) : s.Discards n (s.doom qs n) :=
  .foldl (fun (s : State) (l : Launch) => (s.discards_dropSaved l.id n).trans (State.discards_ends _ l.id n)) _ s

theorem State.doom_doomed (s : State) (qs : List Nat) (n : Nat) (hn : n ≠ 0 ∧ n ≠ 5) (a : Nat) (ha : a ∈ qs) :
    (s.doom qs n).Doomed a :=
  State.doomed_of_ends (n := n)
    (fun s (l : Launch) => ((s.discards_dropSaved l.id n).trans (State.discards_ends _ l.id n)).winds)
    (fun s l => (s.dropSaved l.id).modLaunch_ends_fate l.id n hn) s a _
    (fun _ hl => List.mem_flatMap.mpr ⟨a, ha, hl⟩)

/-! ## Teams that wait for a drain -/

/-- No access goes, and no job but one that has stopped; the groups stand. -/
structure State.Calm (s t : State) : Prop where
  groups : t.groups = s.groups
  writes : t.writes = s.writes
  jobs : ∀ j ∈ s.jobs, j.stopped = false → j ∈ t.jobs

theorem State.Calm.refl (s : State) : s.Calm s := ⟨rfl, rfl, fun _ h _ => h⟩

theorem State.Calm.trans {s t u : State} (a : s.Calm t) (b : t.Calm u) : s.Calm u :=
  ⟨b.groups.trans a.groups, b.writes.trans a.writes, fun j hj hs => b.jobs j (a.jobs j hj hs) hs⟩

theorem State.Calm.windowAwaited {s t : State} (h : s.Calm t) (d : Drain) (i : Nat) (hw : s.windowAwaited d i = true) :
    t.windowAwaited d i = true := by
  unfold State.windowAwaited at hw ⊢
  rw [h.writes]
  rcases Bool.or_eq_true_iff.mp hw with hw | hw
  · rw [hw, Bool.true_or]
  · obtain ⟨j, hj, hc⟩ := List.any_eq_true.mp hw
    have hs : j.stopped = false := by
      simp only [Bool.and_eq_true, Bool.not_eq_true'] at hc
      exact hc.1.2
    rw [List.any_eq_true.mpr ⟨j, h.jobs j hj hs, hc⟩, Bool.or_true]

theorem State.Calm.drainReady {s t : State} (h : s.Calm t) (d : Drain) (hw : s.drainReady d = false) :
    t.drainReady d = false := by
  unfold State.drainReady at hw ⊢
  rw [h.writes]
  rcases Bool.and_eq_false_iff.mp hw with hw | hw
  · rw [hw, Bool.false_and]
  · obtain ⟨j, hj, hc⟩ := List.all_eq_false.mp hw
    have hs : j.stopped = false := by
      simp only [Bool.or_eq_true, not_or, Bool.not_eq_true] at hc
      exact hc.1
    rw [List.all_eq_false.mpr ⟨j, h.jobs j hj hs, hc⟩, Bool.and_false]

/-- A team whose groups have gone is discarded without an access or a job that still runs. -/
theorem State.calm_discardTeam (s : State) (t : Team) (n : Nat) (h : ∀ g ∈ s.groups, g.team ≠ some t.id) :
    s.Calm (s.discardTeam t n) := by
  have none : s.groupsOf t.id = [] := List.filter_eq_nil_iff.mpr (fun g hg => by simpa using h g hg)
  have clear : (s.clearTeam t).dropGroups t = s := by
    unfold State.clearTeam State.dropGroups
    rw [none, List.foldl_nil, none, List.foldl_nil]
  rw [s.discardTeam_eq, clear]
  unfold State.endGang State.endStop
  split <;> split <;> exact ⟨rfl, rfl, fun j hj hs => List.mem_filter.mpr ⟨hj, by simp [hs]⟩⟩

theorem State.calm_endTeams (s : State) (d : Drain) (p : Nat → Bool)
    (h : ∀ g ∈ s.groups, ∀ i ∈ d.teams, g.team ≠ some i) : s.Calm (s.endTeams d p) := by
  have fold : ∀ (l : List Team) (s : State), (∀ t ∈ l, ∀ g ∈ s.groups, g.team ≠ some t.id) →
      s.Calm (l.foldl (fun s t => s.discardTeam t d.status) s) := by
    intro l
    induction l with
    | nil => exact fun s _ => .refl s
    | cons t r ih =>
      intro s hs
      have calm := s.calm_discardTeam t d.status (hs t List.mem_cons_self)
      exact calm.trans (ih _ (fun u hu => calm.groups ▸ hs u (List.mem_cons_of_mem t hu)))
  refine fold _ s (fun t ht g hg => h g hg t.id ?_)
  have := (List.mem_filter.mp ht).2
  simp only [Bool.and_eq_true, List.contains_iff_mem] at this
  exact this.1

end Sys2Proof.Machine

namespace Sys2Proof.Machine

/-! ## The end of a drain (R358, R361) -/

theorem State.keeps_modLaunch (s : State) (id : Nat) (f : Launch → Launch) : s.Keeps (s.modLaunch id f) :=
  ⟨rfl, rfl, rfl, rfl, rfl⟩

theorem State.keeps_dropSaved (s : State) (launch : Nat) : s.Keeps (s.dropSaved launch) := by
  obtain ⟨snaps, hs⟩ := s.closeSaved_eq (s.savedTeams.filter (fun t => t.launch = launch))
  unfold State.dropSaved
  rw [hs]
  exact ⟨rfl, rfl, rfl, rfl, rfl⟩

/-- The launches of a queue end. -/
def State.endLaunches (s : State) (a n : Nat) : State :=
  (s.launchesOf a).foldl (fun s l => (s.dropSaved l.id).modLaunch l.id (fun l => l.ends n)) s

theorem State.keeps_endLaunches (s : State) (a n : Nat) : s.Keeps (s.endLaunches a n) :=
  .foldl (fun (s : State) (l : Launch) => (s.keeps_dropSaved l.id).trans (State.keeps_modLaunch _ _ _)) _ s

theorem State.winds_endLaunches (s : State) (a n : Nat) : s.Winds n (s.endLaunches a n) :=
  .foldl (fun (s : State) (l : Launch) => ((s.discards_dropSaved l.id n).trans (State.discards_ends _ l.id n)).winds) _ s

theorem State.endPackets_eq (s : State) (a n : Nat) :
    s.endPackets a n = ((s.endLaunches a n).endBarriers a n).settleLaunches := rfl

theorem State.keeps_endPackets (s : State) (a n : Nat) : s.Keeps (s.endPackets a n) := by
  rw [s.endPackets_eq]
  exact ((s.keeps_endLaunches a n).trans (State.keeps_endBarriers _ a n)).trans (State.keeps_settleLaunches _)

theorem State.winds_endPackets (s : State) (a n : Nat) : s.Winds n (s.endPackets a n) := by
  rw [s.endPackets_eq]
  exact ((s.winds_endLaunches a n).trans (State.winds_endBarriers _ a n n)).trans (State.winds_settleLaunches _ n)

theorem State.endPackets_noBarrier (s : State) (a n : Nat) : (s.endPackets a n).NoBarrier a := by
  rw [s.endPackets_eq]
  exact (State.winds_settleLaunches _ n).noBarrier (State.endBarriers_noBarrier _ a n)

/-- The queues of a drain end. -/
def State.endQueuesOf (s : State) (d : Drain) : State := d.queues.foldl (fun s a => s.endPackets a d.status) s

/-- The ready packets of a drain's queues are consumed. -/
def State.sweepQueuesOf (s : State) (d : Drain) : State :=
  d.queues.foldl (fun s a => s.sweep a d.status (2 ^ (s.qdescAt a).sizelog)) s

theorem State.keeps_endQueuesOf (s : State) (d : Drain) : s.Keeps (s.endQueuesOf d) :=
  .foldl (fun s a => s.keeps_endPackets a d.status) _ s

theorem State.winds_endQueuesOf (s : State) (d : Drain) : s.Winds d.status (s.endQueuesOf d) :=
  .foldl (fun s a => s.winds_endPackets a d.status) _ s

theorem State.keeps_sweepQueuesOf (s : State) (d : Drain) : s.Keeps (s.sweepQueuesOf d) :=
  .foldl (fun s a => State.keeps_sweep a d.status _ s) _ s

theorem State.winds_sweepQueuesOf (s : State) (d : Drain) : s.Winds d.status (s.sweepQueuesOf d) :=
  .foldl (fun s a => State.winds_sweep a d.status d.status _ s) _ s

theorem State.endQueuesOf_noBarrier (s : State) (d : Drain) : ∀ a ∈ d.queues, (s.endQueuesOf d).NoBarrier a :=
  foldl_each (f := fun (s : State) a => s.endPackets a d.status) (P := fun a (s : State) => s.NoBarrier a)
    (fun s a => s.endPackets_noBarrier a d.status) (fun s _ b h => (s.winds_endPackets b d.status).noBarrier h) d.queues s

theorem State.endQueuesOf_settled (s : State) (d : Drain) (h : d.queues ≠ []) : (s.endQueuesOf d).Settled := by
  unfold State.endQueuesOf
  rw [← List.dropLast_append_getLast h, List.foldl_append, List.foldl_cons, List.foldl_nil]
  exact State.settleLaunches_settled _

/-- A drain has ended: its teams and jobs are gone, its queues have no BARRIER, and the stop report of a partition stands
(R358, R361). -/
structure State.DrainFinished (s : State) (d : Drain) (t : State) : Prop where
  winds : s.Winds d.status t
  boot : t.boot = s.boot
  drains : t.drains = s.drains.filter (fun e => e ≠ d)
  came : ∀ u ∈ t.teams, ∃ v ∈ s.teams, v.bare = u.bare
  teams : ∀ u ∈ t.teams, u.id ∉ d.teams
  jobs : ∀ j ∈ t.jobs, j.id ∉ d.jobs
  barriers : ∀ a ∈ d.queues, t.NoBarrier a
  settled : d.report = none → d.queues ≠ [] → t.Settled
  raised : d.report.isSome = true → t.raised 3 d.desc
  report : ∀ a b, d.report = some (a, b) → s.backedRange a b.length = true → ∀ k, k < b.length → t.AtHome (a + k) (b.getD k 0)

/-- A drain is over, and the jobs that it has waited for are gone. -/
def State.closeDrain (s : State) (d : Drain) : State :=
  { s with drains := s.drains.filter (fun e => e ≠ d), jobs := s.jobs.filter (fun j => !d.jobs.contains j.id) }

/-- What is left of a drain when its teams are discarded. -/
def State.leaveTeams (s : State) (d : Drain) : State := (s.closeDrain d).endTeams d (fun _ => true)

theorem State.finishDrain_eq (s : State) (d : Drain) : s.finishDrain d = match d.report with
    | some (a, b) => ((((s.leaveTeams d).endQueuesOf d).sweepQueuesOf d).deviceWrite a b).pushEvent 3 false d.desc
    | none => ((s.leaveTeams d).sweepQueuesOf d).endQueuesOf d := rfl

theorem State.leaveTeams_spec (s : State) (d : Drain) : s.Winds d.status (s.leaveTeams d)
    ∧ (s.leaveTeams d).boot = s.boot ∧ (s.leaveTeams d).drains = s.drains.filter (fun e => e ≠ d)
    ∧ (∀ u ∈ (s.leaveTeams d).teams, u ∈ s.teams ∧ u.id ∉ d.teams) ∧ ∀ j ∈ (s.leaveTeams d).jobs, j.id ∉ d.jobs := by
  have h := (s.closeDrain d).discards_endTeams d (fun _ => true)
  have close : s.Winds d.status (s.closeDrain d) := .aside _
  refine ⟨close.trans h.winds, h.boot, h.drains, fun u hu => ⟨h.teams u hu, fun hd => ?_⟩, fun j hj => ?_⟩
  · have := State.endTeams_gone _ d _ u hu hd
    cases this
  · obtain ⟨k, hk, e⟩ := h.jobs j hj
    simpa [e] using (List.mem_filter.mp hk).2

theorem State.AtHome.pushEvent {s : State} {a : Nat} {b : Byte} (h : s.AtHome a b) (kind : Nat) (sf : Bool) (desc : Nat) :
    (s.pushEvent kind sf desc).AtHome a b := by
  have mem := congrArg State.mem (s.pushEvent_rest kind sf desc)
  have upartials := congrArg State.upartials (s.pushEvent_rest kind sf desc)
  exact ⟨mem ▸ h.1, upartials ▸ h.2⟩

/-- What follows the loss of the teams, and ends the queues, ends the drain. -/
theorem State.DrainFinished.of_keeps {s t : State} {d : Drain} (k : (s.leaveTeams d).Keeps t)
    (w : (s.leaveTeams d).Winds d.status t) (barriers : ∀ a ∈ d.queues, t.NoBarrier a)
    (settled : d.report = none → d.queues ≠ [] → t.Settled) (raised : d.report.isSome = true → t.raised 3 d.desc)
    (report : ∀ a b, d.report = some (a, b) → t.backedRange a b.length = true →
      ∀ k, k < b.length → t.AtHome (a + k) (b.getD k 0)) : s.DrainFinished d t := by
  obtain ⟨hw, hb, hd, ht, hj⟩ := s.leaveTeams_spec d
  refine ⟨hw.trans w, k.boot.trans hb, k.drains.trans hd, fun u hu => ?_, fun u hu => ?_, k.jobs ▸ hj, barriers, settled, raised,
    fun a b hr hbk => report a b hr ?_⟩
  · obtain ⟨v, hv, e⟩ := k.team u hu
    exact ⟨v, (ht v hv).1, e⟩
  · obtain ⟨v, hv, e⟩ := k.team u hu
    exact Team.id_of_bare e ▸ (ht v hv).2
  · have boot := k.boot.trans hb
    rwa [State.backedRange_congr boot]

theorem State.finishDrain_finished (s : State) (d : Drain) : s.DrainFinished d (s.finishDrain d) := by
  rw [s.finishDrain_eq]
  cases hr : d.report with
  | none =>
    have k := ((s.leaveTeams d).keeps_sweepQueuesOf d).trans (State.keeps_endQueuesOf _ d)
    have w := ((s.leaveTeams d).winds_sweepQueuesOf d).trans (State.winds_endQueuesOf _ d)
    exact .of_keeps k w (State.endQueuesOf_noBarrier _ d) (fun _ => State.endQueuesOf_settled _ d)
      (fun h => by rw [hr] at h; cases h) (fun a b h => by rw [hr] at h; cases h)
  | some r =>
    obtain ⟨a, b⟩ := r
    have k := ((s.leaveTeams d).keeps_endQueuesOf d).trans (State.keeps_sweepQueuesOf _ d)
    have w := ((s.leaveTeams d).winds_endQueuesOf d).trans (State.winds_sweepQueuesOf _ d)
    set u := ((s.leaveTeams d).endQueuesOf d).sweepQueuesOf d
    have access := u.served_deviceWrite a b
    refine .of_keeps ((k.trans access.keeps).trans (State.keeps_pushEvent _ 3 false d.desc))
      ((w.trans (access.winds _)).trans (State.winds_pushEvent _ 3 false d.desc _)) (fun c hc => ?_)
      (fun h => by rw [hr] at h; cases h) (fun _ => State.pushEvent_raised _ 3 false d.desc (by omega)) (fun a' b' h hb => ?_)
    · exact (((State.winds_sweepQueuesOf _ d).trans (access.winds _)).trans (State.winds_pushEvent _ 3 false d.desc _)).noBarrier
        (State.endQueuesOf_noBarrier _ d c hc)
    · obtain ⟨rfl, rfl⟩ : a = a' ∧ b = b' := by simpa [hr] using h
      have boot := (access.keeps.trans (State.keeps_pushEvent _ 3 false d.desc)).boot
      rw [State.backedRange_congr boot] at hb
      exact fun k hk => (u.deviceWrite_atHome a b k hk hb).pushEvent 3 false d.desc

end Sys2Proof.Machine

namespace Sys2Proof.Machine

/-! ## The beginning of a drain (R358, R361) -/

theorem State.DrainFinished.rewaited {s t u : State} {d : Drain} (h : s.DrainFinished d t) (r : t.Rewaited u) :
    s.DrainFinished d u := by
  refine ⟨h.winds.trans (r.winds _), r.keeps.boot.trans h.boot, r.keeps.drains.trans h.drains, fun x hx => ?_,
    fun x hx => ?_, r.keeps.jobs ▸ h.jobs, fun a ha => (r.winds d.status).noBarrier (h.barriers a ha), fun h0 hq => r.settled (h.settled h0 hq),
    fun hr => (r.winds d.status).raised _ _ (h.raised hr), fun a b hr hb k hk => r.atHome (h.report a b hr hb k hk)⟩
  · obtain ⟨v, hv, e⟩ := r.keeps.team x hx
    obtain ⟨w, hw, e'⟩ := h.came v hv
    exact ⟨w, hw, e'.trans e⟩
  · obtain ⟨v, hv, e⟩ := r.keeps.team x hx
    exact Team.id_of_bare e ▸ h.teams v hv

/-- A drain has begun for some teams: either it has ended at once, or it stands last among the drains, not ready, and with
the teams that it still awaits, whose groups have gone (R358, R361). -/
structure State.DrainBegun (s : State) (d : Drain) (ts : List Team) (t : State) : Prop where
  winds : s.Winds d.status t
  boot : t.boot = s.boot
  doomed : ∀ a ∈ d.queues, t.Doomed a
  came : ∀ u ∈ t.teams, ∃ v ∈ s.teams, v.bare = u.bare
  teams : ∀ u ∈ t.teams, u.id ∈ ts.map Team.id → (∀ g ∈ t.groups, g.team ≠ some u.id)
    ∧ ∃ e ∈ t.drains, e.desc = d.desc ∧ u.id ∈ e.teams ∧ t.windowAwaited e u.id = true
  drains : (t.drains = s.drains ∧ (∀ a ∈ d.queues, t.NoBarrier a) ∧ (d.report = none → d.queues ≠ [] → t.Settled)
      ∧ (d.report.isSome = true → t.raised 3 d.desc)
      ∧ ∀ a b, d.report = some (a, b) → s.backedRange a b.length = true → ∀ k, k < b.length → t.AtHome (a + k) (b.getD k 0))
    ∨ ∃ e, t.drains = s.drains ++ [e] ∧ e.desc = d.desc ∧ e.queues = d.queues ∧ e.status = d.status ∧ e.report = d.report
      ∧ t.drainReady e = false ∧ t.destroying = s.destroying

/-- The groups of some teams leave their cores. -/
def State.clearTeams (s : State) (ts : List Team) : State := ts.foldl State.clearTeam s

/-- The launches of some teams, and those of a drain's queues, end. -/
def State.endLaunchesOf (s : State) (d : Drain) (ts : List Team) : State :=
  ((ts.map Team.launch).foldl (fun s l => (s.dropSaved l).modLaunch l (fun l => l.ends d.status)) s).doom d.queues d.status

/-- Accesses of some teams await no acknowledgement any more, and some jobs no gate. -/
def State.letGo (s : State) (ts : List Team) (js : List Nat) : State :=
  { s with
    acks := s.acks.filter (fun a => !ts.any (fun u => a.team = some u.id))
    jobs := s.jobs.map (fun j => if js.contains j.id then { j with gate := false } else j) }

/-- A drain with what it waits for: accesses of some teams, and jobs. -/
def State.drainOf (s : State) (d : Drain) (ts : List Team) (js : List Job) : Drain :=
  { d with
    writes := (s.writes.filter (fun w => ts.any (fun u => w.team = some u.id))).map Write.id
    jobs := js.map Job.id, teams := ts.map Team.id }

/-- The state from which a drain waits or ends. -/
def State.standDown (s : State) (d : Drain) (ts : List Team) (js : List Job) : State :=
  ((s.clearTeams ts).endLaunchesOf d ts).letGo ts (js.map Job.id)

theorem State.beginDrain_eq (s : State) (d : Drain) (ts : List Team) (js : List Job) :
    s.beginDrain d ts js =
      let u := s.standDown d ts js
      let e := u.drainOf d ts js
      if u.drainReady e then u.finishDrain e
      else { u.endTeams e (fun t => !u.windowAwaited e t) with drains := u.drains ++ [e] } := rfl

theorem State.discards_letGo (s : State) (ts : List Team) (js : List Nat) (n : Nat) : s.Discards n (s.letGo ts js) := by
  refine ⟨.aside n, rfl, rfl, rfl, fun g h => ⟨g, h, rfl, rfl, rfl⟩, fun _ h => h, fun j hj => ?_,
    fun _ h => h⟩
  obtain ⟨k, hk, rfl⟩ := List.mem_map.mp hj
  refine ⟨k, hk, ?_⟩
  split <;> rfl

theorem State.discards_endLaunchesOf (s : State) (d : Drain) (ts : List Team) : s.Discards d.status (s.endLaunchesOf d ts) :=
  (State.Discards.foldl (fun (s : State) (l : Nat) =>
    (s.discards_dropSaved l d.status).trans (State.discards_ends _ l d.status)) _ s).trans (State.discards_doom _ _ _)

theorem State.discards_clearTeams (s : State) (ts : List Team) (n : Nat) : s.Discards n (s.clearTeams ts) :=
  .foldl (fun (s : State) t => s.discards_clearTeam t n) ts s

theorem State.clearTeams_gone (s : State) (ts : List Team) : ∀ t ∈ ts, ∀ g ∈ (s.clearTeams ts).groups, g.team ≠ some t.id :=
  foldl_each (P := fun (t : Team) (s : State) => ∀ g ∈ s.groups, g.team ≠ some t.id) State.clearTeam_gone
    (fun s t v h g hg => by
      obtain ⟨k, hk, e, -⟩ := (s.discards_clearTeam v 0).groups g hg
      exact e ▸ h k hk) ts s

theorem State.discards_standDown (s : State) (d : Drain) (ts : List Team) (js : List Job) :
    s.Discards d.status (s.standDown d ts js) :=
  ((s.discards_clearTeams ts _).trans (State.discards_endLaunchesOf _ d ts)).trans (State.discards_letGo _ ts _ _)

/-- No group of the teams that a drain takes is left. -/
theorem State.standDown_gone (s : State) (d : Drain) (ts : List Team) (js : List Job) :
    ∀ g ∈ (s.standDown d ts js).groups, ∀ i ∈ ts.map Team.id, g.team ≠ some i := by
  intro g hg i hi
  obtain ⟨t, ht, rfl⟩ := List.mem_map.mp hi
  obtain ⟨k, hk, e, -⟩ := ((State.discards_endLaunchesOf (s.clearTeams ts) d ts).trans
    (State.discards_letGo _ ts (js.map Job.id) _)).groups g hg
  exact e ▸ s.clearTeams_gone ts t ht k hk

theorem State.standDown_doomed (s : State) (d : Drain) (ts : List Team) (js : List Job) (hn : d.status ≠ 0 ∧ d.status ≠ 5) :
    ∀ a ∈ d.queues, (s.standDown d ts js).Doomed a := fun a ha =>
  (State.discards_letGo _ ts (js.map Job.id) d.status).winds.doomed (State.doom_doomed _ d.queues d.status hn a ha)

/-- A drain of another queue, or for other queues, is another drain. -/
theorem Drain.filter_ne {e : Drain} (ds : List Drain) (hd : ∀ f ∈ ds, f.desc = e.desc → f.queues ≠ e.queues) :
    ds.filter (fun f => f ≠ e) = ds := by
  refine List.filter_eq_self.mpr (fun f hf => decide_eq_true (fun h => ?_))
  have desc := congrArg Drain.desc h
  have queues := congrArg Drain.queues h
  exact hd f hf desc queues

/-- What ends at once. -/
theorem State.DrainBegun.of_finished {s t : State} {d : Drain} {ts : List Team} {js : List Job}
    (hn : d.status ≠ 0 ∧ d.status ≠ 5) (hd : ∀ e ∈ s.drains, e.desc = d.desc → e.queues ≠ d.queues)
    (h : (s.standDown d ts js).DrainFinished ((s.standDown d ts js).drainOf d ts js) t) : s.DrainBegun d ts t := by
  have u := s.discards_standDown d ts js
  refine ⟨u.winds.trans h.winds, h.boot.trans u.boot, fun a ha => h.winds.doomed (s.standDown_doomed d ts js hn a ha), fun x hx => ?_,
    fun x hx hin => absurd hin (h.teams x hx), .inl ⟨?_, h.barriers, h.settled, h.raised, fun a b hr hb => ?_⟩⟩
  · obtain ⟨v, hv, e⟩ := h.came x hx
    exact ⟨v, u.teams v hv, e⟩
  · rw [h.drains, u.drains]
    exact Drain.filter_ne _ hd
  · rw [← State.backedRange_congr u.boot] at hb
    exact h.report a b hr hb

/-- What has to wait. -/
theorem State.DrainBegun.of_waiting {s : State} {d : Drain} {ts : List Team} {js : List Job}
    (hn : d.status ≠ 0 ∧ d.status ≠ 5) {u : State} (hu : u = s.standDown d ts js) {e : Drain} (he : e = u.drainOf d ts js)
    (hr : u.drainReady e = false) :
    s.DrainBegun d ts { u.endTeams e (fun t => !u.windowAwaited e t) with drains := u.drains ++ [e] } := by
  have stand := s.discards_standDown d ts js
  have gone := s.standDown_gone d ts js
  have doomed := s.standDown_doomed d ts js hn
  rw [← hu] at stand gone doomed
  have teams : e.teams = ts.map Team.id := he ▸ rfl
  have status : e.status = d.status := he ▸ rfl
  have ends := u.discards_endTeams e (fun t => !u.windowAwaited e t)
  rw [status] at ends
  have calm : u.Calm (u.endTeams e (fun t => !u.windowAwaited e t)) := u.calm_endTeams e _ (teams ▸ gone)
  have join : (u.endTeams e (fun t => !u.windowAwaited e t)).Winds d.status
      { u.endTeams e (fun t => !u.windowAwaited e t) with drains := u.drains ++ [e] } := .aside _
  have all := ends.winds.trans join
  refine ⟨stand.winds.trans all, ends.boot.trans stand.boot, fun a ha => all.doomed (doomed a ha),
    fun x hx => ⟨x, stand.teams x (ends.teams x hx), rfl⟩,
    fun x hx hin => ⟨fun g hg => gone g (calm.groups ▸ hg) x.id hin,
      e, List.mem_append_right _ (List.mem_singleton.mpr rfl), by rw [he]; rfl, teams ▸ hin, ?_⟩,
    .inr ⟨e, congrArg (· ++ [e]) stand.drains, by rw [he]; rfl, by rw [he]; rfl, status, by rw [he]; rfl,
      calm.drainReady e hr, ends.destroying.trans stand.destroying⟩⟩
  have left := u.endTeams_gone e _ x hx (teams ▸ hin)
  exact calm.windowAwaited e x.id (by simpa using left)

theorem State.beginDrain_begun (s : State) (d : Drain) (ts : List Team) (js : List Job) (hn : d.status ≠ 0 ∧ d.status ≠ 5)
    (hd : ∀ e ∈ s.drains, e.desc = d.desc → e.queues ≠ d.queues) : s.DrainBegun d ts (s.beginDrain d ts js) := by
  rw [s.beginDrain_eq]
  dsimp only
  split
  · exact .of_finished hn hd (State.finishDrain_finished _ _)
  · rename_i hr
    exact .of_waiting hn rfl rfl ((Bool.not_eq_true _).mp hr)

/-- A drain that has nothing to wait for ends at once. -/
theorem State.beginDrain_nothing (s : State) (d : Drain) (ts : List Team)
    (hd : ∀ e ∈ s.drains, e.desc = d.desc → e.queues ≠ d.queues) (hw : s.writes = []) :
    (s.beginDrain d ts []).drains = s.drains := by
  have u := s.discards_standDown d ts []
  have writes : (s.standDown d ts []).writes = [] :=
    List.eq_nil_iff_forall_not_mem.mpr (fun w h => by simpa [hw] using u.writes w h)
  have ready : (s.standDown d ts []).drainReady ((s.standDown d ts []).drainOf d ts []) = true := by
    unfold State.drainReady State.drainOf
    rw [writes]
    simp
  rw [s.beginDrain_eq]
  dsimp only
  rw [if_pos ready, (State.finishDrain_finished _ _).drains, u.drains]
  exact Drain.filter_ne _ hd

theorem State.DrainBegun.rewaited {s t u : State} {d : Drain} {ts : List Team} (h : s.DrainBegun d ts t) (r : t.Rewaited u) :
    s.DrainBegun d ts u := by
  have w := r.winds d.status
  refine ⟨h.winds.trans w, r.keeps.boot.trans h.boot, fun a ha => w.doomed (h.doomed a ha), fun x hx => ?_, fun x hx hin => ?_, ?_⟩
  · obtain ⟨v, hv, e⟩ := r.keeps.team x hx
    obtain ⟨y, hy, e'⟩ := h.came v hv
    exact ⟨y, hy, e'.trans e⟩
  · obtain ⟨v, hv, e⟩ := r.keeps.team x hx
    have id : v.id = x.id := Team.id_of_bare e
    rw [← id] at hin ⊢
    rw [r.keeps.groups, r.keeps.drains]
    simp only [r.windowAwaited]
    exact h.teams v hv hin
  · rw [r.keeps.drains, r.destroying]
    simp only [r.drainReady]
    exact h.drains.imp
      (fun ⟨hd, hb, hs, hr, hh⟩ => ⟨hd, fun a ha => w.noBarrier (hb a ha), fun h0 hq => r.settled (hs h0 hq),
        fun h3 => w.raised _ _ (hr h3), fun a b h4 hk k hl => r.atHome (hh a b h4 hk k hl)⟩) id

end Sys2Proof.Machine

namespace Sys2Proof.Machine

/-! ## What begins a destroy or a drain -/

section
variable (s : State) (a : Nat)

theorem State.startDestroy_rest : { s.startDestroy a with destroying := s.destroying, rows := s.rows } = s := by
  unfold State.startDestroy
  dsimp only
  split <;> rfl

theorem State.startDestroy_mem : a ∈ (s.startDestroy a).destroying := by
  unfold State.startDestroy
  have h : a ∈ (if s.destroying.contains a then s.destroying else s.destroying ++ [a]) := by
    split
    · exact List.contains_iff_mem.mp ‹_›
    · exact List.mem_append_right _ (List.mem_singleton.mpr rfl)
  dsimp only
  split <;> exact h

theorem State.startDestroy_keeps_destroying {d : Nat} (h : d ∈ s.destroying) : d ∈ (s.startDestroy a).destroying := by
  unfold State.startDestroy
  have h : d ∈ (if s.destroying.contains a then s.destroying else s.destroying ++ [a]) := by
    split
    · exact h
    · exact List.mem_append_left _ h
  dsimp only
  split <;> exact h

theorem State.startDestroy_rowIs (q : Nat) (h : s.rowOf a = some q) :
    s.RowIs (s.startDestroy a) q { s.row q with prefetched := [] } := by
  have valid : (s.row q).valid = true := by
    unfold State.rowOf at h
    have h := List.find?_some h
    simp only [Bool.and_eq_true] at h
    exact h.1
  have hlen : q < s.rows.length := by
    by_contra hlen
    rw [State.row, List.getD_eq_default _ _ (by omega)] at valid
    cases valid
  have row : ∀ o, (s.startDestroy a).row o = if o = q ∧ o < s.rows.length then { s.row o with prefetched := [] } else s.row o := by
    intro o
    unfold State.startDestroy
    dsimp only
    split
    · rename_i r hr
      obtain rfl : r = q := Option.some.inj (hr.symm.trans h)
      exact upd_getD _ _ _ _ _
    · rename_i hr
      cases hr.symm.trans h
  refine ⟨?_, fun o ho => ?_⟩
  · rw [row, if_pos ⟨rfl, hlen⟩]
  · rw [row, if_neg (fun h => ho h.1)]

theorem State.startDestroy_row (q : Nat) : { (s.startDestroy a).row q with prefetched := (s.row q).prefetched } = s.row q := by
  cases h : s.rowOf a with
  | none =>
    unfold State.startDestroy
    dsimp only
    split
    · rename_i r hr
      cases hr.symm.trans h
    · rfl
  | some r =>
    obtain ⟨h1, h2⟩ := s.startDestroy_rowIs a r h
    by_cases hq : q = r
    · rw [hq, h1]
    · rw [h2 q hq]

theorem State.keeps_startDestroy : s.Keeps (s.startDestroy a) := by
  have boot := congrArg State.boot (s.startDestroy_rest a)
  have drains := congrArg State.drains (s.startDestroy_rest a)
  have groups := congrArg State.groups (s.startDestroy_rest a)
  have jobs := congrArg State.jobs (s.startDestroy_rest a)
  have teams := congrArg State.teams (s.startDestroy_rest a)
  exact ⟨boot, drains, groups, jobs, congrArg _ teams⟩

theorem State.winds_startDestroy (n : Nat) : s.Winds n (s.startDestroy a) := by
  have rest : s.Winds n { s.startDestroy a with destroying := s.destroying, rows := s.rows } := by
    rw [s.startDestroy_rest]
    exact .refl n s
  refine ⟨rest.launches, rest.packets, rest.unmapped, fun q => ?_, rest.raised, rest.wdog,
    fun d hd => .inl (s.startDestroy_keeps_destroying a hd)⟩
  have hold := congrArg Row.hold (s.startDestroy_row a q)
  have qdesc := congrArg Row.qdesc (s.startDestroy_row a q)
  have valid := congrArg Row.valid (s.startDestroy_row a q)
  exact ⟨hold, qdesc, fun hv => valid ▸ hv⟩

theorem State.startDestroy_writes : (s.startDestroy a).writes = s.writes := by
  have e := congrArg State.writes (s.startDestroy_rest a); exact e

theorem State.startDestroy_savedTeams : (s.startDestroy a).savedTeams = s.savedTeams := by
  have e := congrArg State.savedTeams (s.startDestroy_rest a); exact e

theorem State.startDestroy_launchesOf : (s.startDestroy a).launchesOf a = s.launchesOf a := by
  have e := congrArg (fun u : State => u.launchesOf a) (s.startDestroy_rest a); exact e

end

/-- Saved teams stand again with their teams and jobs; no queue, access or drain changes. -/
structure State.TakesBack (s t : State) : Prop where
  winds : ∀ n, s.Winds n t
  boot : t.boot = s.boot
  drains : t.drains = s.drains
  destroying : t.destroying = s.destroying
  writes : t.writes = s.writes
  jobs : s.jobs = [] → (∀ y ∈ s.savedTeams, y.jobs = []) → t.jobs = []

theorem State.takeSaved_takesBack (s : State) (p : SavedTeam → Bool) : s.TakesBack (s.takeSaved p) := by
  obtain ⟨snaps, hs⟩ := s.closeSaved_eq (s.savedTeams.filter p)
  unfold State.takeSaved
  dsimp only
  rw [hs]
  refine ⟨fun n => .aside n, rfl, rfl, rfl, rfl, fun hj hy => ?_⟩
  change s.jobs ++ (s.savedTeams.filter p).flatMap SavedTeam.jobs = []
  rw [hj, List.nil_append, List.flatMap_eq_nil_iff]
  exact fun y h => hy y (List.mem_of_mem_filter h)

/-- An idle queue is destroyed at once (R362). -/
theorem State.destroyIdle_spec (s : State) (a : Nat) : (s.destroyIdle a).raised 7 a
    ∧ (∀ y, y ∈ (s.destroyIdle a).unmapped ↔ y ∈ s.unmapped ∧ y.desc ≠ a)
    ∧ { s.destroyIdle a with events := s.events, unmapped := s.unmapped } = s := by
  have rest := State.pushEvent_rest { s with unmapped := s.unmapped.filter (fun u => u.desc ≠ a) } 7 false a
  refine ⟨State.pushEvent_raised _ 7 false a (by omega), fun y => ?_, ?_⟩
  · have e := congrArg State.unmapped rest
    change (s.destroyIdle a).unmapped = _ at e
    rw [e, List.mem_filter, decide_eq_true_iff]
  · have e := congrArg (fun u : State => { u with unmapped := s.unmapped }) rest
    exact e

/-! ## The stop report -/

theorem stopReport_length (row part teams pktidx desc time : Nat) : (stopReport row part teams pktidx desc time).length = 64 := by
  simp [stopReport, leBytes_length]

/-- A byte that stands at its home is what a unit reads there. -/
theorem State.AtHome.deviceNum {s : State} {a : Nat} {b : Byte} (h : s.AtHome a b) (hb : s.backed a = true) :
    s.deviceNum a 1 = b.toNat := by
  have backed : s.backedRange a 1 = true := by
    simp [State.backedRange, hb]
  have lines : linesAt a 1 = [a / 128] := by
    simp [linesAt]
  have view : sget (s.recall (a / 128)).mem a = b := h.view
  have read : (s.homeRead a 1).1 = [sget (s.recall (a / 128)).mem a] := by
    unfold State.homeRead
    rw [lines]
    exact State.bytes_mem _ 1 a
  unfold State.deviceNum
  rw [if_pos backed, read, view]
  simp [leNat]

end Sys2Proof.Machine

namespace Sys2Proof.Machine

/-! ## Destroys (R361, R362) -/

/-- The launches of a queue in flight have the STATUS `n`, but for those that something other than a fatal trap has ended
before (R362, log 48). -/
def State.FatesEnd (s : State) (a n : Nat) (t : State) : Prop :=
  ∀ l ∈ t.launches, (∃ p ∈ t.packets, p.launch = some l.id ∧ p.desc = a) →
    ∃ m ∈ s.launches, m.id = l.id ∧ l.fate = (if m.fate = 0 ∨ m.fate = 5 then n else m.fate)

/-- A team without groups waits for the drain of a queue (R358). -/
def State.Awaits (t : State) (a : Nat) (tm : Team) : Prop :=
  (∀ g ∈ t.groups, g.team ≠ some tm.id) ∧ ∃ e ∈ t.drains, e.desc = a ∧ tm.id ∈ e.teams ∧ t.windowAwaited e tm.id = true

/-- The launches of a queue end; their saved teams stay. -/
def State.endLaunchesAlone (s : State) (a n : Nat) : State :=
  (s.launchesOf a).foldl (fun s l => s.modLaunch l.id (fun l => l.ends n)) s

theorem State.keeps_endLaunchesAlone (s : State) (a n : Nat) : s.Keeps (s.endLaunchesAlone a n) :=
  .foldl (fun (s : State) (l : Launch) => s.keeps_modLaunch l.id _) _ s

theorem State.winds_endLaunchesAlone (s : State) (a n : Nat) : s.Winds n (s.endLaunchesAlone a n) :=
  .foldl (fun (s : State) (l : Launch) => (s.discards_ends l.id n).winds) _ s

theorem State.endLaunchesAlone_doomed (s : State) (a n : Nat) (hn : n ≠ 0 ∧ n ≠ 5) : (s.endLaunchesAlone a n).Doomed a :=
  State.doomed_of_ends (n := n) (fun (s : State) (l : Launch) => (s.discards_ends l.id n).winds)
    (fun s l => s.modLaunch_ends_fate l.id n hn) s a _ (fun _ hl => hl)

/-- What DESTROY does to a queue that is not idle, once its destroy is under way (R361). -/
def State.destroyNow (s : State) (a : Nat) : State :=
  ((((s.sweep a 2 (2 ^ (s.qdescAt a).sizelog)).endBarriers a 2).endLaunchesAlone a 2).settleLaunches).refreshWaits

/-- A drain of the queue begun before is what ends it (R362). -/
theorem State.startDestroy_draining (s : State) (a : Nat) : (s.startDestroy a).draining a = s.draining a := by
  have e := congrArg (fun u : State => u.draining a) (s.startDestroy_rest a)
  exact e

section
variable (s : State) (desc : Nat) (halted : s.halted = false)
include halted

theorem execDestroy_idle (idle : s.idleQueue (qctlDesc desc) = true) :
    execDestroy desc s = .next (s.destroyIdle (qctlDesc desc)) := by
  unfold execDestroy
  simp only [halted, idle, Bool.false_eq_true, if_false, if_true]

theorem execDestroyForce_idle (idle : s.idleQueue (qctlDesc desc) = true) :
    execDestroyForce desc s = .next (s.destroyIdle (qctlDesc desc)) := by
  unfold execDestroyForce
  simp only [halted, idle, Bool.false_eq_true, if_false, if_true]

theorem execFailbar_idle (idle : s.idleQueue (qctlDesc desc) = true) (free : s.draining (qctlDesc desc) = false) :
    execFailbar desc s = .next (s.destroyIdle (qctlDesc desc)) := by
  unfold execFailbar
  simp only [halted, idle, free, Bool.or_self, Bool.false_eq_true, if_false, if_true]

theorem execDestroy_draining (idle : s.idleQueue (qctlDesc desc) = false) (drain : s.draining (qctlDesc desc) = true) :
    execDestroy desc s = .next (s.startDestroy (qctlDesc desc)) := by
  unfold execDestroy
  simp only [halted, idle, s.startDestroy_draining, drain, Bool.false_eq_true, if_false, if_true]

theorem execDestroyForce_draining (idle : s.idleQueue (qctlDesc desc) = false) (drain : s.draining (qctlDesc desc) = true) :
    execDestroyForce desc s = .next (s.startDestroy (qctlDesc desc)) := by
  unfold execDestroyForce
  simp only [halted, idle, s.startDestroy_draining, drain, Bool.false_eq_true, if_false, if_true]

theorem execDestroy_busy (idle : s.idleQueue (qctlDesc desc) = false) (free : s.draining (qctlDesc desc) = false) :
    execDestroy desc s = .next ((s.startDestroy (qctlDesc desc)).destroyNow (qctlDesc desc)) := by
  unfold execDestroy
  simp only [halted, idle, s.startDestroy_draining, free, Bool.false_eq_true, if_false]
  rfl

end

/-- DESTROY of a queue that is not idle (R361). -/
theorem State.destroyNow_spec (s : State) (a : Nat) : s.Closed a ((s.startDestroy a).destroyNow a)
    ∧ s.FatesEnd a 2 ((s.startDestroy a).destroyNow a) ∧ ((s.startDestroy a).destroyNow a).NoBarrier a
    ∧ ((s.startDestroy a).destroyNow a).groups = s.groups := by
  set u := s.startDestroy a
  set swept := u.sweep a 2 (2 ^ (u.qdescAt a).sizelog)
  set cut := swept.endBarriers a 2
  set doomed := cut.endLaunchesAlone a 2
  have toCut : u.Winds 2 cut := (State.winds_sweep a 2 2 _ u).trans (swept.winds_endBarriers a 2 2)
  have table := doomed.settleLaunches.refreshWaits_rewaited
  have settled : doomed.Winds 2 (u.destroyNow a) := (doomed.winds_settleLaunches 2).trans (table.winds 2)
  have fromCut : cut.Winds 2 (u.destroyNow a) := (cut.winds_endLaunchesAlone a 2).trans settled
  have start := s.winds_startDestroy a 2
  have whole := toCut.trans fromCut
  refine ⟨start.closed whole (table.settled doomed.settleLaunches_settled) a (s.startDestroy_mem a),
    (start.trans whole).fates (settled.doomed (cut.endLaunchesAlone_doomed a 2 (by omega))),
    fromCut.noBarrier (swept.endBarriers_noBarrier a 2), ?_⟩
  have keeps := (((((s.keeps_startDestroy a).trans (State.keeps_sweep a 2 _ u)).trans (swept.keeps_endBarriers a 2)).trans
    (cut.keeps_endLaunchesAlone a 2)).trans doomed.keeps_settleLaunches).trans table.keeps
  exact keeps.groups

/-! ### DESTROY.FORCE -/

/-- The queue's saved teams stand again, and its launch save area is cleared. -/
def State.forceFrom (s : State) (a : Nat) : State :=
  let ids := ((s.startDestroy a).launchesOf a).map Launch.id
  let u := (s.startDestroy a).takeSaved (fun t => ids.contains t.launch)
  u.deviceWrite (u.qdescAt a).lsave (List.replicate 1024 0)

/-- The drain of a forced destroy. -/
def forceDrain (a : Nat) : Drain := { desc := a, queues := [a], status := 3 }

/-- The teams of the queue's launches. -/
def State.forceTeams (s : State) (a : Nat) : List Team :=
  let ids := ((s.startDestroy a).launchesOf a).map Launch.id
  (s.forceFrom a).teams.filter (fun t => ids.contains t.launch)

def State.forceJobs (s : State) (a : Nat) : List Job :=
  (s.forceFrom a).jobs.filter (fun j => ((s.forceTeams a).map Team.id).contains j.team)

theorem execDestroyForce_busy (s : State) (desc : Nat) (halted : s.halted = false)
    (idle : s.idleQueue (qctlDesc desc) = false) (free : s.draining (qctlDesc desc) = false) :
    execDestroyForce desc s = .next ((s.forceFrom (qctlDesc desc)).beginDrain (forceDrain (qctlDesc desc))
      (s.forceTeams (qctlDesc desc)) (s.forceJobs (qctlDesc desc))).refreshWaits := by
  unfold execDestroyForce
  simp only [halted, idle, s.startDestroy_draining, free, Bool.false_eq_true, if_false]
  unfold State.forceJobs State.forceTeams State.forceFrom
  dsimp only
  rw [(State.served_deviceWrite _ _ _).teams, (State.served_deviceWrite _ _ _).jobs]
  rfl

/-- What comes before the drain of a forced destroy begins no drain and ends no queue. -/
theorem State.forceFrom_takesBack (s : State) (a : Nat) : (s.startDestroy a).TakesBack (s.forceFrom a) := by
  have back := (s.startDestroy a).takeSaved_takesBack
    (fun t => (((s.startDestroy a).launchesOf a).map Launch.id).contains t.launch)
  unfold State.forceFrom
  dsimp only
  set u := (s.startDestroy a).takeSaved (fun t => (((s.startDestroy a).launchesOf a).map Launch.id).contains t.launch)
  have access := u.served_deviceWrite (u.qdescAt a).lsave (List.replicate 1024 0)
  exact ⟨fun n => (back.winds n).trans (access.winds n), access.boot.trans back.boot, access.drains.trans back.drains,
    access.destroying.trans back.destroying, access.writes.trans back.writes, fun hj hy => access.jobs.trans (back.jobs hj hy)⟩

/-- DESTROY.FORCE of a queue that is not idle (R361). -/
theorem State.destroyForce_spec (s : State) (a : Nat) (free : s.draining a = false) (t : State)
    (ht : t = ((s.forceFrom a).beginDrain (forceDrain a) (s.forceTeams a) (s.forceJobs a)).refreshWaits) :
    s.FatesEnd a 3 t
      ∧ (∀ tm ∈ t.teams, ∀ l ∈ s.launchesOf a, tm.launch = l.id → t.Awaits a tm)
      ∧ ((t.drains = s.drains ∧ s.Closed a t ∧ t.NoBarrier a)
        ∨ ∃ e, t.drains = s.drains ++ [e] ∧ e.desc = a ∧ e.queues = [a] ∧ e.status = 3 ∧ e.report = none
            ∧ t.drainReady e = false ∧ a ∈ t.destroying)
      ∧ (s.writes = [] → s.jobs = [] → (∀ y ∈ s.savedTeams, y.jobs = []) → t.drains = s.drains) := by
  have back := s.forceFrom_takesBack a
  have winds := back.winds 3
  have kept := s.keeps_startDestroy a
  have drains := back.drains.trans kept.drains
  have start := s.winds_startDestroy a 3
  have under := s.startDestroy_mem a
  have other : ∀ e ∈ (s.forceFrom a).drains, e.desc = (forceDrain a).desc → e.queues ≠ (forceDrain a).queues := by
    intro e he _ hq
    rw [drains] at he
    have := List.any_eq_false.mp free e he
    rw [hq] at this
    simp [forceDrain] at this
  have table := ((s.forceFrom a).beginDrain (forceDrain a) (s.forceTeams a) (s.forceJobs a)).refreshWaits_rewaited
  rw [← ht] at table
  have begun := ((s.forceFrom a).beginDrain_begun (forceDrain a) (s.forceTeams a) (s.forceJobs a)
    ⟨Nat.succ_ne_zero 2, fun h => by cases h⟩ other).rewaited table
  refine ⟨((start.trans winds).trans begun.winds).fates (begun.doomed a (List.mem_singleton.mpr rfl)), fun tm htm l hl htl => ?_,
    ?_, fun hw hj hs => ?_⟩
  · obtain ⟨v, hv, e⟩ := begun.came tm htm
    have id : v.id = tm.id := Team.id_of_bare e
    have launch : v.launch = tm.launch := Team.launch_of_bare e
    refine begun.teams tm htm (List.mem_map.mpr ⟨v, List.mem_filter.mpr ⟨hv, ?_⟩, id⟩)
    rw [s.startDestroy_launchesOf, launch, htl]
    simpa using ⟨l, hl, rfl⟩
  · rcases begun.drains with ⟨hd, hb, hs, -⟩ | ⟨e, hd, h1, h2, h3, h4, h5, h6⟩
    · exact .inl ⟨hd.trans drains, start.closed (winds.trans begun.winds) (hs rfl (List.cons_ne_nil a [])) a under,
        hb a (List.mem_singleton.mpr rfl)⟩
    · exact .inr ⟨e, drains ▸ hd, h1, h2, h3, h4, h5, by rw [h6, back.destroying]; exact under⟩
  · have none : s.forceJobs a = [] := by
      unfold State.forceJobs
      rw [back.jobs (kept.jobs.trans hj) (fun y hy => hs y (s.startDestroy_savedTeams a ▸ hy)), List.filter_nil]
    have writes := back.writes.trans ((s.startDestroy_writes a).trans hw)
    rw [table.keeps.drains, none, (s.forceFrom a).beginDrain_nothing _ _ other writes, drains]

end Sys2Proof.Machine

namespace Sys2Proof.Machine

/-! ## Watchdogs (R357, R358) -/

/-- The contexts of the queues of a queue's partition. -/
def State.partContexts (s : State) (a : Nat) : List Word :=
  (s.partQueues (s.qdescAt a).part).map (fun b => (s.readCtx (s.qdescAt b).ctxdesc).ctxid)

/-- The rows of a queue's partition are held. -/
def State.holdRows (s : State) (a : Nat) : State :=
  { s with rows := s.rows.map (fun (r : Row) => if (s.partQueues (s.qdescAt a).part).contains r.qdesc.toNat then
    { r with hold := r.hold || r.valid, prefetched := [] } else r) }

/-- The rows held, the watchdog restarted, and the partition's saved teams standing again. -/
def State.expireFrom (s : State) (a : Nat) : State :=
  ((s.holdRows a).setWdog a 0).takeSaved (fun t => (s.partContexts a).contains t.team.ctx.ctxid)

def State.expireTeams (s : State) (a : Nat) : List Team :=
  (s.expireFrom a).teams.filter (fun t => (s.partContexts a).contains t.ctx.ctxid)

def State.expireJobs (s : State) (a : Nat) : List Job :=
  (s.expireFrom a).jobs.filter (fun j => (s.partContexts a).contains j.ctx.ctxid)

/-- The stop report of a queue whose watchdog has run out. -/
def State.expireReport (s : State) (a : Nat) : List Byte :=
  stopReport (((s.expireFrom a).rowOf a).getD 0xFF) (s.qdescAt a).part
    (s.teams.filter (fun t => (s.partContexts a).contains t.ctx.ctxid)).length
    (match s.inFlight a with | p :: _ => p.idx.toNat | [] => (s.qdescAt a).rdidx) a (s.expireFrom a).time

/-- The drain of a partition. -/
def State.expireDrain (s : State) (a : Nat) : Drain :=
  { desc := a, queues := s.partQueues (s.qdescAt a).part, status := 4
    report := some ((s.qdescAt a).report, s.expireReport a) }

section
variable {s : State} {n a : Nat} (queue : s.wdogQueue n = some a)
include queue

theorem execWatchdogExpiry_rests (no : ∀ e ∈ s.drains, e.desc ≠ a)
    (rests : (s.qdescAt a).wdogus = 0 ∨ s.draining a = true ∨ s.wdog a < (s.qdescAt a).wdogus) :
    execWatchdogExpiry n s = .next s := by
  have none : s.drains.find? (fun e => e.desc = a) = none := List.find?_eq_none.mpr (by simpa using no)
  unfold execWatchdogExpiry
  simp only [queue, none]
  rw [if_pos (by simpa [or_assoc] using rests)]

theorem execWatchdogExpiry_expires (no : ∀ e ∈ s.drains, e.desc ≠ a) (on : (s.qdescAt a).wdogus ≠ 0)
    (free : s.draining a = false) (out : (s.qdescAt a).wdogus ≤ s.wdog a) : execWatchdogExpiry n s
      = .next ((s.expireFrom a).beginDrain (s.expireDrain a) (s.expireTeams a) (s.expireJobs a)).refreshWaits := by
  have none : s.drains.find? (fun e => e.desc = a) = none := List.find?_eq_none.mpr (by simpa using no)
  unfold execWatchdogExpiry
  simp only [queue, none]
  rw [if_neg (by simp [on, free, out])]
  rfl

theorem execWatchdogExpiry_drain {e : Drain} (drain : s.drains.find? (fun e => e.desc = a) = some e) :
    execWatchdogExpiry n s = .next (if s.drainReady e then (s.finishDrain e).refreshWaits else s) := by
  unfold execWatchdogExpiry
  simp only [queue, drain]

end

/-- The rows of a partition hold, and no other change reaches the queues. -/
theorem State.holdRows_row (s : State) (a o : Nat) (hv : (s.row o).valid = true)
    (hq : (s.row o).qdesc.toNat ∈ s.partQueues (s.qdescAt a).part) : ((s.holdRows a).row o).hold = true := by
  have row : (s.holdRows a).row o = if (s.partQueues (s.qdescAt a).part).contains (s.row o).qdesc.toNat then
      { s.row o with hold := (s.row o).hold || (s.row o).valid, prefetched := [] } else s.row o := by
    unfold State.holdRows State.row
    dsimp only
    rw [List.getD_eq_getElem?_getD, List.getD_eq_getElem?_getD, List.getElem?_map]
    cases s.rows[o]? with
    | none => exact (ite_self _).symm
    | some r => rfl
  rw [row, if_pos (List.contains_iff_mem.mpr hq), hv]
  exact Bool.or_true _

/-- A watchdog that has run out (R358). -/
theorem State.expire_spec (s : State) (a : Nat) (no : ∀ e ∈ s.drains, e.desc ≠ a) (t : State)
    (ht : t = ((s.expireFrom a).beginDrain (s.expireDrain a) (s.expireTeams a) (s.expireJobs a)).refreshWaits) :
    t.wdog a = 0
      ∧ (∀ o, (s.row o).valid = true → (s.row o).qdesc.toNat ∈ s.partQueues (s.qdescAt a).part → (t.row o).hold = true)
      ∧ (∀ tm ∈ t.teams, tm.ctx.ctxid ∈ s.partContexts a → t.Awaits a tm)
      ∧ ((t.drains = s.drains ∧ t.raised 3 a
          ∧ (s.backedRange (s.qdescAt a).report 64 = true → t.deviceNum (s.qdescAt a).report 1 = 9))
        ∨ ∃ e, t.drains = s.drains ++ [e] ∧ e.desc = a ∧ e.queues = s.partQueues (s.qdescAt a).part ∧ e.status = 4
            ∧ e.report.isSome = true ∧ t.drainReady e = false)
      ∧ (s.writes = [] → s.jobs = [] → (∀ y ∈ s.savedTeams, y.jobs = []) → t.drains = s.drains) := by
  have back := ((s.holdRows a).setWdog a 0).takeSaved_takesBack (fun t => (s.partContexts a).contains t.team.ctx.ctxid)
  change State.TakesBack _ (s.expireFrom a) at back
  have other : ∀ e ∈ (s.expireFrom a).drains, e.desc = (s.expireDrain a).desc → e.queues ≠ (s.expireDrain a).queues := by
    intro e he hd
    rw [back.drains] at he
    exact absurd hd (no e he)
  have table := ((s.expireFrom a).beginDrain (s.expireDrain a) (s.expireTeams a) (s.expireJobs a)).refreshWaits_rewaited
  rw [← ht] at table
  have begun := ((s.expireFrom a).beginDrain_begun (s.expireDrain a) (s.expireTeams a) (s.expireJobs a)
    ⟨Nat.succ_ne_zero 3, fun h => by cases h⟩ other).rewaited table
  have winds := (back.winds 4).trans begun.winds
  refine ⟨winds.wdog a (by rw [State.setWdog_zero, if_pos rfl]), fun o hv hq => ?_, fun tm htm hc => ?_, ?_, fun hw hj hs => ?_⟩
  · exact (winds.rows o).1.trans (s.holdRows_row a o hv hq)
  · obtain ⟨v, hv, e⟩ := begun.came tm htm
    have id : v.id = tm.id := Team.id_of_bare e
    have ctx : v.ctx = tm.ctx := Team.ctx_of_bare e
    refine begun.teams tm htm (List.mem_map.mpr ⟨v, List.mem_filter.mpr ⟨hv, ?_⟩, id⟩)
    rw [ctx]
    exact List.contains_iff_mem.mpr hc
  · rcases begun.drains with ⟨hd, -, -, hr, hh⟩ | ⟨e, hd, h1, h2, h3, h4, h5, -⟩
    · refine .inl ⟨hd.trans back.drains, hr rfl, fun hb => ?_⟩
      have length : (s.expireReport a).length = 64 := stopReport_length _ _ _ _ _ _
      have home := hh _ _ rfl (by rwa [length, State.backedRange_congr back.boot]) 0 (by omega)
      have backed : t.backed (s.qdescAt a).report = true := by
        rw [← State.backedRange_congr (s := s) (begun.boot.trans back.boot)] at hb
        exact (Bool.and_eq_true_iff.mp hb).1
      exact home.deviceNum backed
    · exact .inr ⟨e, hd.trans (congrArg (· ++ [e]) back.drains), h1, h2, h3, by rw [h4]; rfl, h5⟩
  · have none : s.expireJobs a = [] := by
      unfold State.expireJobs
      rw [back.jobs hj hs, List.filter_nil]
    rw [table.keeps.drains, none, (s.expireFrom a).beginDrain_nothing _ _ other (back.writes.trans hw), back.drains]
    rfl

/-- A drain that has waited ends (R358, R361). -/
theorem State.drainEnds_spec (s : State) (a : Nat) (e : Drain) (desc : e.desc = a) (t : State)
    (ht : t = (s.finishDrain e).refreshWaits) : (∀ f, f ∈ t.drains ↔ f ∈ s.drains ∧ f ≠ e)
      ∧ (∀ tm ∈ t.teams, tm.id ∉ e.teams) ∧ (∀ j ∈ t.jobs, j.id ∉ e.jobs)
      ∧ (e.report.isSome = true → t.raised 3 a)
      ∧ (∀ b ∈ e.queues, ∀ p ∈ t.packets, p.desc = b → p.typ ≠ 3)
      ∧ (e.report = none → e.queues ≠ [] → ∀ b ∈ s.destroying, (b ∈ t.destroying ↔ ∃ p ∈ t.packets, p.desc = b)) := by
  have h := (s.finishDrain_finished e).rewaited (s.finishDrain e).refreshWaits_rewaited
  rw [← ht] at h
  refine ⟨fun f => ?_, h.teams, h.jobs, fun hr => desc ▸ h.raised hr, h.barriers, fun hr hq b hb => ?_⟩
  · rw [h.drains, List.mem_filter, decide_eq_true_iff]
  · exact ((State.Winds.refl _ s).closed h.winds (h.settled hr hq) b hb).1

/-! ## The statement -/

/-- Settles O55: every end of a queue winds down what stood (`State.Winds`), a destroy is settled once no packet is in flight
(`State.Winds.closed`), and a drain either ends at once or waits with its teams bare of groups (`State.DrainBegun`). -/
theorem queuesEnd : Obligations.QueuesEnd := by
  refine ⟨fun s desc => ⟨?still, ?idle, fun halted idle free => ⟨?destroy, ?force, ?noBarrier, ?barrier⟩,
    fun halted drain => ⟨?failbar, ?draining⟩, ?settles⟩,
    fun s n => ⟨?noQueue, fun a queue => ⟨fun no => ⟨?rests, ?expires⟩, fun e drain => ⟨?waits, ?ends⟩⟩⟩⟩
  case still =>
    intro halted i hi
    simp only [List.mem_cons, List.not_mem_nil, or_false] at hi
    rcases hi with rfl | rfl | rfl
    · simp only [exec_destroy, execDestroy, halted, if_true]
    · simp only [exec_destroyForce, execDestroyForce, halted, if_true]
    · simp only [exec_failbar, execFailbar, halted, Bool.true_or, if_true]
  case idle =>
    intro halted idle i hi
    refine ⟨s.destroyIdle (qctlDesc desc), ?_, s.destroyIdle_spec _⟩
    rcases hi with rfl | rfl | ⟨rfl, free⟩
    · exact execDestroy_idle s desc halted idle
    · exact execDestroyForce_idle s desc halted idle
    · exact execFailbar_idle s desc halted idle free
  case destroy => exact ⟨_, execDestroy_busy s desc halted idle free, s.destroyNow_spec _⟩
  case force => exact ⟨_, execDestroyForce_busy s desc halted idle free, s.destroyForce_spec _ free _ rfl⟩
  case noBarrier =>
    intro none
    simp only [exec_failbar, execFailbar, halted, free, idle, none, Bool.or_self, Bool.false_eq_true, if_false]
  case barrier =>
    intro p hp
    refine ⟨_, ?_, State.refreshWaits_rewaited _⟩
    simp only [exec_failbar, execFailbar, halted, free, idle, hp, Bool.or_self, Bool.false_eq_true, if_false]
  case failbar => simp only [exec_failbar, execFailbar, drain, Bool.or_true, if_true]
  case draining =>
    intro idle i hi
    refine ⟨s.startDestroy (qctlDesc desc), ?_, s.startDestroy_mem _, s.startDestroy_rowIs _, s.startDestroy_rest _⟩
    simp only [List.mem_cons, List.not_mem_nil, or_false] at hi
    rcases hi with rfl | rfl
    · exact execDestroy_draining s desc halted idle drain
    · exact execDestroyForce_draining s desc halted idle drain
  case settles => exact (State.Winds.refl 0 s).closed (s.winds_settleLaunches 0) s.settleLaunches_settled _
  case noQueue =>
    intro none
    simp only [exec_watchdogExpiry, execWatchdogExpiry, none]
  case rests => exact execWatchdogExpiry_rests queue no
  case expires =>
    intro on free out
    obtain ⟨hw, hh, ht, hd, hn⟩ := s.expire_spec a no _ rfl
    exact ⟨_, execWatchdogExpiry_expires queue no on free out, hw, hh,
      fun tm htm b hb e => ht tm htm (List.mem_map.mpr ⟨b, hb, e.symm⟩), hd, hn⟩
  case waits =>
    intro waits
    exact (execWatchdogExpiry_drain queue drain).trans (by rw [waits]; rfl)
  case ends =>
    intro ready
    have desc := List.find?_some drain
    exact ⟨_, (execWatchdogExpiry_drain queue drain).trans (by rw [ready, if_pos rfl]),
      s.drainEnds_spec a e (of_decide_eq_true desc) _ rfl⟩

end Sys2Proof.Machine

namespace Sys2Proof

/-! ## Fields in the places of a word (R65) -/

/-- The bits of a word that hold the `n`-bit field at `lo`. -/
def fieldMask (lo n : Nat) : BitVec 32 := (BitVec.allOnes n).setWidth 32 <<< lo

theorem fieldMask_getElem (lo n i : Nat) (hi : i < 32) : (fieldMask lo n)[i] = decide (lo ≤ i ∧ i < lo + n) := by
  simp only [fieldMask, BitVec.getElem_shiftLeft, BitVec.getElem_setWidth, BitVec.getLsbD_allOnes]
  by_cases h : i < lo
  · simp [h]
  · have e : i - lo < n ↔ i < lo + n := by omega
    simp [h, e, Nat.le_of_not_lt h]

theorem place_getElem {n : Nat} (f : BitVec n) (lo i : Nat) (hi : i < 32) :
    (place f lo)[i] = (decide (lo ≤ i) && f.getLsbD (i - lo)) := by
  simp only [place, BitVec.getElem_shiftLeft, BitVec.getElem_setWidth]
  by_cases h : i < lo
  · simp [h]
  · simp [h, Nat.le_of_not_lt h]

/-- The field of a word, put in its place, is the word's bits there. -/
theorem place_extract (w : BitVec 32) (lo n : Nat) : place (w.extractLsb' lo n) lo = w &&& fieldMask lo n := by
  ext i hi
  rw [place_getElem _ _ _ hi, BitVec.getElem_and, fieldMask_getElem, BitVec.getLsbD_extractLsb']
  by_cases h : lo ≤ i
  · have e : i - lo < n ↔ i < lo + n := by omega
    simp [h, e, Nat.add_sub_cancel' h, BitVec.getLsbD_eq_getElem hi, Bool.and_comm]
  · simp [h]

/-- A mask that leaves out a field's bits clears the field. -/
theorem place_and_eq_zero {n : Nat} (f : BitVec n) (lo : Nat) (m : BitVec 32) (h : m &&& fieldMask lo n = 0#32) :
    place f lo &&& m = 0#32 := by
  ext i hi
  have hb : (m &&& fieldMask lo n)[i] = false := by simp [h]
  rw [BitVec.getElem_and, fieldMask_getElem] at hb
  rw [BitVec.getElem_and, place_getElem _ _ _ hi]
  by_cases hn : i - lo < n
  · by_cases hlo : lo ≤ i
    · have : m[i] = false := by simpa [hlo, show i < lo + n by omega] using hb
      simp [this]
    · simp [hlo]
  · simp [BitVec.getLsbD_of_ge f (i - lo) (by omega)]

/-- The mask of a field keeps it. -/
theorem place_and_self {n : Nat} (f : BitVec n) (lo : Nat) : place f lo &&& fieldMask lo n = place f lo := by
  ext i hi
  rw [BitVec.getElem_and, fieldMask_getElem, place_getElem _ _ _ hi]
  by_cases hn : i - lo < n
  · by_cases hlo : lo ≤ i
    · simp [hlo, show i < lo + n by omega]
    · simp [hlo]
  · simp [BitVec.getLsbD_of_ge f (i - lo) (by omega)]

theorem extract_of_and {n : Nat} {f : BitVec n} {w : BitVec 32} {lo : Nat} (hn : lo + n ≤ 32)
    (h : w &&& fieldMask lo n = place f lo) : w.extractLsb' lo n = f := by
  ext i hi
  have hb : (w &&& fieldMask lo n)[lo + i] = (place f lo)[lo + i] := by simp only [h]
  rw [BitVec.getElem_and, fieldMask_getElem, place_getElem _ _ _ (by omega)] at hb
  simpa [hi, BitVec.getLsbD_eq_getElem (show lo + i < 32 by omega), BitVec.getLsbD_eq_getElem hi] using hb

theorem or_and_right (a b m : BitVec 32) : (a ||| b) &&& m = a &&& m ||| b &&& m := by
  rw [BitVec.and_comm, BitVec.and_or_distrib_left, BitVec.and_comm m, BitVec.and_comm m]

/-- A field beside the fixed bits `c` under the mask `m`: the word has both just when it has each. -/
theorem and_or_fieldMask_iff {n : Nat} {f : BitVec n} {w m c : BitVec 32} {lo : Nat} (hn : lo + n ≤ 32)
    (hm : m &&& fieldMask lo n = 0#32) (hc : c &&& m = c) :
    w &&& (m ||| fieldMask lo n) = c ||| place f lo ↔ w &&& m = c ∧ w.extractLsb' lo n = f := by
  have hck : c &&& fieldMask lo n = 0#32 := by rw [← hc, BitVec.and_assoc, hm, BitVec.and_zero]
  constructor
  · intro h
    have hlow := congrArg (· &&& m) h
    have hfield := congrArg (· &&& fieldMask lo n) h
    have hmk : (m ||| fieldMask lo n) &&& m = m := by ext i hi; simp; tauto
    have hkk : (m ||| fieldMask lo n) &&& fieldMask lo n = fieldMask lo n := by ext i hi; simp; tauto
    simp only [BitVec.and_assoc, hmk, hkk, or_and_right, hc, hck, place_and_eq_zero f lo m hm, place_and_self,
      BitVec.or_zero, BitVec.zero_or] at hlow hfield
    exact ⟨hlow, extract_of_and hn hfield⟩
  · rintro ⟨rfl, rfl⟩
    rw [place_extract, BitVec.and_or_distrib_left]

/-- A field of an instruction word: where it stands and what it holds. -/
structure BitField where
  lo : Nat
  n : Nat
  val : BitVec n

/-- Fixed bits with fields in their places. -/
def withFields (c : BitVec 32) (fs : List BitField) : BitVec 32 := fs.foldl (fun w f => w ||| place f.val f.lo) c

/-- The fixed bits of `m` and the fields share no bit, and leave none out. -/
def fillsWord : BitVec 32 → List (Nat × Nat) → Bool
  | m, [] => m == BitVec.allOnes 32
  | m, (lo, n) :: r => decide (lo + n ≤ 32) && m &&& fieldMask lo n == 0#32 && fillsWord (m ||| fieldMask lo n) r

/-- A word is its fixed bits and its fields. -/
theorem withFields_iff {w : BitVec 32} : ∀ (fs : List BitField) (ls : List (Nat × Nat)) {m c : BitVec 32}, c &&& m = c →
    fillsWord m ls = true → fs.map (fun f => (f.lo, f.n)) = ls →
    (withFields c fs = w ↔ w &&& m = c ∧ ∀ f ∈ fs, w.extractLsb' f.lo f.n = f.val)
  | [], _, m, c, _, hm, rfl => by
    have hall : m = BitVec.allOnes 32 := by simpa [fillsWord] using hm
    rw [hall, BitVec.and_allOnes]
    simp [withFields, eq_comm]
  | f :: r, _, m, c, hc, hm, rfl => by
    simp only [List.map_cons, fillsWord, Bool.and_eq_true, decide_eq_true_eq, beq_iff_eq] at hm
    obtain ⟨⟨hn, hdis⟩, hrest⟩ := hm
    have hck : c &&& fieldMask f.lo f.n = 0#32 := by rw [← hc, BitVec.and_assoc, hdis, BitVec.and_zero]
    have hkept : (c ||| place f.val f.lo) &&& (m ||| fieldMask f.lo f.n) = c ||| place f.val f.lo := by
      simp only [or_and_right, BitVec.and_or_distrib_left, hc, hck, place_and_self, place_and_eq_zero _ _ _ hdis,
        BitVec.or_zero, BitVec.zero_or]
    have ih := withFields_iff (w := w) r _ hkept hrest rfl
    rw [and_or_fieldMask_iff hn hdis hc] at ih
    rw [show withFields c (f :: r) = withFields (c ||| place f.val f.lo) r from rfl, ih, List.forall_mem_cons, and_assoc]

section
variable {w c : BitVec 32}

/-! The forms of a base word, named by their fields: it stands for its fields just when its fixed bits and its fields are the
word's (R65, R86 to R91). -/

theorem word_ngo_iff (hc : c &&& 0xFC000000 = c) {n : BitVec 1} {g : BitVec 3} {o : BitVec 22} :
    c ||| place n 25 ||| place g 22 ||| place o 0 = w ↔
      w &&& 0xFC000000 = c ∧ w.extractLsb' 25 1 = n ∧ w.extractLsb' 22 3 = g ∧ w.extractLsb' 0 22 = o := by
  simpa [withFields] using withFields_iff [⟨25, 1, n⟩, ⟨22, 3, g⟩, ⟨0, 22, o⟩] [(25, 1), (22, 3), (0, 22)]
    hc (by decide) rfl

theorem word_dai_iff (hc : c &&& 0xFC000000 = c) {d a : BitVec 7} {i : BitVec 12} :
    c ||| place d 19 ||| place a 12 ||| place i 0 = w ↔
      w &&& 0xFC000000 = c ∧ w.extractLsb' 19 7 = d ∧ w.extractLsb' 12 7 = a ∧ w.extractLsb' 0 12 = i := by
  simpa [withFields] using withFields_iff [⟨19, 7, d⟩, ⟨12, 7, a⟩, ⟨0, 12, i⟩] [(19, 7), (12, 7), (0, 12)]
    hc (by decide) rfl

theorem word_a_iff (hc : c &&& 0xFFF80FFF = c) {a : BitVec 7} :
    c ||| place a 12 = w ↔ w &&& 0xFFF80FFF = c ∧ w.extractLsb' 12 7 = a := by
  simpa [withFields] using withFields_iff [⟨12, 7, a⟩] [(12, 7)] hc (by decide) rfl

theorem word_d_iff (hc : c &&& 0xFC07FFFF = c) {d : BitVec 7} :
    c ||| place d 19 = w ↔ w &&& 0xFC07FFFF = c ∧ w.extractLsb' 19 7 = d := by
  simpa [withFields] using withFields_iff [⟨19, 7, d⟩] [(19, 7)] hc (by decide) rfl

theorem word_i_iff (hc : c &&& 0xFFFFF000 = c) {i : BitVec 12} :
    c ||| place i 0 = w ↔ w &&& 0xFFFFF000 = c ∧ w.extractLsb' 0 12 = i := by
  simpa [withFields] using withFields_iff [⟨0, 12, i⟩] [(0, 12)] hc (by decide) rfl

theorem word_dab_iff (hc : c &&& 0xFC00001F = c) {d a b : BitVec 7} :
    c ||| place d 19 ||| place a 12 ||| place b 5 = w ↔
      w &&& 0xFC00001F = c ∧ w.extractLsb' 19 7 = d ∧ w.extractLsb' 12 7 = a ∧ w.extractLsb' 5 7 = b := by
  simpa [withFields] using
    withFields_iff [⟨19, 7, d⟩, ⟨12, 7, a⟩, ⟨5, 7, b⟩] [(19, 7), (12, 7), (5, 7)] hc (by decide) rfl

theorem word_da_iff (hc : c &&& 0xFC000FFF = c) {d a : BitVec 7} :
    c ||| place d 19 ||| place a 12 = w ↔ w &&& 0xFC000FFF = c ∧ w.extractLsb' 19 7 = d ∧ w.extractLsb' 12 7 = a := by
  simpa [withFields] using withFields_iff [⟨19, 7, d⟩, ⟨12, 7, a⟩] [(19, 7), (12, 7)] hc (by decide) rfl

theorem word_di_iff (hc : c &&& 0xFC07F000 = c) {d : BitVec 7} {i : BitVec 12} :
    c ||| place d 19 ||| place i 0 = w ↔ w &&& 0xFC07F000 = c ∧ w.extractLsb' 19 7 = d ∧ w.extractLsb' 0 12 = i := by
  simpa [withFields] using withFields_iff [⟨19, 7, d⟩, ⟨0, 12, i⟩] [(19, 7), (0, 12)] hc (by decide) rfl

theorem word_ai_iff (hc : c &&& 0xFFF80000 = c) {a : BitVec 7} {i : BitVec 12} :
    c ||| place a 12 ||| place i 0 = w ↔ w &&& 0xFFF80000 = c ∧ w.extractLsb' 12 7 = a ∧ w.extractLsb' 0 12 = i := by
  simpa [withFields] using withFields_iff [⟨12, 7, a⟩, ⟨0, 12, i⟩] [(12, 7), (0, 12)] hc (by decide) rfl

theorem word_dast_iff (hc : c &&& 0xFC000C00 = c) {d a : BitVec 7} {s t : BitVec 5} :
    c ||| place d 19 ||| place a 12 ||| place s 5 ||| place t 0 = w ↔
      w &&& 0xFC000C00 = c ∧ w.extractLsb' 19 7 = d ∧ w.extractLsb' 12 7 = a
        ∧ w.extractLsb' 5 5 = s ∧ w.extractLsb' 0 5 = t := by
  simpa [withFields] using
    withFields_iff [⟨19, 7, d⟩, ⟨12, 7, a⟩, ⟨5, 5, s⟩, ⟨0, 5, t⟩] [(19, 7), (12, 7), (5, 5), (0, 5)]
      hc (by decide) rfl

theorem word_m_iff (hc : c &&& 0xFFFFFC1F = c) {m : BitVec 5} :
    c ||| place m 5 = w ↔ w &&& 0xFFFFFC1F = c ∧ w.extractLsb' 5 5 = m := by
  simpa [withFields] using withFields_iff [⟨5, 5, m⟩] [(5, 5)] hc (by decide) rfl

theorem word_ab_iff (hc : c &&& 0xFFF8001F = c) {a b : BitVec 7} :
    c ||| place a 12 ||| place b 5 = w ↔ w &&& 0xFFF8001F = c ∧ w.extractLsb' 12 7 = a ∧ w.extractLsb' 5 7 = b := by
  simpa [withFields] using withFields_iff [⟨12, 7, a⟩, ⟨5, 7, b⟩] [(12, 7), (5, 7)] hc (by decide) rfl

theorem word_s_iff (hc : c &&& 0xFFFFFF1F = c) {s : BitVec 3} :
    c ||| place s 5 = w ↔ w &&& 0xFFFFFF1F = c ∧ w.extractLsb' 5 3 = s := by
  simpa [withFields] using withFields_iff [⟨5, 3, s⟩] [(5, 3)] hc (by decide) rfl

theorem word_n_iff (hc : c &&& 0xFFFFF01F = c) {n : BitVec 7} :
    c ||| place n 5 = w ↔ w &&& 0xFFFFF01F = c ∧ w.extractLsb' 5 7 = n := by
  simpa [withFields] using withFields_iff [⟨5, 7, n⟩] [(5, 7)] hc (by decide) rfl

end

end Sys2Proof

namespace Sys2Proof

/-! ## Base words (R65, R86 to R92) -/

/-- A row of the opcode map is passed over by a word of another row (R86). -/
theorem ite_of_other_row {α : Type} {w m v m' v' : BitVec 32} (h : w &&& m = v) (hne : v &&& m' ≠ v' &&& m) (a b : α) :
    (if w &&& m' = v' then a else b) = b := by
  refine if_neg fun h' => hne ?_
  rw [← h, ← h', BitVec.and_assoc, BitVec.and_assoc, BitVec.and_comm m]

/-- The fixed bits of a row give its MAJ. -/
theorem major_of_mask {w m v : BitVec 32} (h : w &&& m = v) (hm : m &&& fieldMask 26 6 = fieldMask 26 6) :
    w.extractLsb' 26 6 = v.extractLsb' 26 6 := by
  rw [← h]
  ext i hi
  have hb : (m &&& fieldMask 26 6)[26 + i] = (fieldMask 26 6)[26 + i] := by rw [hm]
  simp only [BitVec.getElem_and, fieldMask_getElem, Nat.le_add_right, true_and, show 26 + i < 26 + 6 by omega, decide_true,
    Bool.and_true] at hb
  simp [BitVec.getLsbD_eq_getElem (show 26 + i < 32 by omega), hb]

/-- MAJ gives the fixed bits of a row that has no others. -/
theorem and_of_major {w : BitVec 32} {k : Nat} (h : (w.extractLsb' 26 6).toNat = k) :
    w &&& 0xFC000000 = place (BitVec.ofNat 6 k) 26 := by
  rw [← h, BitVec.ofNat_toNat, BitVec.setWidth_eq, place_extract]; rfl

/-- The instruction has this base word and these extension words. -/
def Stands (x : Exts) (w : BitVec 32) (i : Instr) : Prop := baseWord i = some w ∧ extsOf i = x

theorem stands_none {x : Exts} {w : BitVec 32} {i : Instr} (h : none = some i) : Stands x w i := nomatch h

theorem stands_of_row {w m v : BitVec 32} {x : Exts} {i j : Instr} {o : Option Instr} (hrest : o = some i → Stands x w i)
    (hx : extsOf j = x) (hrow : w &&& m = v → baseWord j = some w) (h : (if w &&& m = v then some j else o) = some i) :
    Stands x w i := by
  split_ifs at h with hm
  · obtain rfl := Option.some.inj h
    exact ⟨hrow hm, hx⟩
  · exact hrest h

theorem stands_of_major {w : BitVec 32} {k : Nat} {x : Exts} {i j : Instr} (h : (w.extractLsb' 26 6).toNat = k)
    (hx : extsOf j = x) (hrow : w &&& 0xFC000000 = place (BitVec.ofNat 6 k) 26 → baseWord j = some w)
    (hi : some j = some i) : Stands x w i := by
  obtain rfl := Option.some.inj hi
  exact ⟨hrow (and_of_major h), hx⟩

/-- What a base word is read as stands for that word: row by row of each MAJ, the row's fixed bits and the fields read from
the word make it up. -/
theorem stands_of_decodeBase {x : Exts} {i : Instr} {w : BitVec 32} : decodeBase x w = some i → Stands x w i := by
  unfold decodeBase
  split
  case' h_33 => exact stands_none
  case h_1 h | h_2 h =>
    exact stands_of_major h rfl fun hm => congrArg some ((word_ngo_iff (by decide)).mpr ⟨hm, rfl, rfl, rfl⟩)
  case h_3 h | h_4 h | h_21 h | h_22 h =>
    exact stands_of_major h rfl fun hm => congrArg some ((word_dai_iff (by decide)).mpr ⟨hm, rfl, rfl, rfl⟩)
  all_goals
    repeat' refine stands_of_row ?_ rfl fun hm => ?_
    exact stands_none
  all_goals
    simp (disch := decide) only [baseWord, Option.some.injEq, word_a_iff, word_d_iff, word_i_iff, word_dab_iff,
      word_da_iff, word_di_iff, word_ai_iff, word_dast_iff, word_m_iff, word_ab_iff, word_s_iff, word_n_iff, hm, and_self]
  all_goals exact hm.symm.trans BitVec.and_allOnes

/-- The base word of an instruction is read as that instruction: its own row takes it, and no row before it does. -/
theorem decodeBase_of_baseWord {i : Instr} {w : BitVec 32} (h : baseWord i = some w) :
    decodeBase (extsOf i) w = some i := by
  cases i
  case joinRelease | mwaitWake | engineGrant | matrixOpComplete | jobStart | copyDelivery | jobComplete | jobFault
    | claspTimeout | claimGrant | claimdl | regroupExecute | issueOpportunity | loadReturn | homeApplyWrite | writeAck
    | pageWalkComplete | versionReclaim | heldWriteRelease | preemptStop | preemptDrainDone | saveComplete | queueWake
    | unmappedWake | packetLaunch | packetPool | packetBarrier | packetNop | badpkt | barrierComplete | dispatchStep
    | teamRetire | poolRecordTake | binTimedFlush | rampTick | launchSaveWrite | watchdogExpiry | remoteGiveUp
    | checkpointBlock | checkpointEnd | evidenceSigned | powerCapApply | fullConditionClear | onCoreError
    | lanectlComplete | lanectlRetry | lanectlKill | lanectlSetpc | jobctlResume | jobctlFail | savectlSave
    | savectlRestore | savectlDiscard | sqpop | invcmd | artCommit | artClear | inbCommit | inbClear | registerWrite
    | rowCommit | rowUnmap | holdClear | holdSet | preemptSet | preemptClear | evpop | destroy | destroyForce
    | failbar | deviceReset | thermalStop | hotReset | linkDown | linkUp | functionLevelReset | driverStatusChange
    | virtioRequest | hostev | inboundAccess | ckcmd | areq | mrExtend | pcap | contextEnd | weaberLinkDown
    | weaberLinkUp | powerLoss | dynamicAddress =>
    exact absurd h.symm (Option.some_ne_none w)
  case bra | call =>
    obtain ⟨hm, rfl, rfl, rfl⟩ := (word_ngo_iff (by decide)).mp (Option.some.inj h)
    rw [decodeBase, major_of_mask hm (by decide)]; rfl
  case loop | loopi | ld | st =>
    obtain ⟨hm, rfl, rfl, rfl⟩ := (word_dai_iff (by decide)).mp (Option.some.inj h)
    rw [decodeBase, major_of_mask hm (by decide)]; rfl
  case' bri | calli | cjoin | icinv | dcflush | dcinv | pref | snrel | mburst | arrive =>
    obtain ⟨hm, rfl⟩ := (word_a_iff (by decide)).mp (Option.some.inj h)
  case ret | exit | yield | nop | fenceEngine | fenceCode | txa | eret => cases h; rfl
  case' cmark | flgr | snap | txb | txc | mzero =>
    obtain ⟨hm, rfl⟩ := (word_d_iff (by decide)).mp (Option.some.inj h)
  case' wbase =>
    obtain ⟨hm, rfl⟩ := (word_i_iff (by decide)).mp (Option.some.inj h)
  case' sadd | ssub | smul | smad | sand | sor | sxor | sshl | sshr | ssra | smin | smax | scmp | iadd | iaddc | isub
    | imul | imulh | imad | imadw | iand | ior | ixor | ishl | ishr | isra | imin | imax | icmp | isel | bfx | bfi
    | lea | pand | por | pxor | fadd | fsub | fmul | ffma | fmin | fmax | fcmp | faddX | fsubX | fmulX | dwadd | dwsub
    | dwmul | faddF64 | fsubF64 | fmulF64 | ffmaF64 | fminF64 | fmaxF64 | fcmpF64 | faddXF64 | fsubXF64 | fmulXF64
    | dwaddF64 | dwsubF64 | dwmulF64 | fdiv | fdivF64 | atomAdd | atomMin | atomMax | atomAnd | atomOr | atomXor
    | atomXchg | atomCas | atomInc | atomDec | atomXchgT | hprobe | mma | mdrain =>
    obtain ⟨hm, rfl, rfl, rfl⟩ := (word_dab_iff (by decide)).mp (Option.some.inj h)
  case' smov | inot | iabs | popc | clz | brev | pnot | pmov | voteP | voteS | matchV | matchS | redIV | redIS
    | scanIV | scanIS | fclass | frnd | dwnorm | fclassF64 | frndF64 | dwnormF64 | fsqrt | frcp | frsq | fex2 | flg2
    | fsin | fcos | fsqrtF64 | frcpF64 | frsqF64 | redFV | redFS | redFcV | redFcS | scanF | redFF64V | redFF64S
    | redFcF64 | scanFF64 | qset | nset | mld | mst | mmap | tld | tmovTv | tmovVt | wait | arwait | cltest | mbxrd =>
    obtain ⟨hm, rfl, rfl⟩ := (word_da_iff (by decide)).mp (Option.some.inj h)
  case' smovi | sread | capr =>
    obtain ⟨hm, rfl, rfl⟩ := (word_di_iff (by decide)).mp (Option.some.inj h)
  case' swrite =>
    obtain ⟨hm, rfl, rfl⟩ := (word_ai_iff (by decide)).mp (Option.some.inj h)
  case' cvt =>
    obtain ⟨hm, rfl, rfl, rfl, rfl⟩ := (word_dast_iff (by decide)).mp (Option.some.inj h)
  case' flgc =>
    obtain ⟨hm, rfl⟩ := (word_m_iff (by decide)).mp (Option.some.inj h)
  case' redMAdd | redMMin | redMMax | redMAnd | redMOr | redMXor | mwait | copy | copyMc | gather | coll | media
    | expect | regroup | sysc | laneres | tlbinv =>
    obtain ⟨hm, rfl, rfl⟩ := (word_ab_iff (by decide)).mp (Option.some.inj h)
  case' fenceAcq | fenceRel | fenceSc =>
    obtain ⟨hm, rfl⟩ := (word_s_iff (by decide)).mp (Option.some.inj h)
  case' rclaim | rrel | trap | bkpt =>
    obtain ⟨hm, rfl⟩ := (word_n_iff (by decide)).mp (Option.some.inj h)
  all_goals
    rw [decodeBase, major_of_mask hm (by decide)]
    change ite _ _ _ = _
    simp (disch := decide) only [extsOf, ↓ite_of_other_row hm, ↓if_pos hm]

/-- A word that is read as a base word is no extension word (R69). -/
theorem isExt_of_decodeBase {w : BitVec 32} {i : Instr} {x : Exts} (h : decodeBase x w = some i) : isExt w = false := by
  by_contra hx
  have hmaj : w.extractLsb' 26 6 = 0x3E#6 := by simpa [isExt] using hx
  rw [decodeBase, hmaj] at h
  exact absurd h.symm (Option.some_ne_none i)

/-- What decoding a base word after its extension words answers (R66, R92). -/
theorem decodeWith_eq_ok_iff {x : Exts} {w : BitVec 32} {i : Instr} :
    decodeWith x w = .ok i ↔ i.WellFormed ∧ baseWord i = some w ∧ extsOf i = x := by
  constructor
  · intro h
    unfold decodeWith at h
    split at h
    · cases h
    · next j hj =>
      split_ifs at h with he
      obtain rfl := Except.ok.inj h
      exact ⟨he, stands_of_decodeBase hj⟩
  · rintro ⟨hwf, hw, rfl⟩
    rw [decodeWith, decodeBase_of_baseWord hw]
    exact if_pos hwf

end Sys2Proof

namespace Sys2Proof

/-! ## Extension words and whole instructions (R64, R69, R70) -/

/-! An extension word of each type stands for its fields just when they are the word's and its reserved field is zero. -/

theorem word_operand_iff {w : BitVec 32} {c : BitVec 7} {g : BitVec 4} {s : BitVec 3} {f : BitVec 10} :
    encodeExt (.operand c g s f) = w ↔ isExt w = true ∧ w.extractLsb' 24 2 = 0#2 ∧ w.extractLsb' 17 7 = c
      ∧ w.extractLsb' 13 4 = g ∧ w.extractLsb' 10 3 = s ∧ w.extractLsb' 0 10 = f := by
  simpa [withFields, isExt, encodeExt, place] using withFields_iff (w := w)
    [⟨26, 6, 0x3E#6⟩, ⟨24, 2, 0#2⟩, ⟨17, 7, c⟩, ⟨13, 4, g⟩, ⟨10, 3, s⟩, ⟨0, 10, f⟩]
    [(26, 6), (24, 2), (17, 7), (13, 4), (10, 3), (0, 10)] (BitVec.zero_and (x := 0#32)) (by decide) rfl

theorem word_facet_iff {w : BitVec 32} {a b c : BitVec 7} :
    encodeExt (.facet a b c) = w ↔ isExt w = true ∧ w.extractLsb' 24 2 = 1#2 ∧ w.extractLsb' 17 7 = a
      ∧ w.extractLsb' 10 7 = b ∧ w.extractLsb' 3 7 = c ∧ w.extractLsb' 0 3 = 0#3 := by
  simpa [withFields, isExt, encodeExt, place] using withFields_iff (w := w)
    [⟨26, 6, 0x3E#6⟩, ⟨24, 2, 1#2⟩, ⟨17, 7, a⟩, ⟨10, 7, b⟩, ⟨3, 7, c⟩, ⟨0, 3, 0#3⟩]
    [(26, 6), (24, 2), (17, 7), (10, 7), (3, 7), (0, 3)] (BitVec.zero_and (x := 0#32)) (by decide) rfl

theorem word_imm_iff {w : BitVec 32} {h : BitVec 20} :
    encodeExt (.imm h) = w ↔ isExt w = true ∧ w.extractLsb' 24 2 = 2#2 ∧ w.extractLsb' 4 20 = h
      ∧ w.extractLsb' 0 4 = 0#4 := by
  simpa [withFields, isExt, encodeExt, place] using withFields_iff (w := w)
    [⟨26, 6, 0x3E#6⟩, ⟨24, 2, 2#2⟩, ⟨4, 20, h⟩, ⟨0, 4, 0#4⟩]
    [(26, 6), (24, 2), (4, 20), (0, 4)] (BitVec.zero_and (x := 0#32)) (by decide) rfl

theorem word_control_iff {w : BitVec 32} {t : BitVec 4} {y : BitVec 1} {b : BitVec 3} {m : BitVec 6} :
    encodeExt (.control t y b m) = w ↔ isExt w = true ∧ w.extractLsb' 24 2 = 3#2 ∧ w.extractLsb' 20 4 = t
      ∧ w.extractLsb' 19 1 = y ∧ w.extractLsb' 16 3 = b ∧ w.extractLsb' 10 6 = m ∧ w.extractLsb' 0 10 = 0#10 := by
  simpa [withFields, isExt, encodeExt, place] using withFields_iff (w := w)
    [⟨26, 6, 0x3E#6⟩, ⟨24, 2, 3#2⟩, ⟨20, 4, t⟩, ⟨19, 1, y⟩, ⟨16, 3, b⟩, ⟨10, 6, m⟩, ⟨0, 10, 0#10⟩]
    [(26, 6), (24, 2), (20, 4), (19, 1), (16, 3), (10, 6), (0, 10)] (BitVec.zero_and (x := 0#32)) (by decide) rfl

/-- An extension word is read as what it was made of. -/
theorem decodeExt_encodeExt (e : ExtWord) : decodeExt (encodeExt e) = some e := by
  cases e with
  | operand c g s f =>
    obtain ⟨-, ht, hc, hg, hs, hf⟩ := word_operand_iff.mp (Eq.refl (encodeExt (.operand c g s f)))
    simp only [decodeExt, ht, hc, hg, hs, hf]; rfl
  | facet a b c =>
    obtain ⟨-, ht, ha, hb, hc, hz⟩ := word_facet_iff.mp (Eq.refl (encodeExt (.facet a b c)))
    simp only [decodeExt, ht, ha, hb, hc, hz]; rfl
  | imm h =>
    obtain ⟨-, ht, hh, hz⟩ := word_imm_iff.mp (Eq.refl (encodeExt (.imm h)))
    simp only [decodeExt, ht, hh, hz]; rfl
  | control t y b m =>
    obtain ⟨-, ht, ht', hy, hb, hm, hz⟩ := word_control_iff.mp (Eq.refl (encodeExt (.control t y b m)))
    simp only [decodeExt, ht, ht', hy, hb, hm, hz]; rfl

/-- No bit of an extension word is dropped (R70). -/
theorem encodeExt_of_decodeExt {w : BitVec 32} {e : ExtWord} (hx : isExt w = true) (h : decodeExt w = some e) :
    encodeExt e = w := by
  unfold decodeExt at h
  split at h
  case h_1 ht =>
    obtain rfl := Option.some.inj h
    exact word_operand_iff.mpr ⟨hx, BitVec.eq_of_toNat_eq ht, rfl, rfl, rfl, rfl⟩
  case h_2 ht =>
    obtain ⟨hz, h⟩ := Option.ite_none_right_eq_some.mp h
    obtain rfl := Option.some.inj h
    exact word_facet_iff.mpr ⟨hx, BitVec.eq_of_toNat_eq ht, rfl, rfl, rfl, hz⟩
  case h_3 ht =>
    obtain ⟨hz, h⟩ := Option.ite_none_right_eq_some.mp h
    obtain rfl := Option.some.inj h
    exact word_imm_iff.mpr ⟨hx, BitVec.eq_of_toNat_eq ht, rfl, hz⟩
  case h_4 h0 h1 h2 =>
    obtain ⟨hz, h⟩ := Option.ite_none_right_eq_some.mp h
    obtain rfl := Option.some.inj h
    have hlt := (w.extractLsb' 24 2).isLt
    have h3 : (w.extractLsb' 24 2).toNat = 3 := by simp only [imp_false] at h0 h1 h2; omega
    exact word_control_iff.mpr ⟨hx, BitVec.eq_of_toNat_eq h3, rfl, rfl, rfl, rfl, hz⟩

theorem isExt_encodeExt : ∀ e : ExtWord, isExt (encodeExt e) = true
  | .operand .. => (word_operand_iff.mp rfl).1
  | .facet .. => (word_facet_iff.mp rfl).1
  | .imm .. => (word_imm_iff.mp rfl).1
  | .control .. => (word_control_iff.mp rfl).1

/-- Decoding reads at most two extension words of different types, then the base word (R64, R70). -/
theorem decode_words {i : Instr} {w : BitVec 32} {x : Exts} (hx : extsOk x = true) (hw : isExt w = false)
    (hi : decodeWith x w = .ok i) (rest : List Word) : decode (x.map encodeExt ++ w :: rest) = .ok (i, rest) := by
  match x, hx with
  | [], _ => simp [decode, hw, hi, Except.map]
  | [e], _ => simp [decode, isExt_encodeExt, decodeExt_encodeExt, hw, hi, Except.map]
  | [e, f], hx =>
    have hne : e.type ≠ f.type := by simpa [extsOk] using hx
    simp [decode, isExt_encodeExt, decodeExt_encodeExt, hw, hi, hne, Except.map]

/-- The words after an instruction do not matter to it. -/
theorem map_rest_eq_ok {r : Except Reject Instr} {i : Instr} {ws rest : List Word}
    (h : r.map (fun i => (i, ws)) = .ok (i, rest)) : r = .ok i ∧ ws = rest := by
  cases r with
  | error e => cases h
  | ok j => cases h; exact ⟨rfl, rfl⟩

/-- The words that decode are extension words, a base word and the rest. -/
theorem words_of_decode {ws rest : List Word} {i : Instr} (h : decode ws = .ok (i, rest)) :
    ∃ x w, decodeWith x w = .ok i ∧ x.map encodeExt ++ w :: rest = ws := by
  unfold decode at h
  split at h
  case h_1 => cases h
  case h_2 w0 r0 =>
  split_ifs at h with h0
  · split at h
    case h_1 => cases h
    case h_2 w1 r1 =>
    split_ifs at h with h1
    · split at h
      case h_1 => cases h
      case h_2 w2 r2 =>
      split_ifs at h
      split at h
      case h_2 => cases h
      case h_1 e0 e1 he0 he1 =>
      split_ifs at h
      obtain ⟨hi, rfl⟩ := map_rest_eq_ok h
      exact ⟨_, w2, hi, by simp [encodeExt_of_decodeExt h0 he0, encodeExt_of_decodeExt h1 he1]⟩
    · split at h
      case h_2 => cases h
      case h_1 e0 he0 =>
      obtain ⟨hi, rfl⟩ := map_rest_eq_ok h
      exact ⟨_, w1, hi, by simp [encodeExt_of_decodeExt h0 he0]⟩
  · obtain ⟨hi, rfl⟩ := map_rest_eq_ok h
    exact ⟨_, w0, hi, rfl⟩

theorem encode_eq {i : Instr} {w : Word} (h : baseWord i = some w) : encode i = (extsOf i).map encodeExt ++ [w] := by
  rw [encode, h]

theorem extsOk_of_wellFormed {i : Instr} (h : i.WellFormed) : extsOk (extsOf i) = true := by
  unfold Instr.WellFormed encodable at h
  split at h
  · cases h
  · simp only [Bool.and_eq_true] at h
    obtain ⟨⟨⟨hx, -⟩, -⟩, -⟩ := h
    exact hx

/-- The instructions that have a shape are those that have a base word. -/
theorem shape_isSome (i : Instr) : (shape i).isSome = (baseWord i).isSome := by
  cases i <;> rfl

theorem baseWord_of_wellFormed {i : Instr} (h : i.WellFormed) : ∃ w, baseWord i = some w := by
  rw [← Option.isSome_iff_exists, ← shape_isSome]
  unfold Instr.WellFormed encodable at h
  split at h
  · cases h
  · next hs => rw [hs]; rfl

/-- Settles O4: each direction puts together what holds of the extension words and of the base word. -/
theorem decodeAndEncodeAgree : Obligations.DecodeAndEncodeAgree := by
  refine ⟨fun i rest hwf => ?_, fun ws i rest h => ?_⟩
  · obtain ⟨w, hw⟩ := baseWord_of_wellFormed hwf
    rw [encode_eq hw, List.append_assoc]
    exact decode_words (extsOk_of_wellFormed hwf) (isExt_of_decodeBase (decodeBase_of_baseWord hw))
      (decodeWith_eq_ok_iff.mpr ⟨hwf, hw, rfl⟩) rest
  · obtain ⟨x, w, hi, rfl⟩ := words_of_decode h
    obtain ⟨hwf, hw, rfl⟩ := decodeWith_eq_ok_iff.mp hi
    exact ⟨hwf, by rw [encode_eq hw, List.append_assoc]; rfl⟩

end Sys2Proof

/-! ## Written words, and the source of a step (O3, O1) -/

namespace Sys2Proof.Machine
open Host (Outcome)

/-- An issue whose words decode is handed to the executor, with its live lanes and the fetched lines kept. -/
theorem State.issueNext_of_decode {s : State} {q : Issue} {g : Group} {ws : List Word} {i : Instr}
    {rest : List Word} (hg : s.group? q.core q.slot = some g) (hl : issuingLanes q g ≠ 0)
    (hf : s.fetch g q.pc = .words ws) (hd : decode ws = .ok (i, rest)) :
    s.issueNext q
      = .run i { s.keepText g q.pc ws.length with cur := { q with lanes := issuingLanes q g, words := ws } } := by
  unfold issuingLanes at hl ⊢
  simp only [State.issueNext, hg, hf, hd, if_neg hl]

end Sys2Proof.Machine

namespace Sys2Proof
open Sys2Proof.Machine

/-- Settles O3: each conjunct is a closed run of the decoder. -/
theorem writtenWordsDecode : Obligations.WrittenWordsDecode := by
  unfold Obligations.WrittenWordsDecode
  exact ⟨rfl, rfl, rfl, rfl, rfl, rfl, rfl, rfl, rfl, rfl, rfl, rfl, rfl, rfl, rfl, rfl, rfl, rfl, rfl⟩

/-- Settles O1, by the three sources of a step: the issue queue, the agenda and the device's own choice. -/
theorem stepRunsTheDecodedInstruction : Obligations.StepRunsTheDecodedInstruction := by
  unfold Obligations.StepRunsTheDecodedInstruction
  refine ⟨?issue, ?agenda, ?auto⟩
  case issue =>
    intro s q r g ws i rest hq hg hl s1 hf hd
    have hi := State.issueNext_of_decode (s := s1) hg hl hf hd
    simp only [step, hq]
    rw [hi]
  case agenda =>
    intro s e r hq ha
    simp only [step, hq, ha]
  case auto =>
    intro s hq ha
    simp only [step, hq, ha]

end Sys2Proof

/-! ## Every step answers (O5)

An instruction needs the group of its path to stand; a step of the device asks for nothing. Each answers along every
branch of its definition. -/

namespace Sys2Proof.Machine
open Host (Outcome)

theorem answers_next (t : State) : Answers (.next t) := ⟨t, rfl⟩

theorem answers_ite {c : Prop} [Decidable c] {a b : Outcome State Fault Refusal} (ha : Answers a) (hb : Answers b) :
    Answers (if c then a else b) := by
  split
  · exact ha
  · exact hb

theorem answers_guard {c : Prop} [Decidable c] {t : State} {b : Outcome State Fault Refusal} (hb : Answers b) :
    Answers (if c then .next t else b) := answers_ite (answers_next t) hb

/-- The group of the path that issues stands. -/
def State.Issuing (s : State) : Prop := ∃ g, s.group? s.cur.core s.cur.slot = some g

/-! ### Instructions, by the operation of the path that they share -/

section
variable {s : State} (h : s.Issuing)
include h

theorem State.Issuing.pathG (x : Exts) (gd : BitVec 4) : ∃ p, s.pathG x gd = some p := by
  obtain ⟨g, hg⟩ := h
  exact ⟨_, by rw [State.pathG, hg, Option.map_some]⟩

theorem State.Issuing.path (x : Exts) : ∃ p, s.path x = some p := h.pathG x _

theorem State.Issuing.answers_plain (x : Exts) (regs : List (Nat × Nat)) (f : Group → Word → Group) :
    Answers (s.plain x regs f) := by
  obtain ⟨p, hp⟩ := h.path x
  simp only [State.plain, hp]
  exact answers_guard (answers_guard (answers_next _))

theorem State.Issuing.answers_indirect (x : Exts) (a : BitVec 7)
    (go : State → Path → List (Nat × SvcRecord) → Word → (Nat → DWord) → State) : Answers (s.indirect x a go) := by
  obtain ⟨p, hp⟩ := h.path x
  simp only [State.indirect, hp]
  exact answers_guard (answers_next _)

theorem State.Issuing.answers_loop (x : Exts) (d : BitVec 7) (i : BitVec 12) (count : Group → Word) :
    Answers (s.loop x d i count) := by
  obtain ⟨p, hp⟩ := h.path x
  simp only [State.loop, hp]
  exact answers_guard (answers_guard (answers_next _))

theorem State.Issuing.answers_rmw (x : Exts) (a b : BitVec 7) (op : AtomOp) (dest : Option (BitVec 7)) (regs : Nat) :
    Answers (s.rmw x a b op dest regs) := by
  obtain ⟨p, hp⟩ := h.path x
  unfold State.rmw
  rw [hp]
  exact answers_guard (answers_guard (answers_next _))

theorem State.Issuing.answers_waitFor (x : Exts) (ready : Path → Bool) : Answers (s.waitFor x ready) := by
  obtain ⟨p, hp⟩ := h.path x
  simp only [State.waitFor, hp]
  exact answers_guard (answers_next _)

theorem State.Issuing.answers_fence (x : Exts) (kind scope : Nat) : Answers (s.fence x kind scope) := by
  obtain ⟨p, hp⟩ := h.path x
  simp only [State.fence, hp]
  exact answers_guard (answers_next _)

theorem State.Issuing.answers_cacheOp (x : Exts) (a : BitVec 7) (f : State → Path → Nat → State) :
    Answers (s.cacheOp x a f) := by
  obtain ⟨p, hp⟩ := h.path x
  simp only [State.cacheOp, hp]
  exact answers_guard (answers_next _)

theorem State.Issuing.answers_pathOp (x : Exts) (f : State → Path → Option State) : Answers (s.pathOp x f) := by
  obtain ⟨p, hp⟩ := h.path x
  simp only [State.pathOp, hp]
  refine answers_guard ?_
  cases f s p with
  | none => exact answers_next _
  | some t => exact answers_next t

theorem State.Issuing.answers_keeperOp (x : Exts) (f : State → Path → Option State) : Answers (s.keeperOp x f) := by
  obtain ⟨p, hp⟩ := h.path x
  simp only [State.keeperOp, hp]
  exact answers_guard (h.answers_pathOp x f)

theorem State.Issuing.answers_tmov (x : Exts) (t : BitVec 7) (regs : List (Nat × Nat)) (f : Group → Word → Group) :
    Answers (s.tmov x t regs f) := by
  obtain ⟨p, hp⟩ := h.path x
  simp only [State.tmov, hp]
  exact answers_guard (h.answers_plain x regs f)

theorem State.Issuing.answers_software (x : Exts) (code : Byte) (n : BitVec 7) : Answers (s.software x code n) := by
  obtain ⟨p, hp⟩ := h.path x
  simp only [State.software, hp]
  exact answers_next _

theorem State.Issuing.answers_bra (x : Exts) (n : BitVec 1) (g : BitVec 3) (o : BitVec 22) :
    Answers (execBra x n g o s) := by
  obtain ⟨p, hp⟩ := h.pathG x (guardJ n g)
  simp only [execBra, hp]
  exact answers_next _

theorem State.Issuing.answers_call (x : Exts) (n : BitVec 1) (g : BitVec 3) (o : BitVec 22) :
    Answers (execCall x n g o s) := by
  obtain ⟨p, hp⟩ := h.pathG x (guardJ n g)
  simp only [execCall, hp]
  exact answers_next _

theorem State.Issuing.answers_ret (x : Exts) : Answers (execRet x s) := by
  obtain ⟨p, hp⟩ := h.path x
  simp only [execRet, hp]
  exact answers_next _

theorem State.Issuing.answers_exit (x : Exts) : Answers (execExit x s) := by
  obtain ⟨p, hp⟩ := h.path x
  simp only [execExit, hp]
  exact answers_next _

theorem State.Issuing.answers_cjoin (x : Exts) (a : BitVec 7) : Answers (execCjoin x a s) := by
  obtain ⟨p, hp⟩ := h.path x
  simp only [execCjoin, hp]
  exact answers_next _

theorem State.Issuing.answers_wbase (x : Exts) (i : BitVec 12) : Answers (execWbase x i s) := by
  obtain ⟨p, hp⟩ := h.path x
  simp only [execWbase, hp]
  exact answers_guard (h.answers_plain x _ _)

theorem State.Issuing.answers_sread (x : Exts) (d : BitVec 7) (i : BitVec 12) : Answers (execSread x d i s) := by
  obtain ⟨p, hp⟩ := h.path x
  simp only [execSread, hp]
  refine answers_guard ?_
  split
  · exact answers_next _
  · exact h.answers_plain x _ _

theorem State.Issuing.answers_swrite (x : Exts) (a : BitVec 7) (i : BitVec 12) : Answers (execSwrite x a i s) := by
  obtain ⟨p, hp⟩ := h.path x
  simp only [execSwrite, hp]
  exact answers_guard (answers_ite (h.answers_plain x _ _) (answers_guard (answers_next _)))

theorem State.Issuing.answers_capr (x : Exts) (d : BitVec 7) (i : BitVec 12) : Answers (execCapr x d i s) := by
  obtain ⟨p, hp⟩ := h.path x
  simp only [execCapr, hp]
  exact answers_guard (h.answers_plain x _ _)

theorem State.Issuing.answers_ld (x : Exts) (d a : BitVec 7) (i : BitVec 12) : Answers (execLd x d a i s) := by
  obtain ⟨p, hp⟩ := h.path x
  rw [execLd, hp]
  exact answers_guard (answers_guard (answers_guard (answers_guard (answers_next _))))

theorem State.Issuing.answers_st (x : Exts) (d a : BitVec 7) (i : BitVec 12) : Answers (execSt x d a i s) := by
  obtain ⟨p, hp⟩ := h.path x
  rw [execSt, hp]
  exact answers_guard (answers_guard (answers_next _))

theorem State.Issuing.answers_mwait (x : Exts) (a b : BitVec 7) : Answers (execMwait x a b s) := by
  obtain ⟨p, hp⟩ := h.path x
  rw [execMwait, hp]
  exact answers_guard (answers_guard (answers_guard (answers_next _)))

theorem State.Issuing.answers_fenceCode (x : Exts) : Answers (execFenceCode x s) := by
  obtain ⟨p, hp⟩ := h.path x
  simp only [execFenceCode, hp]
  exact answers_next _

theorem State.Issuing.answers_icinv (x : Exts) (a : BitVec 7) : Answers (execIcinv x a s) := by
  obtain ⟨p, hp⟩ := h.path x
  rw [execIcinv, hp]
  exact answers_guard (answers_guard (answers_next _))

theorem State.Issuing.answers_hprobe (x : Exts) (d a b : BitVec 7) : Answers (execHprobe x d a b s) := by
  obtain ⟨p, hp⟩ := h.path x
  rw [execHprobe, hp]
  exact answers_guard (answers_guard (answers_guard (answers_guard (answers_guard (answers_next _)))))

theorem State.Issuing.answers_media (x : Exts) (a b : BitVec 7) : Answers (execMedia x a b s) := by
  obtain ⟨p, hp⟩ := h.path x
  rw [execMedia, hp]
  exact answers_guard (h.answers_pathOp x _)

theorem State.Issuing.answers_regroup (x : Exts) (a b : BitVec 7) : Answers (execRegroup x a b s) := by
  obtain ⟨p, hp⟩ := h.path x
  rw [execRegroup, hp]
  exact answers_next _

theorem State.Issuing.answers_sysc (x : Exts) (a b : BitVec 7) : Answers (execSysc x a b s) := by
  obtain ⟨p, hp⟩ := h.path x
  rw [execSysc, hp]
  exact answers_guard (answers_guard (answers_guard (answers_guard (answers_next _))))

end

end Sys2Proof.Machine

namespace Sys2Proof.Machine
open Host (Outcome)

/-! ### Steps of the device: every branch of each is a next state -/

theorem answers_onPacket (s : State) (row : Nat) (test : List Byte → Bool)
    (f : State → Packet → List Byte → State) : Answers (s.onPacket row test f) := by
  dsimp only [State.onPacket]
  repeat' split
  all_goals exact answers_next _

theorem answers_lanectl (s : State) (core : Nat) (sel : DWord) (act : Nat) (f : Word → State) :
    Answers (s.lanectl core sel act f) :=
  answers_guard (answers_next _)

theorem answers_joinRelease (core slot : Nat) (s : State) :
    Answers (execJoinRelease core slot s) := by
  dsimp only [execJoinRelease]
  repeat' split
  all_goals exact answers_next _

theorem answers_mwaitWake (core slot lane : Nat) (s : State) :
    Answers (execMwaitWake core slot lane s) := by
  dsimp only [execMwaitWake]
  repeat' split
  all_goals exact answers_next _

theorem answers_engineGrant (engine : Nat) (s : State) :
    Answers (execEngineGrant engine s) := by
  dsimp only [execEngineGrant]
  repeat' split
  all_goals exact answers_next _

theorem answers_jobStart (job : Nat) (s : State) :
    Answers (execJobStart job s) := by
  dsimp only [execJobStart]
  repeat' split
  all_goals exact answers_next _

theorem answers_copyDelivery (job unit : Nat) (s : State) :
    Answers (execCopyDelivery job unit s) := by
  dsimp only [execCopyDelivery]
  repeat' split
  all_goals exact answers_next _

theorem answers_jobComplete (job : Nat) (s : State) :
    Answers (execJobComplete job s) := by
  dsimp only [execJobComplete]
  repeat' split
  all_goals exact answers_next _

theorem answers_jobFault (job : Nat) (why : JobTrouble) (s : State) :
    Answers (execJobFault job why s) := by
  dsimp only [execJobFault]
  repeat' split
  all_goals exact answers_next _

theorem answers_claspTimeout (r : ClaspRef) (s : State) :
    Answers (execClaspTimeout r s) := by
  dsimp only [execClaspTimeout]
  repeat' split
  all_goals exact answers_next _

theorem answers_claimGrant (team : Nat) (s : State) :
    Answers (execClaimGrant team s) := by
  dsimp only [execClaimGrant]
  repeat' split
  all_goals exact answers_next _

theorem answers_claimdl (team : Nat) (s : State) :
    Answers (execClaimdl team s) := by
  dsimp only [execClaimdl]
  repeat' split
  all_goals exact answers_next _

theorem answers_regroupExecute (team role : Nat) (s : State) :
    Answers (execRegroupExecute team role s) := by
  dsimp only [execRegroupExecute]
  repeat' split
  all_goals exact answers_next _

theorem answers_loadReturn (id : Nat) (phase : ReadPhase) (s : State) :
    Answers (execLoadReturn id phase s) := by
  dsimp only [execLoadReturn]
  repeat' split
  all_goals exact answers_next _

theorem answers_homeApplyWrite (id : Nat) (phase : WritePhase) (s : State) :
    Answers (execHomeApplyWrite id phase s) := by
  dsimp only [execHomeApplyWrite]
  repeat' split
  all_goals exact answers_next _

theorem answers_pageWalkComplete (core : Nat) (ctx : Word) (va : DWord) (s : State) :
    Answers (execPageWalkComplete core ctx va s) := by
  dsimp only [execPageWalkComplete]
  repeat' split
  all_goals exact answers_next _

theorem answers_heldWriteRelease (id : Nat) (s : State) :
    Answers (execHeldWriteRelease id s) := by
  dsimp only [execHeldWriteRelease]
  repeat' split
  all_goals exact answers_next _

theorem answers_unmappedWake (desc : Nat) (s : State) :
    Answers (execUnmappedWake desc s) := by
  dsimp only [execUnmappedWake]
  repeat' split
  all_goals exact answers_next _

theorem answers_barrierComplete (packet : Nat) (s : State) :
    Answers (execBarrierComplete packet s) := by
  dsimp only [execBarrierComplete]
  repeat' split
  all_goals exact answers_next _

theorem answers_teamRetire (team : Nat) (s : State) :
    Answers (execTeamRetire team s) := by
  dsimp only [execTeamRetire]
  repeat' split
  all_goals exact answers_next _

theorem answers_poolRecordTake (launch : Nat) (s : State) :
    Answers (execPoolRecordTake launch s) := by
  dsimp only [execPoolRecordTake]
  repeat' split
  all_goals exact answers_next _

theorem answers_binTimedFlush (launch bin : Nat) (s : State) :
    Answers (execBinTimedFlush launch bin s) := by
  dsimp only [execBinTimedFlush]
  repeat' split
  all_goals exact answers_next _

theorem answers_watchdogExpiry (row : Nat) (s : State) :
    Answers (execWatchdogExpiry row s) := by
  dsimp only [execWatchdogExpiry]
  repeat' split
  all_goals exact answers_next _

theorem answers_checkpointBlock (s : State) :
    Answers (execCheckpointBlock s) := by
  dsimp only [execCheckpointBlock]
  repeat' split
  all_goals exact answers_next _

theorem answers_checkpointEnd (s : State) :
    Answers (execCheckpointEnd s) := by
  dsimp only [execCheckpointEnd]
  repeat' split
  all_goals exact answers_next _

theorem answers_evidenceSigned (s : State) :
    Answers (execEvidenceSigned s) := by
  dsimp only [execEvidenceSigned]
  repeat' split
  all_goals exact answers_next _

theorem answers_onCoreError (core slot : Nat) (err : CoreError) (s : State) :
    Answers (execOnCoreError core slot err s) := by
  dsimp only [execOnCoreError]
  repeat' split
  all_goals exact answers_next _

theorem answers_jobctlResume (core : Nat) (v : DWord) (s : State) :
    Answers (execJobctlResume core v s) := by
  dsimp only [execJobctlResume]
  repeat' split
  all_goals exact answers_next _

theorem answers_jobctlFail (core : Nat) (v : DWord) (s : State) :
    Answers (execJobctlFail core v s) := by
  dsimp only [execJobctlFail]
  repeat' split
  all_goals exact answers_next _

theorem answers_savectlSave (core : Nat) (v : DWord) (s : State) :
    Answers (execSavectlSave core v s) := by
  dsimp only [execSavectlSave]
  repeat' split
  all_goals exact answers_next _

theorem answers_savectlRestore (core : Nat) (v : DWord) (s : State) :
    Answers (execSavectlRestore core v s) := by
  dsimp only [execSavectlRestore]
  repeat' split
  all_goals exact answers_next _

theorem answers_savectlDiscard (core : Nat) (v : DWord) (s : State) :
    Answers (execSavectlDiscard core v s) := by
  dsimp only [execSavectlDiscard]
  repeat' split
  all_goals exact answers_next _

theorem answers_sqpop (cluster : Nat) (s : State) :
    Answers (execSqpop cluster s) := by
  dsimp only [execSqpop]
  repeat' split
  all_goals exact answers_next _

theorem answers_evpop (s : State) :
    Answers (execEvpop s) := by
  dsimp only [execEvpop]
  repeat' split
  all_goals exact answers_next _

theorem answers_failbar (desc : Nat) (s : State) :
    Answers (execFailbar desc s) := by
  dsimp only [execFailbar]
  repeat' split
  all_goals exact answers_next _

theorem answers_hostev (s : State) :
    Answers (execHostev s) := by
  dsimp only [execHostev]
  repeat' split
  all_goals exact answers_next _

theorem answers_inboundAccess (src : Nat) (req : InboundReq) (s : State) :
    Answers (execInboundAccess src req s) := by
  dsimp only [execInboundAccess]
  repeat' split
  all_goals exact answers_next _

/-- Every arm of the executor answers, an instruction's where the group of its path stands. -/
theorem exec_answers (i : Instr) (s : State) (h : (baseWord i).isSome → s.Issuing) : Answers (exec i s) := by
  cases i with
  | bra x n g o => rw [exec_bra]; exact (h rfl).answers_bra _ _ _ _
  | call x n g o => rw [exec_call]; exact (h rfl).answers_call _ _ _ _
  | loop x d a imm => rw [exec_loop, execLoop]; exact (h rfl).answers_loop _ _ _ _
  | loopi x d a imm => rw [exec_loopi, execLoopi]; exact (h rfl).answers_loop _ _ _ _
  | bri x a => rw [exec_bri, execBri]; exact (h rfl).answers_indirect _ _ _
  | calli x a => rw [exec_calli, execCalli]; exact (h rfl).answers_indirect _ _ _
  | ret x => rw [exec_ret]; exact (h rfl).answers_ret _
  | exit x => rw [exec_exit]; exact (h rfl).answers_exit _
  | cjoin x a => rw [exec_cjoin]; exact (h rfl).answers_cjoin _ _
  | yield x => rw [exec_yield, execYield]; exact (h rfl).answers_plain _ _ _
  | nop x => rw [exec_nop, execNop]; exact (h rfl).answers_plain _ _ _
  | cmark x d => rw [exec_cmark, execCmark]; exact (h rfl).answers_plain _ _ _
  | wbase x imm => rw [exec_wbase]; exact (h rfl).answers_wbase _ _
  | sadd x d a b => rw [exec_sadd, execSadd, State.sss]; exact (h rfl).answers_plain _ _ _
  | ssub x d a b => rw [exec_ssub, execSsub, State.sss]; exact (h rfl).answers_plain _ _ _
  | smul x d a b => rw [exec_smul, execSmul, State.sss]; exact (h rfl).answers_plain _ _ _
  | smad x d a b => rw [exec_smad, execSmad]; exact (h rfl).answers_plain _ _ _
  | sand x d a b => rw [exec_sand, execSand, State.sss]; exact (h rfl).answers_plain _ _ _
  | sor x d a b => rw [exec_sor, execSor, State.sss]; exact (h rfl).answers_plain _ _ _
  | sxor x d a b => rw [exec_sxor, execSxor, State.sss]; exact (h rfl).answers_plain _ _ _
  | sshl x d a b => rw [exec_sshl, execSshl, State.sss]; exact (h rfl).answers_plain _ _ _
  | sshr x d a b => rw [exec_sshr, execSshr, State.sss]; exact (h rfl).answers_plain _ _ _
  | ssra x d a b => rw [exec_ssra, execSsra, State.sss]; exact (h rfl).answers_plain _ _ _
  | smin x d a b => rw [exec_smin, execSmin, State.sss]; exact (h rfl).answers_plain _ _ _
  | smax x d a b => rw [exec_smax, execSmax, State.sss]; exact (h rfl).answers_plain _ _ _
  | scmp x d a b => rw [exec_scmp, execScmp, State.sss]; exact (h rfl).answers_plain _ _ _
  | smov x d a => rw [exec_smov, execSmov]; exact (h rfl).answers_plain _ _ _
  | smovi x d imm => rw [exec_smovi, execSmovi]; exact (h rfl).answers_plain _ _ _
  | sread x d imm => rw [exec_sread]; exact (h rfl).answers_sread _ _ _
  | swrite x a imm => rw [exec_swrite]; exact (h rfl).answers_swrite _ _ _
  | iadd x d a b => rw [exec_iadd, execIadd, State.vvv]; exact (h rfl).answers_plain _ _ _
  | iaddc x d a b => rw [exec_iaddc, execIaddc]; exact (h rfl).answers_plain _ _ _
  | isub x d a b => rw [exec_isub, execIsub, State.vvv]; exact (h rfl).answers_plain _ _ _
  | imul x d a b => rw [exec_imul, execImul, State.vvv]; exact (h rfl).answers_plain _ _ _
  | imulh x d a b => rw [exec_imulh, execImulh, State.vvv]; exact (h rfl).answers_plain _ _ _
  | imad x d a b => rw [exec_imad, execImad]; exact (h rfl).answers_plain _ _ _
  | imadw x d a b => rw [exec_imadw, execImadw]; exact (h rfl).answers_plain _ _ _
  | iand x d a b => rw [exec_iand, execIand, State.vvv]; exact (h rfl).answers_plain _ _ _
  | ior x d a b => rw [exec_ior, execIor, State.vvv]; exact (h rfl).answers_plain _ _ _
  | ixor x d a b => rw [exec_ixor, execIxor, State.vvv]; exact (h rfl).answers_plain _ _ _
  | inot x d a => rw [exec_inot, execInot, State.vv]; exact (h rfl).answers_plain _ _ _
  | ishl x d a b => rw [exec_ishl, execIshl, State.vvv]; exact (h rfl).answers_plain _ _ _
  | ishr x d a b => rw [exec_ishr, execIshr, State.vvv]; exact (h rfl).answers_plain _ _ _
  | isra x d a b => rw [exec_isra, execIsra, State.vvv]; exact (h rfl).answers_plain _ _ _
  | imin x d a b => rw [exec_imin, execImin, State.vvv]; exact (h rfl).answers_plain _ _ _
  | imax x d a b => rw [exec_imax, execImax, State.vvv]; exact (h rfl).answers_plain _ _ _
  | iabs x d a => rw [exec_iabs, execIabs, State.vv]; exact (h rfl).answers_plain _ _ _
  | icmp x d a b => rw [exec_icmp, execIcmp]; exact (h rfl).answers_plain _ _ _
  | isel x d a b => rw [exec_isel, execIsel]; exact (h rfl).answers_plain _ _ _
  | popc x d a => rw [exec_popc, execPopc, State.vv]; exact (h rfl).answers_plain _ _ _
  | clz x d a => rw [exec_clz, execClz, State.vv]; exact (h rfl).answers_plain _ _ _
  | brev x d a => rw [exec_brev, execBrev, State.vv]; exact (h rfl).answers_plain _ _ _
  | bfx x d a b => rw [exec_bfx, execBfx, State.vvv]; exact (h rfl).answers_plain _ _ _
  | bfi x d a b => rw [exec_bfi, execBfi]; exact (h rfl).answers_plain _ _ _
  | lea x d a b => rw [exec_lea, execLea]; exact (h rfl).answers_plain _ _ _
  | pand x d a b => rw [exec_pand, execPand, State.ppp]; exact (h rfl).answers_plain _ _ _
  | por x d a b => rw [exec_por, execPor, State.ppp]; exact (h rfl).answers_plain _ _ _
  | pxor x d a b => rw [exec_pxor, execPxor, State.ppp]; exact (h rfl).answers_plain _ _ _
  | pnot x d a => rw [exec_pnot, execPnot]; exact (h rfl).answers_plain _ _ _
  | pmov x d a => rw [exec_pmov, execPmov]; exact (h rfl).answers_plain _ _ _
  | voteP x d a => rw [exec_voteP, execVoteP]; exact (h rfl).answers_plain _ _ _
  | voteS x d a => rw [exec_voteS, execVoteS]; exact (h rfl).answers_plain _ _ _
  | matchV x d a => rw [exec_matchV, execMatchV]; exact (h rfl).answers_plain _ _ _
  | matchS x d a => rw [exec_matchS, execMatchS]; exact (h rfl).answers_plain _ _ _
  | redIV x d a => rw [exec_redIV, execRedIV]; exact (h rfl).answers_plain _ _ _
  | redIS x d a => rw [exec_redIS, execRedIS]; exact (h rfl).answers_plain _ _ _
  | scanIV x d a => rw [exec_scanIV, execScanIV]; exact (h rfl).answers_plain _ _ _
  | scanIS x d a => rw [exec_scanIS, execScanIS]; exact (h rfl).answers_plain _ _ _
  | fadd x d a b => rw [exec_fadd, execFadd, State.f32vvv]; exact (h rfl).answers_plain _ _ _
  | fsub x d a b => rw [exec_fsub, execFsub, State.f32vvv]; exact (h rfl).answers_plain _ _ _
  | fmul x d a b => rw [exec_fmul, execFmul, State.f32vvv]; exact (h rfl).answers_plain _ _ _
  | ffma x d a b => rw [exec_ffma, execFfma]; exact (h rfl).answers_plain _ _ _
  | fmin x d a b => rw [exec_fmin, execFmin, State.f32vvv]; exact (h rfl).answers_plain _ _ _
  | fmax x d a b => rw [exec_fmax, execFmax, State.f32vvv]; exact (h rfl).answers_plain _ _ _
  | fcmp x d a b => rw [exec_fcmp, execFcmp]; exact (h rfl).answers_plain _ _ _
  | fclass x d a => rw [exec_fclass, execFclass, State.vv]; exact (h rfl).answers_plain _ _ _
  | frnd x d a => rw [exec_frnd, execFrnd, State.f32vv]; exact (h rfl).answers_plain _ _ _
  | faddX x d a b => rw [exec_faddX, execFaddX, State.x32]; exact (h rfl).answers_plain _ _ _
  | fsubX x d a b => rw [exec_fsubX, execFsubX, State.x32]; exact (h rfl).answers_plain _ _ _
  | fmulX x d a b => rw [exec_fmulX, execFmulX, State.x32]; exact (h rfl).answers_plain _ _ _
  | dwadd x d a b => rw [exec_dwadd, execDwadd, State.dw32]; exact (h rfl).answers_plain _ _ _
  | dwsub x d a b => rw [exec_dwsub, execDwsub, State.dw32]; exact (h rfl).answers_plain _ _ _
  | dwmul x d a b => rw [exec_dwmul, execDwmul, State.dw32]; exact (h rfl).answers_plain _ _ _
  | dwnorm x d a => rw [exec_dwnorm, execDwnorm]; exact (h rfl).answers_plain _ _ _
  | faddF64 x d a b => rw [exec_faddF64, execFaddF64, State.f64vvv]; exact (h rfl).answers_plain _ _ _
  | fsubF64 x d a b => rw [exec_fsubF64, execFsubF64, State.f64vvv]; exact (h rfl).answers_plain _ _ _
  | fmulF64 x d a b => rw [exec_fmulF64, execFmulF64, State.f64vvv]; exact (h rfl).answers_plain _ _ _
  | ffmaF64 x d a b => rw [exec_ffmaF64, execFfmaF64]; exact (h rfl).answers_plain _ _ _
  | fminF64 x d a b => rw [exec_fminF64, execFminF64, State.f64vvv]; exact (h rfl).answers_plain _ _ _
  | fmaxF64 x d a b => rw [exec_fmaxF64, execFmaxF64, State.f64vvv]; exact (h rfl).answers_plain _ _ _
  | fcmpF64 x d a b => rw [exec_fcmpF64, execFcmpF64]; exact (h rfl).answers_plain _ _ _
  | fclassF64 x d a => rw [exec_fclassF64, execFclassF64]; exact (h rfl).answers_plain _ _ _
  | frndF64 x d a => rw [exec_frndF64, execFrndF64, State.f64vv]; exact (h rfl).answers_plain _ _ _
  | faddXF64 x d a b => rw [exec_faddXF64, execFaddXF64, State.x64]; exact (h rfl).answers_plain _ _ _
  | fsubXF64 x d a b => rw [exec_fsubXF64, execFsubXF64, State.x64]; exact (h rfl).answers_plain _ _ _
  | fmulXF64 x d a b => rw [exec_fmulXF64, execFmulXF64, State.x64]; exact (h rfl).answers_plain _ _ _
  | dwaddF64 x d a b => rw [exec_dwaddF64, execDwaddF64, State.dw64]; exact (h rfl).answers_plain _ _ _
  | dwsubF64 x d a b => rw [exec_dwsubF64, execDwsubF64, State.dw64]; exact (h rfl).answers_plain _ _ _
  | dwmulF64 x d a b => rw [exec_dwmulF64, execDwmulF64, State.dw64]; exact (h rfl).answers_plain _ _ _
  | dwnormF64 x d a => rw [exec_dwnormF64, execDwnormF64]; exact (h rfl).answers_plain _ _ _
  | fdiv x d a b => rw [exec_fdiv, execFdiv, State.f32vvv]; exact (h rfl).answers_plain _ _ _
  | fsqrt x d a => rw [exec_fsqrt, execFsqrt, State.f32vv]; exact (h rfl).answers_plain _ _ _
  | frcp x d a => rw [exec_frcp, execFrcp, State.f32vv]; exact (h rfl).answers_plain _ _ _
  | frsq x d a => rw [exec_frsq, execFrsq, State.f32vv]; exact (h rfl).answers_plain _ _ _
  | fex2 x d a => rw [exec_fex2, execFex2, State.f32vv]; exact (h rfl).answers_plain _ _ _
  | flg2 x d a => rw [exec_flg2, execFlg2, State.f32vv]; exact (h rfl).answers_plain _ _ _
  | fsin x d a => rw [exec_fsin, execFsin, State.f32vv]; exact (h rfl).answers_plain _ _ _
  | fcos x d a => rw [exec_fcos, execFcos, State.f32vv]; exact (h rfl).answers_plain _ _ _
  | fdivF64 x d a b => rw [exec_fdivF64, execFdivF64, State.f64vvv]; exact (h rfl).answers_plain _ _ _
  | fsqrtF64 x d a => rw [exec_fsqrtF64, execFsqrtF64, State.f64vv]; exact (h rfl).answers_plain _ _ _
  | frcpF64 x d a => rw [exec_frcpF64, execFrcpF64, State.f64vv]; exact (h rfl).answers_plain _ _ _
  | frsqF64 x d a => rw [exec_frsqF64, execFrsqF64, State.f64vv]; exact (h rfl).answers_plain _ _ _
  | cvt x d a src t => rw [exec_cvt, execCvt]; exact (h rfl).answers_plain _ _ _
  | redFV x d a => rw [exec_redFV, execRedFV]; exact (h rfl).answers_plain _ _ _
  | redFS x d a => rw [exec_redFS, execRedFS]; exact (h rfl).answers_plain _ _ _
  | redFcV x d a => rw [exec_redFcV, execRedFcV]; exact (h rfl).answers_plain _ _ _
  | redFcS x d a => rw [exec_redFcS, execRedFcS]; exact (h rfl).answers_plain _ _ _
  | scanF x d a => rw [exec_scanF, execScanF]; exact (h rfl).answers_plain _ _ _
  | redFF64V x d a => rw [exec_redFF64V, execRedFF64V]; exact (h rfl).answers_plain _ _ _
  | redFF64S x d a => rw [exec_redFF64S, execRedFF64S]; exact (h rfl).answers_plain _ _ _
  | redFcF64 x d a => rw [exec_redFcF64, execRedFcF64]; exact (h rfl).answers_plain _ _ _
  | scanFF64 x d a => rw [exec_scanFF64, execScanFF64]; exact (h rfl).answers_plain _ _ _
  | flgr x d => rw [exec_flgr, execFlgr]; exact (h rfl).answers_plain _ _ _
  | flgc x m => rw [exec_flgc, execFlgc]; exact (h rfl).answers_plain _ _ _
  | qset x d a => rw [exec_qset, execQset]; exact (h rfl).answers_plain _ _ _
  | nset x d a => rw [exec_nset, execNset]; exact (h rfl).answers_plain _ _ _
  | ld x d a imm => rw [exec_ld]; exact (h rfl).answers_ld _ _ _ _
  | st x d a imm => rw [exec_st]; exact (h rfl).answers_st _ _ _ _
  | atomAdd x d a b => rw [exec_atomAdd, execAtomAdd]; exact (h rfl).answers_rmw _ _ _ _ _ _
  | atomMin x d a b => rw [exec_atomMin, execAtomMin]; exact (h rfl).answers_rmw _ _ _ _ _ _
  | atomMax x d a b => rw [exec_atomMax, execAtomMax]; exact (h rfl).answers_rmw _ _ _ _ _ _
  | atomAnd x d a b => rw [exec_atomAnd, execAtomAnd]; exact (h rfl).answers_rmw _ _ _ _ _ _
  | atomOr x d a b => rw [exec_atomOr, execAtomOr]; exact (h rfl).answers_rmw _ _ _ _ _ _
  | atomXor x d a b => rw [exec_atomXor, execAtomXor]; exact (h rfl).answers_rmw _ _ _ _ _ _
  | atomXchg x d a b => rw [exec_atomXchg, execAtomXchg]; exact (h rfl).answers_rmw _ _ _ _ _ _
  | atomCas x d a b => rw [exec_atomCas, execAtomCas]; exact (h rfl).answers_rmw _ _ _ _ _ _
  | atomInc x d a b => rw [exec_atomInc, execAtomInc]; exact (h rfl).answers_rmw _ _ _ _ _ _
  | atomDec x d a b => rw [exec_atomDec, execAtomDec]; exact (h rfl).answers_rmw _ _ _ _ _ _
  | atomXchgT x d a b => rw [exec_atomXchgT, execAtomXchgT]; exact (h rfl).answers_rmw _ _ _ _ _ _
  | redMAdd x a b => rw [exec_redMAdd, execRedMAdd]; exact (h rfl).answers_rmw _ _ _ _ _ _
  | redMMin x a b => rw [exec_redMMin, execRedMMin]; exact (h rfl).answers_rmw _ _ _ _ _ _
  | redMMax x a b => rw [exec_redMMax, execRedMMax]; exact (h rfl).answers_rmw _ _ _ _ _ _
  | redMAnd x a b => rw [exec_redMAnd, execRedMAnd]; exact (h rfl).answers_rmw _ _ _ _ _ _
  | redMOr x a b => rw [exec_redMOr, execRedMOr]; exact (h rfl).answers_rmw _ _ _ _ _ _
  | redMXor x a b => rw [exec_redMXor, execRedMXor]; exact (h rfl).answers_rmw _ _ _ _ _ _
  | mwait x a b => rw [exec_mwait]; exact (h rfl).answers_mwait _ _ _
  | fenceAcq x src => rw [exec_fenceAcq, execFenceAcq]; exact (h rfl).answers_fence _ _ _
  | fenceRel x src => rw [exec_fenceRel, execFenceRel]; exact (h rfl).answers_fence _ _ _
  | fenceSc x src => rw [exec_fenceSc, execFenceSc]; exact (h rfl).answers_fence _ _ _
  | fenceEngine x => rw [exec_fenceEngine, execFenceEngine]; exact (h rfl).answers_waitFor _ _
  | fenceCode x => rw [exec_fenceCode]; exact (h rfl).answers_fenceCode _
  | icinv x a => rw [exec_icinv]; exact (h rfl).answers_icinv _ _
  | dcflush x a => rw [exec_dcflush, execDcflush]; exact (h rfl).answers_cacheOp _ _ _
  | dcinv x a => rw [exec_dcinv, execDcinv]; exact (h rfl).answers_cacheOp _ _ _
  | pref x a => rw [exec_pref, execPref]; exact (h rfl).answers_cacheOp _ _ _
  | hprobe x d a b => rw [exec_hprobe]; exact (h rfl).answers_hprobe _ _ _ _
  | snap x d => rw [exec_snap, execSnap]; exact (h rfl).answers_pathOp _ _
  | snrel x a => rw [exec_snrel, execSnrel]; exact (h rfl).answers_pathOp _ _
  | txb x d => rw [exec_txb, execTxb]; exact (h rfl).answers_pathOp _ _
  | txc x d => rw [exec_txc, execTxc]; exact (h rfl).answers_pathOp _ _
  | txa x => rw [exec_txa, execTxa]; exact (h rfl).answers_pathOp _ _
  | mma x d a b => rw [exec_mma, execMma, State.matOp]; exact (h rfl).answers_pathOp _ _
  | mzero x d => rw [exec_mzero, execMzero, State.matOp]; exact (h rfl).answers_pathOp _ _
  | mld x d a => rw [exec_mld, execMld, State.matOp]; exact (h rfl).answers_pathOp _ _
  | mst x d a => rw [exec_mst, execMst, State.matOp]; exact (h rfl).answers_pathOp _ _
  | mdrain x d a b => rw [exec_mdrain, execMdrain, State.matOp]; exact (h rfl).answers_pathOp _ _
  | mmap x d a => rw [exec_mmap, execMmap]; exact (h rfl).answers_plain _ _ _
  | mburst x a => rw [exec_mburst, execMburst]; exact (h rfl).answers_plain _ _ _
  | tld x d a => rw [exec_tld, execTld]; exact (h rfl).answers_pathOp _ _
  | tmovTv x d a => rw [exec_tmovTv, execTmovTv]; exact (h rfl).answers_tmov _ _ _ _
  | tmovVt x d a => rw [exec_tmovVt, execTmovVt]; exact (h rfl).answers_tmov _ _ _ _
  | copy x a b => rw [exec_copy, execCopy]; exact (h rfl).answers_pathOp _ _
  | copyMc x a b => rw [exec_copyMc, execCopyMc]; exact (h rfl).answers_pathOp _ _
  | gather x a b => rw [exec_gather, execGather]; exact (h rfl).answers_pathOp _ _
  | coll x a b => rw [exec_coll, execColl]; exact (h rfl).answers_pathOp _ _
  | media x a b => rw [exec_media]; exact (h rfl).answers_media _ _ _
  | arrive x a => rw [exec_arrive, execArrive, State.onClasp]; exact (h rfl).answers_pathOp _ _
  | wait x d a => rw [exec_wait, execWait, State.onClasp]; exact (h rfl).answers_pathOp _ _
  | arwait x d a => rw [exec_arwait, execArwait, State.onClasp]; exact (h rfl).answers_pathOp _ _
  | expect x a b => rw [exec_expect, execExpect, State.onClasp]; exact (h rfl).answers_pathOp _ _
  | cltest x d a => rw [exec_cltest, execCltest, State.onClasp]; exact (h rfl).answers_pathOp _ _
  | rclaim x n => rw [exec_rclaim, execRclaim]; exact (h rfl).answers_pathOp _ _
  | rrel x n => rw [exec_rrel, execRrel]; exact (h rfl).answers_pathOp _ _
  | regroup x a b => rw [exec_regroup]; exact (h rfl).answers_regroup _ _ _
  | sysc x a b => rw [exec_sysc]; exact (h rfl).answers_sysc _ _ _
  | trap x n => rw [exec_trap, execTrap]; exact (h rfl).answers_software _ _ _
  | bkpt x n => rw [exec_bkpt, execBkpt]; exact (h rfl).answers_software _ _ _
  | mbxrd x d a => rw [exec_mbxrd, execMbxrd]; exact (h rfl).answers_keeperOp _ _
  | laneres x a b => rw [exec_laneres, execLaneres]; exact (h rfl).answers_keeperOp _ _
  | tlbinv x a b => rw [exec_tlbinv, execTlbinv]; exact (h rfl).answers_keeperOp _ _
  | eret x => rw [exec_eret, execEret]; exact (h rfl).answers_keeperOp _ _
  | capr x d imm => rw [exec_capr]; exact (h rfl).answers_capr _ _ _
  | joinRelease core slot => rw [exec_joinRelease]; exact answers_joinRelease core slot s
  | mwaitWake core slot lane => rw [exec_mwaitWake]; exact answers_mwaitWake core slot lane s
  | engineGrant engine => rw [exec_engineGrant]; exact answers_engineGrant engine s
  | matrixOpComplete engine => rw [exec_matrixOpComplete]; exact answers_next _
  | jobStart job => rw [exec_jobStart]; exact answers_jobStart job s
  | copyDelivery job unit => rw [exec_copyDelivery]; exact answers_copyDelivery job unit s
  | jobComplete job => rw [exec_jobComplete]; exact answers_jobComplete job s
  | jobFault job why => rw [exec_jobFault]; exact answers_jobFault job why s
  | claspTimeout ref => rw [exec_claspTimeout]; exact answers_claspTimeout ref s
  | claimGrant team => rw [exec_claimGrant]; exact answers_claimGrant team s
  | claimdl team => rw [exec_claimdl]; exact answers_claimdl team s
  | regroupExecute team role => rw [exec_regroupExecute]; exact answers_regroupExecute team role s
  | issueOpportunity c => rw [exec_issueOpportunity]; exact answers_guard (answers_next _)
  | loadReturn id phase => rw [exec_loadReturn]; exact answers_loadReturn id phase s
  | homeApplyWrite id phase => rw [exec_homeApplyWrite]; exact answers_homeApplyWrite id phase s
  | writeAck id => rw [exec_writeAck]; exact answers_next _
  | pageWalkComplete core ctx va => rw [exec_pageWalkComplete]; exact answers_pageWalkComplete core ctx va s
  | versionReclaim ctx line stamp => rw [exec_versionReclaim]; exact answers_next _
  | heldWriteRelease id => rw [exec_heldWriteRelease]; exact answers_heldWriteRelease id s
  | preemptStop core ctx => rw [exec_preemptStop]; exact answers_guard (answers_next _)
  | preemptDrainDone core ctx => rw [exec_preemptDrainDone]; exact answers_guard (answers_next _)
  | saveComplete core => rw [exec_saveComplete]; exact answers_next _
  | queueWake row => rw [exec_queueWake]; exact answers_guard (answers_next _)
  | unmappedWake desc => rw [exec_unmappedWake]; exact answers_unmappedWake desc s
  | packetLaunch row => rw [exec_packetLaunch]; exact answers_onPacket _ _ _ _
  | packetPool row => rw [exec_packetPool]; exact answers_onPacket _ _ _ _
  | packetBarrier row => rw [exec_packetBarrier]; exact answers_onPacket _ _ _ _
  | packetNop row => rw [exec_packetNop]; exact answers_onPacket _ _ _ _
  | badpkt row => rw [exec_badpkt]; exact answers_onPacket _ _ _ _
  | barrierComplete packet => rw [exec_barrierComplete]; exact answers_barrierComplete packet s
  | dispatchStep die => rw [exec_dispatchStep]; exact answers_guard (answers_next _)
  | teamRetire team => rw [exec_teamRetire]; exact answers_teamRetire team s
  | poolRecordTake launch => rw [exec_poolRecordTake]; exact answers_poolRecordTake launch s
  | binTimedFlush launch bin => rw [exec_binTimedFlush]; exact answers_binTimedFlush launch bin s
  | rampTick => rw [exec_rampTick]; exact answers_next _
  | launchSaveWrite row => rw [exec_launchSaveWrite]; exact answers_guard (answers_next _)
  | watchdogExpiry row => rw [exec_watchdogExpiry]; exact answers_watchdogExpiry row s
  | remoteGiveUp what => rw [exec_remoteGiveUp]; exact answers_next _
  | checkpointBlock => rw [exec_checkpointBlock]; exact answers_checkpointBlock s
  | checkpointEnd => rw [exec_checkpointEnd]; exact answers_checkpointEnd s
  | evidenceSigned => rw [exec_evidenceSigned]; exact answers_evidenceSigned s
  | powerCapApply => rw [exec_powerCapApply]; exact answers_next _
  | fullConditionClear ctx => rw [exec_fullConditionClear]; exact answers_next _
  | onCoreError core slot err => rw [exec_onCoreError]; exact answers_onCoreError core slot err s
  | lanectlComplete core sel => rw [exec_lanectlComplete]; exact answers_lanectl _ _ _ _ _
  | lanectlRetry core sel => rw [exec_lanectlRetry]; exact answers_lanectl _ _ _ _ _
  | lanectlKill core sel => rw [exec_lanectlKill]; exact answers_lanectl _ _ _ _ _
  | lanectlSetpc core sel => rw [exec_lanectlSetpc]; exact answers_lanectl _ _ _ _ _
  | jobctlResume core v => rw [exec_jobctlResume]; exact answers_jobctlResume core v s
  | jobctlFail core v => rw [exec_jobctlFail]; exact answers_jobctlFail core v s
  | savectlSave core v => rw [exec_savectlSave]; exact answers_savectlSave core v s
  | savectlRestore core v => rw [exec_savectlRestore]; exact answers_savectlRestore core v s
  | savectlDiscard core v => rw [exec_savectlDiscard]; exact answers_savectlDiscard core v s
  | sqpop cluster => rw [exec_sqpop]; exact answers_sqpop cluster s
  | invcmd cluster v => rw [exec_invcmd]; exact answers_guard (answers_next _)
  | artCommit die entry v => rw [exec_artCommit]; exact answers_guard (answers_guard (answers_next _))
  | artClear die entry v => rw [exec_artClear]; exact answers_guard (answers_next _)
  | inbCommit entry v => rw [exec_inbCommit]; exact answers_guard (answers_guard (answers_next _))
  | inbClear entry v => rw [exec_inbClear]; exact answers_guard (answers_next _)
  | registerWrite place op => rw [exec_registerWrite]; exact answers_guard (by cases op <;> exact answers_next _)
  | rowCommit row ctl => rw [exec_rowCommit]; exact answers_guard (answers_guard (answers_next _))
  | rowUnmap row ctl => rw [exec_rowUnmap]; exact answers_guard (answers_guard (answers_next _))
  | holdClear row => rw [exec_holdClear]; exact answers_guard (answers_next _)
  | holdSet row => rw [exec_holdSet]; exact answers_guard (answers_next _)
  | preemptSet row => rw [exec_preemptSet]; exact answers_guard (answers_next _)
  | preemptClear row => rw [exec_preemptClear]; exact answers_guard (answers_next _)
  | evpop => rw [exec_evpop]; exact answers_evpop s
  | destroy desc => rw [exec_destroy]; exact answers_guard (answers_guard (answers_guard (answers_next _)))
  | destroyForce desc => rw [exec_destroyForce]; exact answers_guard (answers_guard (answers_guard (answers_next _)))
  | failbar desc => rw [exec_failbar]; exact answers_failbar desc s
  | deviceReset => rw [exec_deviceReset]; exact answers_next _
  | thermalStop die => rw [exec_thermalStop]; exact answers_guard (answers_next _)
  | hotReset => rw [exec_hotReset]; exact answers_next _
  | linkDown => rw [exec_linkDown]; exact answers_next _
  | linkUp => rw [exec_linkUp]; exact answers_guard (answers_next _)
  | functionLevelReset func => rw [exec_functionLevelReset]; exact answers_guard (answers_next _)
  | driverStatusChange func status => rw [exec_driverStatusChange]; exact answers_guard (answers_next _)
  | virtioRequest func desc => rw [exec_virtioRequest]; exact answers_guard (answers_next _)
  | hostev => rw [exec_hostev]; exact answers_hostev s
  | inboundAccess src req => rw [exec_inboundAccess]; exact answers_inboundAccess src req s
  | ckcmd v => rw [exec_ckcmd]; exact answers_guard (answers_next _)
  | areq v => rw [exec_areq]; exact answers_guard (answers_guard (answers_next _))
  | mrExtend reg v => rw [exec_mrExtend]; exact answers_guard (answers_next _)
  | pcap v => rw [exec_pcap]; exact answers_next _
  | contextEnd ctx => rw [exec_contextEnd]; exact answers_next _
  | weaberLinkDown link => rw [exec_weaberLinkDown]; exact answers_guard (answers_next _)
  | weaberLinkUp l => rw [exec_weaberLinkUp]; exact answers_guard (answers_next _)
  | powerLoss => rw [exec_powerLoss]; exact answers_next _
  | dynamicAddress addr => rw [exec_dynamicAddress]; exact answers_next _

end Sys2Proof.Machine

namespace Sys2Proof.Machine
open Host (Outcome)

/-! ### The device's own choice is a step of the device -/

/-- An optional step that has no word. -/
def StepOfDevice (o : Option Instr) : Prop := ∀ e, o = some e → baseWord e = none

theorem StepOfDevice.none : StepOfDevice none := nofun

theorem StepOfDevice.some {e : Instr} (h : baseWord e = .none) : StepOfDevice (some e) := by
  rintro _ ⟨⟩
  exact h

theorem StepOfDevice.ite {c : Prop} [Decidable c] {a b : Option Instr} (ha : StepOfDevice a) (hb : StepOfDevice b) :
    StepOfDevice (if c then a else b) := by
  split
  · exact ha
  · exact hb

/-- Steps that have no word. -/
def StepsOfDevice (l : List Instr) : Prop := ∀ e ∈ l, baseWord e = none

section
variable {α : Type} {l m : List Instr}

theorem StepsOfDevice.nil : StepsOfDevice [] := nofun

theorem StepsOfDevice.cons {e : Instr} (h : baseWord e = none) (hl : StepsOfDevice l) : StepsOfDevice (e :: l) := by
  rintro _ (_ | ⟨_, hm⟩)
  · exact h
  · exact hl _ hm

theorem StepsOfDevice.append (hl : StepsOfDevice l) (hm : StepsOfDevice m) : StepsOfDevice (l ++ m) :=
  fun e he => (List.mem_append.mp he).elim (hl e) (hm e)

theorem StepsOfDevice.ite {c : Prop} [Decidable c] (hl : StepsOfDevice l) (hm : StepsOfDevice m) :
    StepsOfDevice (if c then l else m) := by
  split
  · exact hl
  · exact hm

theorem StepsOfDevice.map {f : α → Instr} (hf : ∀ a, baseWord (f a) = none) (as : List α) :
    StepsOfDevice (as.map f) := by
  intro e he
  obtain ⟨a, _, rfl⟩ := List.mem_map.mp he
  exact hf a

theorem StepsOfDevice.filterMap {f : α → Option Instr} (hf : ∀ a, StepOfDevice (f a)) (as : List α) :
    StepsOfDevice (as.filterMap f) := by
  intro e he
  obtain ⟨a, _, ha⟩ := List.mem_filterMap.mp he
  exact hf a e ha

theorem StepsOfDevice.flatMap {f : α → List Instr} (hf : ∀ a, StepsOfDevice (f a)) (as : List α) :
    StepsOfDevice (as.flatMap f) := by
  intro e he
  obtain ⟨a, _, ha⟩ := List.mem_flatMap.mp he
  exact hf a e ha

end

section
variable (s : State)

theorem State.autoWay_device (r : Request) {i a : Instr} (hi : baseWord i = none) (ha : baseWord a = none) :
    StepOfDevice (s.autoWay r i a) := by
  unfold State.autoWay
  split
  · exact .ite (.some hi) .none
  · exact .ite (.some ha) .none
  · exact .none

theorem State.autoWrite_device (w : Write) : StepOfDevice (s.autoWrite w) := by
  unfold State.autoWrite
  refine .ite (.some rfl) (.ite (.ite (.some rfl) .none) (.ite (.some rfl) ?_))
  split
  · exact .ite (s.autoWay_device _ rfl rfl) .none
  · exact .none
  · exact .ite (.some rfl) .none

theorem State.autoLine_device (l : PendingLoad) (line : Nat) : StepOfDevice (s.autoLine l line) :=
  .ite .none (.ite (.some rfl) (s.autoWay_device _ rfl rfl))

theorem State.autoLoad_device (l : PendingLoad) : StepsOfDevice (s.autoLoad l) :=
  .ite (.cons rfl .nil) (.ite (.cons rfl .nil) (.append (.append (.append
    (.filterMap (s.autoLine_device l) _) (.ite (.cons rfl .nil) .nil)) (.ite (.cons rfl .nil) .nil))
    (.ite (.cons rfl .nil) .nil)))

theorem State.autoAck_device (a : Ack) : baseWord (s.autoAck a) = none := by
  unfold State.autoAck
  split
  · split <;> rfl
  · rfl

theorem State.autoMem_device : StepsOfDevice s.autoMem :=
  .append (.append (.map s.autoAck_device _) (.filterMap s.autoWrite_device _)) (.flatMap s.autoLoad_device _)

theorem State.autoJob_device (j : Job) : StepOfDevice (s.autoJob j) := by
  unfold State.autoJob
  refine .ite .none (.ite (.ite (.some rfl) .none) ?_)
  split
  · exact .ite .none (.some (by split <;> rfl))
  · exact .some rfl
  · exact .some rfl
  · exact .some rfl
  · exact .none

theorem State.autoEngines_device : StepsOfDevice s.autoEngines :=
  .append (.filterMap s.autoJob_device _) (.filterMap (fun _ => .ite .none (.ite (.some rfl) (.some rfl))) _)

theorem State.autoGroup_device (g : Group) : StepsOfDevice (s.autoGroup g) := by
  refine .append (.append (.ite .nil (.cons rfl .nil)) (.filterMap (fun e => ?_) _)) ?_
  · split
    · exact .ite (.some rfl) .none
    · exact .none
  · split
    · exact .ite (.cons rfl .nil) .nil
    · exact .nil

theorem State.autoTeam_device (t : Team) : StepsOfDevice (s.autoTeam t) :=
  .append (.ite .nil (.ite (.cons rfl (.cons rfl .nil)) (.cons rfl .nil))) (.ite (.cons rfl .nil) .nil)

theorem State.autoRow_device (q : Nat) : StepsOfDevice (s.autoRow q) := by
  refine .ite .nil (.append (.append (.ite (.cons rfl .nil) .nil) ?_) (.ite (.cons rfl .nil) .nil))
  split
  · exact .ite (.cons rfl .nil) .nil
  · refine .ite .nil (.ite (.cons rfl .nil) ?_)
    split <;> exact .cons rfl .nil

theorem State.autoLaunch_device (l : Launch) : StepsOfDevice (s.autoLaunch l) := by
  refine .append (.ite .nil (.map (fun _ => rfl) _)) ?_
  split
  · exact .cons rfl (.map (fun _ => rfl) _)
  · exact .nil

theorem State.autoFront_device : StepsOfDevice s.autoFront :=
  .append (.append (.append (.append (.flatMap s.autoRow_device _) (.filterMap (fun _ => .ite (.some rfl) .none) _))
    (.filterMap (fun _ => .ite .none (.some rfl)) _)) (.flatMap s.autoLaunch_device _))
    (.filterMap (fun _ => .ite (.some rfl) .none) _)

theorem State.autoService_device : StepsOfDevice s.autoService :=
  .append (.append
    (.filterMap (fun _ => .ite (.ite .none (.some rfl)) (.ite (.some rfl) .none)) _)
    (.filterMap (fun _ => .ite (.some rfl) .none) _))
    (.flatMap (fun _ => .append (.map (fun _ => rfl) _) (.ite (.cons rfl .nil) .nil)) _)

theorem State.autoPlatform_device : StepsOfDevice s.autoPlatform := by
  refine .append (.append ?_ (.ite (.cons rfl .nil) .nil)) (.ite .nil (.cons rfl .nil))
  split
  · exact .ite (.cons rfl .nil) (.cons rfl .nil)
  · exact .nil

theorem State.candidates_device : StepsOfDevice s.candidates :=
  .cons rfl (.append (.append (.append (.append (.append (.append (.append (.append (.map (fun _ => rfl) _)
    s.autoMem_device) s.autoEngines_device) (.flatMap s.autoGroup_device _)) (.flatMap s.autoTeam_device _))
    (.map (fun _ => rfl) _)) s.autoFront_device) s.autoService_device) s.autoPlatform_device)

theorem State.autoEvent_device : baseWord s.autoEvent = none := by
  unfold State.autoEvent
  split
  · rfl
  · dsimp only
    rw [List.getD_eq_getElem?_getD]
    cases hg : s.candidates[(s.turn + s.turn / s.candidates.length) % s.candidates.length]? with
    | none => rfl
    | some e => exact s.candidates_device e (List.mem_of_getElem? hg)

end

/-! ### The step -/

theorem baseWord_of_encode_nil {i : Instr} (h : encode i = []) : baseWord i = none := by
  cases hw : baseWord i with
  | none => rfl
  | some w =>
    rw [encode_eq hw] at h
    simp at h

/-- A step of the device answers from every state. -/
theorem exec_answers_of_device {e : Instr} (he : baseWord e = none) (s : State) : Answers (exec e s) :=
  exec_answers e s (fun h => by rw [he] at h; cases h)

theorem State.served_walkedAt (s : State) (core : Nat) (t : Option Team) (l : List DWord) :
    s.Served (s.walkedAt core t l) := by
  unfold State.walkedAt
  split
  · refine .foldl (fun s va => ?_) l s
    split
    · exact s.served_walked _ _ _
    · exact .refl s
  · exact .refl s

/-- Keeping lines of text changes no group. -/
theorem State.keepText_groups (s : State) (g : Group) (pc : DWord) (n : Nat) : (s.keepText g pc n).groups = s.groups := by
  unfold State.keepText
  induction List.range n generalizing s with
  | nil => rfl
  | cons k r ih =>
    rw [List.foldl_cons, ih]
    dsimp only
    have hw := (s.served_walkedAt g.core (s.teamOf g) [pc + BitVec.ofNat 64 (4 * k)]).groups
    generalize s.walkedAt g.core (s.teamOf g) [pc + BitVec.ofNat 64 (4 * k)] = u at hw ⊢
    split
    · split
      · exact hw
      · split
        · exact ((State.served_recall u _).trans (State.served_noteReads _ _)).groups.trans hw
        · exact hw
    · exact hw

/-- What an issue hands to the executor is an instruction whose group stands. -/
theorem State.issuing_of_run {s t : State} {q : Issue} {i : Instr} (h : s.issueNext q = .run i t) : t.Issuing := by
  unfold State.issueNext at h
  cases hg : s.group? q.core q.slot with
  | none => rw [hg] at h; cases h
  | some g =>
    rw [hg] at h
    dsimp only at h
    split at h
    · cases h
    split at h
    · cases h
    split at h
    · cases h
      refine ⟨g, ?_⟩
      unfold State.group? at hg ⊢
      rw [← hg]
      exact congrArg (List.find? _) (s.keepText_groups g q.pc _)
    · cases h

end Sys2Proof.Machine

namespace Sys2Proof
open Sys2Proof.Machine

/-- Settles O5: an issued instruction finds its group, the agenda and the device's own choice name steps of the device, and
every arm of the executor answers. -/
theorem everyStepAnswers : Obligations.EveryStepAnswers := by
  unfold Obligations.EveryStepAnswers
  intro s ha
  unfold step
  split
  · next q r hq =>
    split
    · next i t hi => exact exec_answers i t (fun _ => State.issuing_of_run hi)
    · exact answers_next _
  · split
    · next e r he =>
      exact exec_answers_of_device (baseWord_of_encode_nil (ha e (by rw [he]; exact List.mem_cons_self))) _
    · exact exec_answers_of_device s.autoEvent_device _

end Sys2Proof

/-! ## Registers and facets (O9) -/

namespace Sys2Proof.Machine

theorem setBit_getLsbD {w : Nat} (v : BitVec w) (n m : Nat) (b : Bool) (hm : m < w) :
    (setBit v n b).getLsbD m = if m = n then b else v.getLsbD m := by
  have h1 : ((1#w <<< n).getLsbD m) = decide (m = n) := by
    simp only [BitVec.getLsbD_shiftLeft, BitVec.getLsbD_one]
    grind
  unfold setBit
  split
  · next hb =>
    rw [BitVec.getLsbD_or, h1, hb]
    by_cases h : m = n <;> simp [h]
  · next hb =>
    rw [BitVec.getLsbD_and, BitVec.getLsbD_not, h1, Bool.eq_false_of_not_eq_true hb]
    by_cases h : m = n <;> simp [h, hm]

/-- A predicate read back after a write of a predicate. -/
theorem Lane.setPred_pred (l : Lane) (n m : Nat) (b : Bool) (hn : n < 7) (hm : m < 7) :
    (l.setPred n b).pred m = if m = n then b else l.pred m := by
  simp only [Lane.setPred, Lane.pred, if_pos hn, if_pos hm]
  exact setBit_getLsbD l.preds n m b (by omega)

theorem Lane.setPred_seven (l : Lane) (b : Bool) : l.setPred 7 b = l := if_neg (by omega)

theorem Lane.pred_seven (l : Lane) : l.pred 7 = true := rfl

theorem Lane.setFlags_getLsbD (l : Lane) (f : BitVec 5) (k : Nat) :
    (l.setFlags f).flags.getLsbD k = (l.flags.getLsbD k || f.getLsbD k) := by
  simp [Lane.setFlags]

theorem Group.ws_discarded (g : Group) (x : DWord) : g.ws 63 x = g := if_pos rfl

theorem Group.rs_discarded (g : Group) : g.rs 63 = 0 := if_pos rfl

section
variable (g : Group) (j k : Nat)

theorem Group.facetLane_self : g.facetLane 0 j = j := rfl

/-- A facet's lane, by the range in which its code lies. -/
theorem Group.facetLane_ofNat {v : Nat} (hv : v < 128) : g.facetLane (BitVec.ofNat 7 v) j =
    if v < 0x20 then j
    else if v < 0x40 then (j + (v - 0x20)) % 32
    else if v < 0x60 then v - 0x40
    else if v < 0x68 then j ^^^ 2 ^ (v - 0x60)
    else if v < 0x6C then g.route (v - 0x68) j
    else g.network (v - 0x6C) j := by
  unfold Group.facetLane
  rw [BitVec.toNat_ofNat, Nat.mod_eq_of_lt (by omega)]

theorem Group.facetLane_rotate (hk : k < 32) : g.facetLane (BitVec.ofNat 7 (0x20 + k)) j = (j + k) % 32 := by
  rw [g.facetLane_ofNat j (by omega), if_neg (by omega), if_pos (by omega), Nat.add_sub_cancel_left]

theorem Group.facetLane_fixed (hk : k < 32) : g.facetLane (BitVec.ofNat 7 (0x40 + k)) j = k := by
  rw [g.facetLane_ofNat j (by omega), if_neg (by omega), if_neg (by omega), if_pos (by omega), Nat.add_sub_cancel_left]

theorem Group.facetLane_butterfly (hk : k < 5) : g.facetLane (BitVec.ofNat 7 (0x60 + k)) j = j ^^^ 2 ^ k := by
  rw [g.facetLane_ofNat j (by omega), if_neg (by omega), if_neg (by omega), if_neg (by omega), if_pos (by omega),
    Nat.add_sub_cancel_left]

theorem Group.facetLane_route (hk : k < 4) : g.facetLane (BitVec.ofNat 7 (0x68 + k)) j = g.route k j := by
  rw [g.facetLane_ofNat j (by omega), if_neg (by omega), if_neg (by omega), if_neg (by omega), if_neg (by omega),
    if_pos (by omega), Nat.add_sub_cancel_left]

theorem Group.facetLane_network (hk : k < 4) : g.facetLane (BitVec.ofNat 7 (0x6C + k)) j = g.network k j := by
  rw [g.facetLane_ofNat j (by omega), if_neg (by omega), if_neg (by omega), if_neg (by omega), if_neg (by omega),
    if_neg (by omega), Nat.add_sub_cancel_left]

/-- A route register that has been written routes by its entries. -/
theorem Group.route_of_lt (hk : k < g.q.length) : g.route k j = ((g.q.getD k 0).extractLsb' (5 * j) 5).toNat := by
  simp only [Group.route, List.getElem?_eq_getElem hk, List.getD_eq_getElem?_getD, Option.getD_some]

end

section
variable (g : Group) (f field : BitVec 7) (j : Nat)

theorem Group.srcV_uniform : g.srcV true f field j = (g.rs field.toNat).setWidth 32 := rfl

theorem Group.srcV_facet : g.srcV false f field j =
    if (g.lane (g.facetLane f j)).dark && !g.ended.getLsbD (g.facetLane f j) then 0
    else g.rv (g.wbase + field.toNat) (g.facetLane f j) := rfl

theorem Lane.dark_of_gone {l : Lane} (h : l.st = .exit ∨ l.st = .none) : l.dark = true := by
  rcases h with h | h <;> simp [Lane.dark, Lane.live, h]

theorem Lane.not_dark_of_live {l : Lane} {c : ParkCause} (h : l.st = .run ∨ l.st = .park c) : l.dark = false := by
  rcases h with h | h <;> simp [Lane.dark, Lane.live, h]

/-- A lane that never ran, or that exited before the opportunity under way, reads as zero. -/
theorem Group.srcV_of_gone (h : (g.lane (g.facetLane f j)).st = .exit ∨ (g.lane (g.facetLane f j)).st = .none)
    (he : g.ended.getLsbD (g.facetLane f j) = false) : g.srcV false f field j = 0 := by
  rw [g.srcV_facet, Lane.dark_of_gone h, he]
  rfl

/-- Any other lane reads as its register. -/
theorem Group.srcV_of_live {c : ParkCause} (h : (g.lane (g.facetLane f j)).st = .run
    ∨ (g.lane (g.facetLane f j)).st = .park c ∨ g.ended.getLsbD (g.facetLane f j) = true) :
    g.srcV false f field j = g.rv (g.wbase + field.toNat) (g.facetLane f j) := by
  rw [g.srcV_facet]
  refine if_neg ?_
  rcases h with h | h | h
  · rw [Lane.not_dark_of_live (c := c) (.inl h)]; simp
  · rw [Lane.not_dark_of_live (.inr h)]; simp
  · rw [h]; simp

end

end Sys2Proof.Machine

namespace Sys2Proof
open Sys2Proof.Machine

/-- Settles O9: the registers by their read-after-write rules, the facets by the range of their code and the state of the
lane that they name. -/
theorem registersAndFacets : Obligations.RegistersAndFacets := by
  unfold Obligations.RegistersAndFacets
  refine ⟨⟨?s63, ?p7, ?uniform, ?vector, ?predicate, ?flags⟩, ?facets⟩
  case s63 => exact fun g x => ⟨g.ws_discarded x, g.rs_discarded⟩
  case p7 => exact fun l b => ⟨l.setPred_seven b, l.pred_seven⟩
  case uniform =>
    intro g n m x hn
    have h63 : n ≠ 63 := by omega
    rw [Group.ws_rs]
    simp only [ne_eq, h63, not_false_eq_true, and_true]
  case vector => exact fun g a j b k x hj hk => g.wv_rv a b j k x hj hk
  case predicate => exact fun l n m b hn hm => l.setPred_pred n m b hn hm
  case flags => exact fun l f k => l.setFlags_getLsbD f k
  case facets =>
    intro g j k _ hk
    refine ⟨g.facetLane_self j, g.facetLane_rotate j k hk, g.facetLane_fixed j k hk, g.facetLane_butterfly j k,
      fun h4 hq => ?_, fun h4 _ => g.facetLane_network j k h4,
      fun f field => ⟨g.srcV_of_gone f field j, fun _ => g.srcV_of_live f field j, g.srcV_uniform f field j⟩⟩
    rw [g.facetLane_route j k h4, g.route_of_lt j k (by omega)]

end Sys2Proof

/-! ## Loads issue (O30) -/

namespace Sys2Proof.Machine
open Host (Outcome)

/-! ### Combining the partials of a line changes no byte that a reader finds -/

theorem sget_ssets_congr {w : Nat} (c : Nat) : ∀ (l : List (Nat × BitVec w)) (m m' : SMap w), sget m c = sget m' c →
    sget (ssets m l) c = sget (ssets m' l) c
  | [], _, _, h => h
  | e :: r, m, m', h => by
    refine sget_ssets_congr c r (sset m e.1 e.2) (sset m' e.1 e.2) ?_
    rw [sget_sset, sget_sset, h]

theorem sbytes_congr {m m' : SMap 8} : ∀ (n a : Nat), (∀ c, a ≤ c → c < a + n → sget m c = sget m' c) →
    sbytes m a n = sbytes m' a n
  | 0, _, _ => rfl
  | n + 1, a, h => by
    rw [sbytes, sbytes, h a (by omega) (by omega), sbytes_congr n (a + 1) (fun c h1 h2 => h c (by omega) (by omega))]

/-- The home's memory with one partial combined onto it. -/
def UPartial.onto (m : SMap 8) (u : UPartial) : SMap 8 :=
  ssets m (wordBytes u.addr (atomNew u.op (BitVec.ofNat 32 (leNat (sbytes m u.addr 4))) u.val 0))

/-- Where `c` lies outside the word of a partial, combining it leaves `c` as it is. -/
theorem UPartial.sget_onto_other {m : SMap 8} {u : UPartial} {c : Nat} (h : ¬(u.addr ≤ c ∧ c < u.addr + 4)) :
    sget (u.onto m) c = sget m c := by
  refine sget_ssets_other _ _ _ (fun e he => ?_)
  have hb := mem_number e _ _ he
  simp only [leBytes, List.length_cons, List.length_nil] at hb
  omega

/-- Memories that agree on the line of a partial agree there once it is combined. -/
theorem UPartial.sget_onto_congr {m m' : SMap 8} {u : UPartial} (hu : u.addr % 4 = 0)
    (h : ∀ c, c / 128 = u.addr / 128 → sget m c = sget m' c) (c : Nat) (hc : c / 128 = u.addr / 128) :
    sget (u.onto m) c = sget (u.onto m') c := by
  have hw : sbytes m u.addr 4 = sbytes m' u.addr 4 := sbytes_congr 4 _ (fun b h1 h2 => h b (by omega))
  unfold UPartial.onto
  rw [hw]
  exact sget_ssets_congr c _ m m' (h c hc)

/-- The partials of a line in the order in which its home combines them. -/
def partialsOf (us : List UPartial) (line : Nat) : List UPartial :=
  sortBy (fun (a b : UPartial) => l1Core a.l1 ≤ l1Core b.l1) (us.filter (fun u => u.addr / 128 = line))

theorem mem_partialsOf {us : List UPartial} {line : Nat} {u : UPartial} (h : u ∈ partialsOf us line) :
    u ∈ us ∧ u.addr / 128 = line := by
  rcases mem_of_mem_sortBy _ u _ _ h with h | h
  · obtain ⟨h1, h2⟩ := List.mem_filter.mp h
    exact ⟨h1, of_decide_eq_true h2⟩
  · cases h

theorem recalledMem_eq_foldl (m : SMap 8) (us : List UPartial) (line : Nat) :
    recalledMem m us line = (partialsOf us line).foldl UPartial.onto m := rfl

/-- Other lines keep their bytes. -/
theorem sget_recalledMem_other {us : List UPartial} (ha : ∀ u ∈ us, u.addr % 4 = 0) {line c : Nat} (hc : c / 128 ≠ line)
    (m : SMap 8) : sget (recalledMem m us line) c = sget m c := by
  rw [recalledMem_eq_foldl]
  have hl : ∀ u ∈ partialsOf us line, ¬(u.addr ≤ c ∧ c < u.addr + 4) := fun u hu => by
    obtain ⟨h1, h2⟩ := mem_partialsOf hu
    have h3 := ha u h1
    omega
  generalize partialsOf us line = l at hl ⊢
  induction l generalizing m with
  | nil => rfl
  | cons u r ih =>
    rw [List.foldl_cons, ih _ (fun v hv => hl v (List.mem_cons_of_mem u hv)),
      UPartial.sget_onto_other (hl u List.mem_cons_self)]

/-- What a recall makes of a line rests on the bytes of that line alone. -/
theorem sget_recalledMem_congr {us : List UPartial} (ha : ∀ u ∈ us, u.addr % 4 = 0) {line : Nat} {m m' : SMap 8}
    (h : ∀ c, c / 128 = line → sget m c = sget m' c) (c : Nat) (hc : c / 128 = line) :
    sget (recalledMem m us line) c = sget (recalledMem m' us line) c := by
  rw [recalledMem_eq_foldl, recalledMem_eq_foldl]
  have hl : ∀ u ∈ partialsOf us line, u.addr % 4 = 0 ∧ u.addr / 128 = line := fun u hu => by
    obtain ⟨h1, h2⟩ := mem_partialsOf hu
    exact ⟨ha u h1, h2⟩
  generalize partialsOf us line = l at hl ⊢
  induction l generalizing m m' with
  | nil => exact h c hc
  | cons u r ih =>
    obtain ⟨h1, h2⟩ := hl u List.mem_cons_self
    exact ih (fun b hb => UPartial.sget_onto_congr h1 (fun d hd => h d (hd.trans h2)) b (hb.trans h2.symm))
      (fun v hv => hl v (List.mem_cons_of_mem u hv))

theorem recalledMem_nil (m : SMap 8) (line : Nat) : recalledMem m [] line = m := rfl

theorem State.view_mem (s : State) (a : Nat) : s.view .mem a = sget (recalledMem s.mem s.upartials (a / 128)) a := by
  show (s.recall (a / 128)).byte .mem a = _
  rw [State.recall_eq]
  rfl

theorem State.view_congr {s t : State} (hm : t.mem = s.mem) (hu : t.upartials = s.upartials) (a : Nat) :
    t.view .mem a = s.view .mem a := by
  rw [State.view_mem, State.view_mem, hm, hu]

/-- Every partial names an aligned word. -/
def State.PartialsAligned (s : State) : Prop := ∀ u ∈ s.upartials, u.addr % 4 = 0

/-- A recall keeps what any reader finds (R224): the line's partials are in its bytes now, those of another line stay. -/
theorem State.view_recall {s : State} (ha : s.PartialsAligned) (line a : Nat) :
    (s.recall line).view .mem a = s.view .mem a := by
  rw [State.view_mem, State.view_mem, State.recall_eq]
  dsimp only
  by_cases h : a / 128 = line
  · subst h
    have hn : partialsOf (s.upartials.filter (fun u => u.addr / 128 ≠ a / 128)) (a / 128) = [] :=
      List.eq_nil_iff_forall_not_mem.mpr (fun u hu => by
        obtain ⟨h1, h2⟩ := mem_partialsOf hu
        exact absurd h2 (of_decide_eq_true (List.mem_filter.mp h1).2))
    rw [recalledMem_eq_foldl _ (s.upartials.filter _), hn, List.foldl_nil]
  · have hf : (s.upartials.filter (fun u => u.addr / 128 ≠ line)).filter (fun u => u.addr / 128 = a / 128)
        = s.upartials.filter (fun u => u.addr / 128 = a / 128) := by
      rw [List.filter_filter]
      refine List.filter_congr (fun u _ => ?_)
      by_cases hu : u.addr / 128 = a / 128 <;> simp [hu, h]
    have hp : recalledMem (recalledMem s.mem s.upartials line) (s.upartials.filter (fun u => u.addr / 128 ≠ line)) (a / 128)
        = recalledMem (recalledMem s.mem s.upartials line) s.upartials (a / 128) := by
      simp only [recalledMem, hf]
    rw [hp]
    exact sget_recalledMem_congr ha (fun c hc => sget_recalledMem_other ha (by omega) _) a rfl

/-! ### The walks of a load, where no sector is about to fail -/

/-- Partials have been combined at their homes: no reader finds another byte, and the partials left are among those that
stood. -/
structure State.Combines (s t : State) : Prop where
  recalled : s.Recalled t
  fewer : ∀ u ∈ t.upartials, u ∈ s.upartials

theorem State.Combines.refl (s : State) : s.Combines s := ⟨⟨rfl, fun _ => rfl⟩, fun _ h => h⟩

theorem State.Combines.trans {s t u : State} (a : s.Combines t) (b : t.Combines u) : s.Combines u := by
  refine ⟨⟨?_, fun c => (b.recalled.same c).trans (a.recalled.same c)⟩, fun v hv => a.fewer v (b.fewer v hv)⟩
  have h := a.recalled.rest
  rw [← b.recalled.rest] at h
  exact h

theorem State.Combines.faulty {s t : State} (h : s.Combines t) : t.faulty = s.faulty := by
  have e := congrArg State.faulty h.recalled.rest
  exact e

theorem State.Combines.aligned {s t : State} (h : s.Combines t) (ha : s.PartialsAligned) : t.PartialsAligned :=
  fun u hu => ha u (h.fewer u hu)

theorem State.Combines.foldl {α : Type} {s : State} {f : State → α → State}
    (hf : ∀ t a, s.Combines t → t.Combines (f t a)) : ∀ (l : List α) (t : State), s.Combines t → s.Combines (l.foldl f t)
  | [], _, h => h
  | a :: r, t, h => State.Combines.foldl hf r (f t a) (h.trans (hf t a h))

section
variable {s : State} (ha : s.PartialsAligned)
include ha

theorem State.combines_recall (line : Nat) : s.Combines (s.recall line) := by
  refine ⟨⟨?_, State.view_recall ha line⟩, fun u hu => ?_⟩
  · rw [State.recall_eq]
  · rw [State.recall_eq] at hu
    exact List.mem_of_mem_filter hu

theorem State.combines_recallLines (l : List Nat) : s.Combines (s.recallLines l) :=
  .foldl (fun _ _ h => State.combines_recall (h.aligned ha) _) l s (.refl s)

variable (hf : s.faulty = [])
include hf

theorem State.combines_readEntries (l : List Nat) : s.Combines (s.readEntries l) := by
  have hr := State.combines_recallLines ha (dedup (l.map (· / 128)))
  have hn : (s.recallLines (dedup (l.map (· / 128)))).faulty = [] := hr.faulty.trans hf
  unfold State.readEntries
  rw [State.noteReads_eq _ l (by rw [hn]; nofun)]
  dsimp only
  split
  · have still : ∀ a, ¬((s.recallLines (dedup (l.map (· / 128)))).readFails a
        && !(s.recallLines (dedup (l.map (· / 128)))).retiredAt a) = true := fun a => by
      simp [State.readFails, hn]
    rw [if_neg (still _)]
    exact hr
  · exact hr

theorem State.combines_walked (via : Via) (c : CtxDesc) (va : DWord) : s.Combines (s.walked via c va) := by
  unfold State.walked State.walkedFrom
  split
  · exact .refl s
  split
  · exact .refl s
  · exact State.combines_readEntries ha hf _

theorem State.combines_walkedAt (core : Nat) (t : Option Team) (l : List DWord) : s.Combines (s.walkedAt core t l) := by
  unfold State.walkedAt
  split
  · refine .foldl (fun t va h => ?_) l s (.refl s)
    split
    · exact State.combines_walked (h.aligned ha) (h.faulty.trans hf) _ _ _
    · exact .refl t
  · exact .refl s

theorem State.combines_walkLanes (p : Path) (lanes : List Nat) (al : Nat) (va : Nat → DWord) :
    s.Combines (s.walkLanes p lanes al va) := State.combines_walkedAt ha hf _ _ _

end

end Sys2Proof.Machine

namespace Sys2Proof.Machine
open Host (Outcome)

/-! ### What a load's issue leaves alone -/

theorem State.served_recallOf (s : State) (l1 line : Nat) : s.Served (s.recallOf l1 line) := by
  unfold State.recallOf
  dsimp only
  rw [State.recall_eq]
  exact ⟨rfl, rfl, rfl, rfl⟩

theorem State.served_l1Evict (s : State) (l1 : Nat) : s.Served (s.l1Evict l1) := by
  unfold State.l1Evict
  split
  · exact ⟨rfl, rfl, rfl, rfl⟩
  · split
    · exact s.served_recallOf _ _
    · exact .refl s

theorem State.served_l1Make (l1 n : Nat) : ∀ (k : Nat) (s : State), s.Served (s.l1Make l1 n k)
  | 0, s => .refl s
  | k + 1, s => by
    unfold State.l1Make
    split
    · exact .refl s
    · exact (s.served_l1Evict l1).trans (State.served_l1Make l1 n k _)

theorem State.served_l1Fill (s : State) (l1 line : Nat) : s.Served (s.l1Fill l1 line) := by
  have hm := State.served_l1Make l1 1 1 s
  unfold State.l1Fill
  split
  · exact .refl s
  dsimp only
  split
  · exact hm
  split
  · exact hm.trans ⟨rfl, rfl, rfl, rfl⟩
  · exact hm.trans ⟨rfl, rfl, rfl, rfl⟩

theorem State.served_readHome (s : State) (core n : Nat) (l : List LoadLane) : s.Served (s.readHome core n l).1 :=
  (State.Served.foldl (fun s _ => (s.served_recall _).trans (State.served_l1Fill _ _ _)) _ s).trans
    (State.served_noteReads _ _)

/-- With no partial anywhere a fill changes the copies of lines alone. -/
theorem State.l1Fill_of_no_partials {s : State} (h : s.upartials = []) (l1 line : Nat) :
    ∃ cs, s.l1Fill l1 line = { s with l1 := cs } := by
  have evict : ∃ cs, s.l1Make l1 1 1 = { s with l1 := cs } := by
    have hu : s.uLines l1 = [] := by
      unfold State.uLines
      rw [h]
      rfl
    unfold State.l1Make State.l1Evict
    rw [hu]
    split
    · exact ⟨s.l1, rfl⟩
    · split
      · exact ⟨_, rfl⟩
      · exact ⟨s.l1, rfl⟩
  obtain ⟨cs, hm⟩ := evict
  unfold State.l1Fill
  rw [hm]
  split
  · exact ⟨s.l1, rfl⟩
  dsimp only
  split
  · exact ⟨cs, rfl⟩
  split
  · exact ⟨_, rfl⟩
  · exact ⟨_, rfl⟩

theorem State.recall_of_no_partials {s : State} (h : s.upartials = []) (line : Nat) : s.recall line = s := by
  rw [State.recall_eq, h]
  show { s with mem := s.mem, upartials := [] } = s
  rw [← h]

/-- So does a reading at the homes, where no sector is about to fail. -/
theorem State.readHome_of_no_partials {s : State} (h : s.upartials = []) (hf : s.faulty = []) (core n : Nat)
    (l : List LoadLane) : ∃ cs, (s.readHome core n l).1 = { s with l1 := cs } := by
  have fold : ∀ (f : State → Nat) (ls : List Nat) (t : State), t.upartials = [] →
      ∃ cs, ls.foldl (fun t line => (t.recall line).l1Fill (f t) line) t = { t with l1 := cs } := by
    intro f ls
    induction ls with
    | nil => exact fun t _ => ⟨t.l1, rfl⟩
    | cons line r ih =>
      intro t ht
      obtain ⟨cs, hc⟩ := State.l1Fill_of_no_partials ht (f t) line
      rw [List.foldl_cons, State.recall_of_no_partials ht, hc]
      obtain ⟨cs', hc'⟩ := ih { t with l1 := cs } ht
      exact ⟨cs', hc'⟩
  obtain ⟨cs, hc⟩ := fold (fun t => t.l1Of core)
    (dedup ((l.filter (fun x => !x.readHome && x.space = .mem)).map (fun x => x.addr / 128))) s h
  refine ⟨cs, (State.noteReads_eq _ _ (fun e he => ?_)).trans hc⟩
  rw [hc] at he
  exact absurd (hf ▸ he) List.not_mem_nil

/-- One group has been changed, and units have accessed memory. -/
structure State.Reads (s t : State) (core slot : Nat) (h : Group) : Prop where
  here : t.group? core slot = some h
  others : s.OthersKept t core slot
  served : s.Served { t with groups := s.groups }

theorem State.Reads.refl {s : State} {c l : Nat} {g : Group} (h : s.group? c l = some g) : s.Reads s c l g :=
  ⟨h, fun _ _ _ => rfl, .refl s⟩

theorem State.Served.withGroups {s t : State} (h : s.Served t) (gs : List Group) :
    ({ s with groups := gs } : State).Served { t with groups := gs } :=
  ⟨congrArg (fun s : State => { s with groups := gs }) h.rest, h.rows, h.unmapped, h.packets⟩

theorem State.Reads.served_after {s t u : State} {c l : Nat} {g : Group} (h : s.Reads t c l g) (hu : t.Served u) :
    s.Reads u c l g := by
  have hg : ∀ c l, u.group? c l = t.group? c l := fun c l => by
    unfold State.group?
    rw [hu.groups]
  exact ⟨(hg c l).trans h.here, fun c' l' hne => (hg c' l').trans (h.others c' l' hne),
    h.served.trans (hu.withGroups s.groups)⟩

theorem State.Reads.modGroup {s t : State} {c l : Nat} {g : Group} (h : s.Reads t c l g) (f : Group → Group)
    (hf : ∀ g, (f g).core = g.core ∧ (f g).slot = g.slot) : s.Reads (t.modGroup c l f) c l (f g) := by
  have ho := State.modGroup_only t c l f g h.here hf
  exact ⟨ho.here, fun c' l' hne => (ho.others c' l' hne).trans (h.others c' l' hne), h.served⟩

/-- What a group asked has been served: its turn is over. -/
theorem State.Reads.answered {s t : State} {c l : Nat} {g : Group} (h : s.Reads t c l g) :
    ∃ g', s.Reads (t.answered c l) c l g' ∧ { g' with asked := g.asked } = g := by
  unfold State.answered
  split
  · exact ⟨_, h.modGroup _ (fun _ => ⟨rfl, rfl⟩), rfl⟩
  · exact ⟨g, h, rfl⟩

end Sys2Proof.Machine

namespace Sys2Proof.Machine
open Host (Outcome)

/-! ### The lanes of a load -/

/-- Where a lane of a load reads. -/
def LoadLane.place (y : LoadLane) : Nat × DWord × Space × Nat := (y.lane, y.va, y.space, y.addr)

theorem LoadLane.close_place (y : LoadLane) : y.close.place = y.place := by
  unfold LoadLane.close
  split <;> rfl

theorem State.readOrder_places (s : State) (core slot before n : Nat) (l : List LoadLane) :
    (s.readOrder core slot before n l).2.map LoadLane.place = l.map LoadLane.place := by
  unfold State.readOrder
  dsimp only
  rw [List.map_map]
  refine List.map_congr_left (fun y _ => ?_)
  simp only [Function.comp]
  split
  · exact LoadLane.close_place _
  · rfl

theorem State.readHome_places (s : State) (core n : Nat) (l : List LoadLane) :
    (s.readHome core n l).2.map LoadLane.place = l.map LoadLane.place := by
  unfold State.readHome
  dsimp only
  rw [List.map_map]
  refine List.map_congr_left (fun y _ => ?_)
  simp only [Function.comp]
  split
  · rfl
  · exact LoadLane.close_place _

theorem State.sampleLanes_places (s : State) (core slot before n : Nat) (l : List LoadLane) :
    (s.sampleLanes core slot before n l).2.map LoadLane.place = l.map LoadLane.place :=
  (State.readHome_places _ _ _ _).trans (s.readOrder_places core slot before n l)

/-- Reading at issue changes what the group has seen, and the homes that it reads. -/
theorem State.Reads.sampleLanes {s t : State} {c l : Nat} {g : Group} (h : s.Reads t c l g) (before n : Nat)
    (ls : List LoadLane) :
    ∃ g', s.Reads (t.sampleLanes c l before n ls).1 c l g' ∧ { g' with saw := g.saw } = g :=
  ⟨_, (h.modGroup (fun g => { g with saw := dedup (g.saw ++ ls.flatMap (fun x =>
      if x.data.isEmpty then t.sawIds c l before x.space (x.addr / 128) else [])) })
    (fun _ => ⟨rfl, rfl⟩)).served_after (State.served_readHome _ c n _), rfl⟩

/-! ### Lanes that all pass their checks leave together -/

/-- Where every lane passes its checks, only the walks are made. -/
theorem State.sift_of_go {s : State} {p : Path} {lanes : List Nat} {al : Nat} {va : Nat → DWord} {chk : Nat → Checked}
    {pl : Nat → Place} (h : ∀ j ∈ lanes, chk j = .go (pl j)) :
    s.sift p lanes al va chk = (s.walkLanes p lanes al va, [], lanes.map (fun j => (j, pl j)), []) := by
  unfold State.sift
  simp only [Prod.mk.injEq]
  refine ⟨?parks, ?traps, ?go, ?drop⟩
  case parks =>
    rw [List.filterMap_eq_nil_iff.mpr (fun j hj => by rw [h j hj])]
    rfl
  case traps => exact List.filterMap_eq_nil_iff.mpr (fun j hj => by rw [h j hj])
  case go =>
    rw [← List.filterMap_eq_map']
    exact List.filterMap_congr (fun j hj => by rw [h j hj])
  case drop => exact List.filter_eq_nil_iff.mpr (fun j hj => by rw [h j hj]; nofun)

theorem updAll_id {α : Type} : ∀ (n : Nat) (l : List α), updAll (fun _ a => a) n l = l
  | _, [] => rfl
  | n, a :: r => congrArg (a :: ·) (updAll_id (n + 1) r)

theorem State.moveLanes_none (s : State) (core slot : Nat) (target : Nat → DWord) : s.moveLanes core slot 0 target = s := by
  have hl : ∀ (g : Group) (f : Nat → Lane → Lane), g.modLanes 0 f = g := fun g f => by
    unfold Group.modLanes
    simp only [BitVec.ofNat_eq_ofNat, BitVec.getLsbD_zero, Bool.false_eq_true, if_false, updAll_id]
  unfold State.moveLanes State.modGroup
  simp only [hl, ite_self, List.map_id']

theorem State.sequential_coreBlock (s : State) (c l : Nat) (m : Word) (e : DWord) (k : Nat) :
    (s.sequential c l m e).coreBlock k = s.coreBlock k := by
  unfold State.sequential
  split
  · rfl
  · split <;> rfl

/-- Where stepping is off, lanes that complete with no trap among them leave the issue as a completion does. -/
theorem State.finishIssue_of_no_traps {s : State} {core slot : Nat}
    (hs : ¬(slot < 15 ∧ (s.coreBlock core).stepMask.getLsbD slot = true)) (after e : DWord) (seq : Word) :
    s.finishIssue core slot after [] seq e = s.complete core slot seq e := by
  have hseq : ¬(slot < 15 ∧ ((s.sequential core slot seq e).coreBlock core).stepMask.getLsbD slot = true) := by
    rw [State.sequential_coreBlock]
    exact hs
  unfold State.finishIssue State.complete State.stepTrap
  dsimp only
  rw [State.moveLanes_none, if_neg hseq, if_neg hseq]
  rfl

/-- The lanes of L and those whose guard is false are the lanes that issue. -/
theorem Path.lanes_or_off {p : Path} (h : ∀ j, p.I.getLsbD j = false → p.L.getLsbD j = false) :
    maskList (lanesOf p.L) ||| maskList [] ||| p.off = p.I := by
  refine BitVec.eq_of_getLsbD_eq (fun j hj => ?_)
  have hm : (maskList (lanesOf p.L)).getLsbD j = p.L.getLsbD j := by
    have hc : (lanesOf p.L).contains j = p.L.getLsbD j := by
      rw [Bool.eq_iff_iff, List.contains_iff_mem, mem_lanesOf]
      exact ⟨And.right, fun h => ⟨hj, h⟩⟩
    rw [maskList, maskOf_getLsbD, hc]
    simp [hj]
  have h0 : (maskList []).getLsbD j = false := by
    rw [maskList, maskOf_getLsbD]
    simp
  rw [BitVec.getLsbD_or, BitVec.getLsbD_or, hm, h0, Path.off, BitVec.getLsbD_and, BitVec.getLsbD_not]
  have := h j
  cases hI : p.I.getLsbD j <;> cases hL : p.L.getLsbD j <;> simp_all

/-- Where every lane of L has passed its checks and stepping is off, the whole path goes on. -/
theorem State.finishMem_goes {u : State} {p : Path} {h : Group} {go : List (Nat × Place)}
    (hgo : go.map Prod.fst = lanesOf p.L) (hsub : ∀ j, p.I.getLsbD j = false → p.L.getLsbD j = false)
    (hu : u.group? p.core p.slot = some h) (hw : h.lanes.length = 32) (hI : p.I ≠ 0)
    (hs : ¬(p.slot < 15 ∧ (u.coreBlock p.core).stepMask.getLsbD p.slot = true)) :
    u.Goes (u.finishMem p [] go []) p h := by
  have e : u.finishMem p [] go [] = u.complete p.core p.slot p.I p.next := by
    unfold State.finishMem
    rw [hgo, Path.lanes_or_off hsub, State.finishIssue_of_no_traps hs]
    rfl
  rw [e]
  exact State.complete_resumes u p.core p.slot p.I p.next h hu hw hI hs

end Sys2Proof.Machine

namespace Sys2Proof.Machine
open Host (Outcome)

/-! ### LD where every lane passes its checks -/

/-- The snapshot at which a load reads cameo lines. -/
def ldSnap (x : Exts) (p : Path) : Option DWord :=
  if Exts.kind x = 2 then some (p.g.rs (Exts.c x).toNat) else p.g.txnSnap.map Txn.snap

/-- The lanes of L with the places that they access. -/
def Path.places (p : Path) (pl : Nat → Place) : List (Nat × Place) := (lanesOf p.L).map (fun j => (j, pl j))

/-- A lane of a load as it is put under way. -/
def State.ldLane (s : State) (p : Path) (snap : Option DWord) (n : Nat) (va : Nat → DWord) (e : Nat × Place) : LoadLane :=
  { lane := e.1, va := va e.1, space := e.2.space, addr := e.2.addr
    data := match snap with
      | some sn => if e.2.cameo && e.2.space = .mem then s.readAt sn p.g.buffered e.2.addr n else []
      | none => []
    way := { since := s.time } }

/-- The reading that a load makes at issue: of cameo lines at a snapshot, and of every lane where one reaches a peer's
window. -/
def State.ldRead (s : State) (p : Path) (n : Nat) (snaps : List (Nat × Place)) (peer : Bool) (ls : List LoadLane) :
    State × List LoadLane :=
  let s := (if snaps.isEmpty then s else s.answered p.core p.slot).noteReads (snaps.map (fun e => e.2.addr))
  if peer then s.sampleLanes p.core p.slot s.nextId n ls else (s, ls)

/-- The load that an LD puts under way. -/
def State.ldEntry (s : State) (x : Exts) (p : Path) (d : BitVec 7) (id : Nat) (ls : List LoadLane) (peer : Bool) :
    PendingLoad :=
  { id := id, core := p.core, slot := p.slot, pc := s.cur.pc, after := p.next, bytes := widthBytes (Exts.width x)
    width := Exts.width x, dest := p.g.wbase + d.toNat
    lanes := ls, acq := Exts.ord x = 1, ordered := peer, homed := peer, sampled := peer, tag := s.cur.tag
    born := s.time }

/-- Whether a lane of L reaches a peer's window. -/
def Path.reachesPeer (p : Path) (pl : Nat → Place) : Bool := (p.places pl).any (fun e => p.g.peerPlace e.2)

/-- The walks of a load, and what it reads at issue. -/
def State.ldReading (s : State) (x : Exts) (p : Path) (n : Nat) (va : Nat → DWord) (pl : Nat → Place) :
    State × List LoadLane :=
  (s.walkLanes p (lanesOf p.L) n va).ldRead p n (snapPlaces (ldSnap x p) (p.places pl)) (p.reachesPeer pl)
    ((p.places pl).map (s.ldLane p (ldSnap x p) n va))

/-- The load that is put under way, and the state with it. -/
def State.ldLoad (s : State) (x : Exts) (p : Path) (d : BitVec 7) (n : Nat) (va : Nat → DWord) (pl : Nat → Place) :
    PendingLoad :=
  let r := s.ldReading x p n va pl
  s.ldEntry x p d r.1.nextId r.2 (p.reachesPeer pl)
def State.ldIssued (s : State) (x : Exts) (p : Path) (d : BitVec 7) (n : Nat) (va : Nat → DWord) (pl : Nat → Place) :
    State :=
  let t := (s.ldReading x p n va pl).1
  { t with loads := t.loads ++ [s.ldLoad x p d n va pl], nextId := t.nextId + 1 }

theorem execLd_of_go {s : State} {x : Exts} {p : Path} {d a : BitVec 7} {imm : BitVec 12} {pl : Nat → Place}
    (hp : s.path x = some p) (hL : lanesOf p.L ≠ [])
    (hr : p.g.hasRegs (addrRegs x a ++ vuse false d (widthRegs (Exts.width x))) = true)
    (hacq : s.acquiring p.core p.slot = false)
    (hgo : ∀ j ∈ lanesOf p.L,
      s.checkLoad x p (p.g.address x a (memOff x imm) j) (widthBytes (Exts.width x)) = .go (pl j))
    (hpeer : p.reachesPeer pl = true → s.canReadNow p (p.places pl) = true)
    (hhid : ∀ e ∈ snapPlaces (ldSnap x p) (p.places pl), s.hidden p.core p.slot .mem (e.2.addr / 128) = false)
    (hserved : s.issueServed p.core p.slot (memLines (snapPlaces (ldSnap x p) (p.places pl))) = true) :
    execLd x d a imm s = .next ((s.ldIssued x p d (widthBytes (Exts.width x)) (p.g.address x a (memOff x imm)) pl).finishMem
      p [] (p.places pl) []) := by
  have held : ¬((s.acquiring p.core p.slot
      || (p.reachesPeer pl && !s.canReadNow p (p.places pl))
      || (snapPlaces (ldSnap x p) (p.places pl)).any (fun e => s.hidden p.core p.slot .mem (e.2.addr / 128))) = true) := by
    have h1 : (snapPlaces (ldSnap x p) (p.places pl)).any (fun e => s.hidden p.core p.slot .mem (e.2.addr / 128)) = false :=
      List.any_eq_false.mpr (fun e he => by rw [hhid e he]; decide)
    rw [hacq, h1]
    cases hb : p.reachesPeer pl with
    | false => simp
    | true => simp [hpeer hb]
  have any : ¬((p.places pl).isEmpty = true) := by
    rw [List.isEmpty_iff]
    exact fun h => hL (List.map_eq_nil_iff.mp h)
  have waits : ¬((!s.issueServed p.core p.slot (memLines (snapPlaces (ldSnap x p) (p.places pl)))) = true) := by
    rw [hserved]
    decide
  unfold execLd
  rw [hp]
  dsimp only
  rw [if_neg (by rw [hr]; simp), State.sift_of_go hgo]
  exact (if_neg held).trans ((if_neg any).trans ((if_neg waits).trans rfl))

end Sys2Proof.Machine

namespace Sys2Proof.Machine
open Host (Outcome)

/-! ### The reading that a load makes at issue -/

theorem State.Reads.ldRead {s t : State} {p : Path} {g : Group} (h : s.Reads t p.core p.slot g) (n : Nat)
    (snaps : List (Nat × Place)) (peer : Bool) (ls : List LoadLane) :
    ∃ g', s.Reads (t.ldRead p n snaps peer ls).1 p.core p.slot g' ∧ { g' with saw := g.saw, asked := g.asked } = g
      ∧ (peer = false → { g' with asked := g.asked } = g) := by
  obtain ⟨g1, h1, e1⟩ : ∃ g1, s.Reads (if snaps.isEmpty then t else t.answered p.core p.slot) p.core p.slot g1
      ∧ { g1 with asked := g.asked } = g := by
    split
    · exact ⟨g, h, rfl⟩
    · exact h.answered
  have h2 := h1.served_after (State.served_noteReads _ (snaps.map (fun e => e.2.addr)))
  have e2 : { g1 with saw := g.saw, asked := g.asked } = g := by
    rw [← e1]
  cases peer with
  | false => exact ⟨g1, h2, e2, fun _ => e1⟩
  | true =>
    obtain ⟨g3, h3, e3⟩ := h2.sampleLanes (State.nextId _) n ls
    refine ⟨g3, h3, ?_, nofun⟩
    rw [← e2, ← e3]

theorem State.ldRead_places (t : State) (p : Path) (n : Nat) (snaps : List (Nat × Place)) (peer : Bool)
    (ls : List LoadLane) : (t.ldRead p n snaps peer ls).2.map LoadLane.place = ls.map LoadLane.place := by
  cases peer with
  | false => rfl
  | true => exact State.sampleLanes_places _ _ _ _ _ _

/-- Where no partial stands or no lane reaches a peer's window, and no sector is about to fail, it changes the group and
the copies of lines alone. -/
theorem State.ldRead_eq {t : State} (hf : t.faulty = []) (p : Path) (n : Nat) (snaps : List (Nat × Place)) {peer : Bool}
    (ls : List LoadLane) (h : t.upartials = [] ∨ peer = false) :
    ∃ gs cs, (t.ldRead p n snaps peer ls).1 = { t with groups := gs, l1 := cs } := by
  obtain ⟨gs, hgs⟩ : ∃ gs, (if snaps.isEmpty then t else t.answered p.core p.slot) = { t with groups := gs } := by
    unfold State.answered
    split
    · exact ⟨t.groups, rfl⟩
    split
    · exact ⟨_, rfl⟩
    · exact ⟨t.groups, rfl⟩
  have hn : ({ t with groups := gs } : State).noteReads (snaps.map (fun e => e.2.addr)) = { t with groups := gs } :=
    State.noteReads_eq _ _ (fun e he => absurd (hf ▸ he) List.not_mem_nil)
  unfold State.ldRead
  rw [hgs, hn]
  cases peer with
  | false => exact ⟨gs, t.l1, rfl⟩
  | true =>
    have hu : t.upartials = [] := h.resolve_right nofun
    obtain ⟨cs, hc⟩ := State.readHome_of_no_partials
      (s := (({ t with groups := gs } : State).readOrder p.core p.slot t.nextId n ls).1) hu hf p.core n
      (({ t with groups := gs } : State).readOrder p.core p.slot t.nextId n ls).2
    exact ⟨_, cs, hc⟩

/-- So it keeps what any reader finds. -/
theorem State.ldRead_view {t : State} (hf : t.faulty = []) (p : Path) (n : Nat) (snaps : List (Nat × Place)) {peer : Bool}
    (ls : List LoadLane) (h : t.upartials = [] ∨ peer = false) (b : Nat) :
    (t.ldRead p n snaps peer ls).1.view .mem b = t.view .mem b := by
  obtain ⟨gs, cs, he⟩ := State.ldRead_eq hf p n snaps ls h
  rw [he]
  exact State.view_congr (s := t) (t := { t with groups := gs, l1 := cs }) rfl rfl b

/-! ### What it leaves of the state -/

section
variable {s t : State} {c l : Nat} {g : Group} (h : s.Reads t c l g)
include h

theorem State.Reads.loads : t.loads = s.loads := h.served.loads
theorem State.Reads.writes : t.writes = s.writes := h.served.writes
theorem State.Reads.teams : t.teams = s.teams := h.served.teams
theorem State.Reads.nextId : t.nextId = s.nextId := h.served.nextId

theorem State.Reads.coreBlock (k : Nat) : t.coreBlock k = s.coreBlock k := by
  have e := congrArg State.cores h.served.rest
  exact congrArg (fun l => l.getD k {}) e

end

/-- A field of the load's lanes, by the place that they access. -/
theorem State.ldLane_data {s : State} {x : Exts} {p : Path} {n : Nat} {va : Nat → DWord} (e : Nat × Place) :
    (e.2.cameo = false ∨ e.2.space ≠ .mem ∨ (Exts.kind x ≠ 2 ∧ p.g.txnSnap = none) →
        (s.ldLane p (ldSnap x p) n va e).data = [])
      ∧ (e.2.cameo = true → e.2.space = .mem → Exts.kind x = 2 →
        (s.ldLane p (ldSnap x p) n va e).data = s.readAt (p.g.rs (Exts.c x).toNat) p.g.buffered e.2.addr n) := by
  unfold State.ldLane ldSnap
  refine ⟨fun h => ?_, fun h1 h2 h3 => ?_⟩
  · rcases h with h | h | ⟨h1, h2⟩
    · split <;> simp [h]
    · split <;> simp [h]
    · simp [h1, h2]
  · simp [h1, h2, h3]

end Sys2Proof.Machine

namespace Sys2Proof.Machine
open Host (Outcome)

/-! ### What an LD leaves (R250) -/

section
variable {s : State} {x : Exts} {p : Path} {n : Nat} {va : Nat → DWord} {pl : Nat → Place}

theorem State.served_walkLanes (s : State) (p : Path) (lanes : List Nat) (al : Nat) (va : Nat → DWord) :
    s.Served (s.walkLanes p lanes al va) := s.served_walkedAt _ _ _

theorem State.reads_ldReading (hg : s.group? p.core p.slot = some p.g) :
    ∃ h, s.Reads (s.ldReading x p n va pl).1 p.core p.slot h ∧ { h with saw := p.g.saw, asked := p.g.asked } = p.g
      ∧ (p.reachesPeer pl = false → { h with asked := p.g.asked } = p.g) :=
  ((State.Reads.refl hg).served_after (s.served_walkLanes p _ n va)).ldRead n _ _ _

theorem State.ldReading_places : (s.ldReading x p n va pl).2.map LoadLane.place
    = (lanesOf p.L).map (fun j => (j, va j, (pl j).space, (pl j).addr)) := by
  refine (State.ldRead_places _ _ _ _ _ _).trans ?_
  rw [Path.places, List.map_map, List.map_map]
  rfl

theorem State.ldReading_view (ha : s.PartialsAligned) (hf : s.faulty = [])
    (h : s.upartials = [] ∨ p.reachesPeer pl = false) (b : Nat) :
    (s.ldReading x p n va pl).1.view .mem b = s.view .mem b := by
  have hw := State.combines_walkLanes ha hf p (lanesOf p.L) n va
  have hu : (s.walkLanes p (lanesOf p.L) n va).upartials = [] ∨ p.reachesPeer pl = false :=
    h.imp_left (fun h => List.eq_nil_iff_forall_not_mem.mpr (fun u hu => List.not_mem_nil (h ▸ hw.fewer u hu)))
  exact (State.ldRead_view (hw.faulty.trans hf) p n _ _ hu b).trans (hw.recalled.same b)

/-- With no peer's window among them, the lanes have read nothing but cameo lines at a snapshot. -/
theorem State.ldReading_lanes (h : p.reachesPeer pl = false) :
    (s.ldReading x p n va pl).2 = (p.places pl).map (s.ldLane p (ldSnap x p) n va) := by
  unfold State.ldReading
  rw [h]
  rfl

end

theorem Path.reachesPeer_iff (p : Path) (pl : Nat → Place) :
    p.reachesPeer pl = true ↔ ∃ j, j < 32 ∧ p.L.getLsbD j = true ∧ p.g.peerPlace (pl j) = true := by
  unfold Path.reachesPeer Path.places
  rw [List.any_map, List.any_eq_true]
  exact ⟨fun ⟨j, hj, h⟩ => ⟨j, ((mem_lanesOf _ j).mp hj).1, ((mem_lanesOf _ j).mp hj).2, h⟩,
    fun ⟨j, h1, h2, h⟩ => ⟨j, (mem_lanesOf _ j).mpr ⟨h1, h2⟩, h⟩⟩

theorem Path.not_reachesPeer {p : Path} {pl : Nat → Place}
    (h : ∀ j, j < 32 → p.L.getLsbD j = true → p.g.peerPlace (pl j) = false) : p.reachesPeer pl = false := by
  rw [← Bool.not_eq_true, Path.reachesPeer_iff]
  rintro ⟨j, h1, h2, h3⟩
  rw [h j h1 h2] at h3
  cases h3

theorem lanesOf_ne_nil {m : Word} (h : m ≠ 0) : lanesOf m ≠ [] := by
  refine fun he => h (BitVec.eq_of_getLsbD_eq (fun j hj => ?_))
  have hn : j ∉ lanesOf m := he ▸ List.not_mem_nil
  rw [mem_lanesOf] at hn
  rw [Bool.eq_false_iff.mpr (fun hb => hn ⟨hj, hb⟩)]
  simp

/-! ### The addresses (R85) -/

theorem Group.address_uniform {g : Group} {x : Exts} {a : BitVec 7} {off : DWord} (h : Exts.uniA x = true) (j : Nat) :
    g.address x a off j = g.rs a.toNat + off := if_pos h

theorem Group.address_pair {g : Group} {x : Exts} {a : BitVec 7} {off : DWord} (ha : Exts.uniA x = false)
    (hb : Exts.uniB x = true) (j : Nat) : g.address x a off j = g.srcP false (Exts.fa x) a j + off := by
  simp only [Group.address, ha, hb, Bool.false_eq_true, if_false, if_true]

theorem Group.address_word {g : Group} {x : Exts} {a : BitVec 7} {off : DWord} (ha : Exts.uniA x = false)
    (hb : Exts.uniB x = false) (j : Nat) : g.address x a off j =
      (g.srcV false (Exts.fa x) a j).setWidth 64 + off + (if Exts.uniC x = true then g.rs (Exts.c x).toNat else 0) := by
  simp only [Group.address, ha, hb, Bool.false_eq_true, if_false]
  split
  · exact BitVec.add_comm _ _
  · exact (BitVec.add_zero _).symm

end Sys2Proof.Machine

namespace Sys2Proof
open Sys2Proof.Machine

/-- Settles O30: where every lane passes its checks, LD walks for its addresses, reads what it reads at issue, and puts one
load under way. -/
theorem loadsIssue : Obligations.LoadsIssue := by
  unfold Obligations.LoadsIssue
  intro s x p d a imm pl n va
  refine ⟨Group.address_uniform, Group.address_pair, Group.address_word, ?_⟩
  intro hi hL hr hacq hal hf hgo hpeer ⟨hhid, hserved⟩
  have hgo' : ∀ j ∈ lanesOf p.L, s.checkLoad x p (va j) n = .go (pl j) := fun j hj =>
    hgo j ((mem_lanesOf _ j).mp hj).1 ((mem_lanesOf _ j).mp hj).2
  have hexec : exec (.ld x d a imm) s = .next ((s.ldIssued x p d n va pl).finishMem p [] (p.places pl) []) :=
    execLd_of_go hi.path (lanesOf_ne_nil hL) hr hacq hgo' (fun h => hpeer ((p.reachesPeer_iff pl).mp h)) hhid hserved
  obtain ⟨h, hread, hsaw, hsame⟩ := State.reads_ldReading (x := x) (n := n) (va := va) (pl := pl)
    (State.path_group s x _ p hi.path)
  have hgoes : (s.ldIssued x p d n va pl).Goes ((s.ldIssued x p d n va pl).finishMem p [] (p.places pl) []) p h := by
    refine State.finishMem_goes ?_ (State.path_sub s x _ p hi.path) hread.here ?_ hi.lanes ?_
    · rw [Path.places, List.map_map]
      exact List.map_id _
    · rw [← hi.width, ← hsaw]
    · rw [show (s.ldIssued x p d n va pl).coreBlock p.core = s.coreBlock p.core from hread.coreBlock p.core]
      exact hi.free
  refine ⟨s.ldIssued x p d n va pl, _, h, s.ldLoad x p d n va pl, hexec, hgoes, hsaw, ?loads, hread.writes, hread.teams,
    hread.others, ?view, hread.nextId, rfl, rfl, rfl, rfl, rfl, rfl, rfl, rfl, rfl, State.ldReading_places, ?own⟩
  case loads => exact congrArg (· ++ [s.ldLoad x p d n va pl]) hread.loads
  case view =>
    intro hv b
    have hr : (s.ldIssued x p d n va pl).view .mem b = (s.ldReading x p n va pl).1.view .mem b :=
      State.view_congr (s := (s.ldReading x p n va pl).1) (t := s.ldIssued x p d n va pl) rfl rfl b
    exact hr.trans (State.ldReading_view hal.1 hf (hv.imp_right Path.not_reachesPeer) b)
  case own =>
    intro hno
    have hp := Path.not_reachesPeer hno
    refine ⟨hsame hp, hp, hp, hp, fun y hy => ?_⟩
    have hy' : y ∈ (s.ldReading x p n va pl).2 := hy
    rw [State.ldReading_lanes hp, Path.places, List.map_map] at hy'
    obtain ⟨j, _, rfl⟩ := List.mem_map.mp hy'
    exact State.ldLane_data (j, pl j)

end Sys2Proof
